-- ==== Sys2Proof/Word.lean ====
section
/-! DEFINITION. The words the part counts and sends in, and the index types of its tables. -/

namespace Sys2Proof

/-- A byte of either serial line. -/
abbrev Byte := BitVec 8

/-- A running time: a count of ds that wraps after 4,294,967,295 (R1). -/
abbrev Time := BitVec 32

/-- A position along the arterial; `Fin` value `i` is position number `i + 1` (00_scope.md 0.5). -/
abbrev Pos := Fin 12

/-- A slot of the Plan Library; value `i` is slot number `i + 1` (R103). -/
abbrev SlotIx := Fin 24

/-- A place of the rule table; value `i` is index `i + 1` (10_event_routing.md 10.3). -/
abbrev RuleIx := Fin 48

/-- A place of the selection table; value `i` is index `i + 1` (07_plan_selection.md 7.3). -/
abbrev SelectIx := Fin 8

/-- A segment of the arterial; value `i` is segment number `i + 1` (00_scope.md 0.5). -/
abbrev Segment := Fin 11

end Sys2Proof
end

