-- ==== Sys2Proof/Vocabulary.lean ====
section
/-! DEFINITION. The names the spec uses for the values of its fields, one inductive type per set of names. -/

namespace Sys2Proof

/-- Direction of travel of a link (00_scope.md 0.5). -/
inductive Direction where
  | inbound
  | outbound
  deriving DecidableEq, Repr

/-- Direction of an event record, which may be NONE (10_event_routing.md 10.1). -/
inductive EventDirection where
  | inbound
  | outbound
  | none
  deriving DecidableEq, Repr

/-- Wave direction of a plan (06_the_plan_library.md 6.1). -/
inductive Wave where
  | inbound
  | outbound
  | twoWay
  deriving DecidableEq, Repr

/-- Part mode (11_the_supervisory_line.md 11.4). -/
inductive PartMode where
  | setup
  | live
  deriving DecidableEq, Repr

/-- Why a LOCAL position is not steered (02_offset_coordination.md 2.1). -/
inductive LocalReason where
  | setup
  | free
  | notInPlan
  | cutOff
  | quiet
  | fieldLocal
  | refusing
  | relay
  | noCommonMode
  | awaitingMark
  deriving DecidableEq, Repr

/-- The way a SEEKING position is being moved (R30). -/
inductive SeekDirection where
  | lengthen
  | shorten
  deriving DecidableEq, Repr

/-- Coordination state with what is present only in one of its values: the local reason in LOCAL, the seek direction
in SEEKING (02_offset_coordination.md 2.1 and 2.2). -/
inductive CoordState where
  | unseen
  | inLocal (reason : LocalReason)
  | seeking (way : SeekDirection)
  | inStep
  | preempted
  deriving DecidableEq, Repr

/-- The three approaches of a position (04_queue_watch_and_spillback_control.md 4.1). -/
inductive Approach where
  | inboundArterial
  | outboundArterial
  | side
  deriving DecidableEq, Repr

/-- Queue classification, in the order UNKNOWN < CLEAR < BUILDING < BLOCKED. -/
inductive QueueState where
  | unknown
  | clear
  | building
  | blocked
  deriving DecidableEq, Repr

/-- The three gridlock conditions (R79). -/
inductive GridlockCondition where
  | cross
  | chainInbound
  | chainOutbound
  deriving DecidableEq, Repr

/-- Resolved mode of an identified position (R151). -/
inductive ResolvedMode where
  | full
  | timed
  | paced
  | relay
  | none
  deriving DecidableEq, Repr

/-- Health of a position on the line (09_identification_and_line_health.md 9.3). -/
inductive HealthState where
  | sound
  | degraded
  | cutOff
  deriving DecidableEq, Repr

/-- Identification state (09_identification_and_line_health.md 9.2). -/
inductive IdState where
  | unknown
  | probing
  | identified
  | absent
  | mismatch
  deriving DecidableEq, Repr

/-- Re-identification stage (R155). -/
inductive Stage where
  | none
  | quieting
  | quiet
  deriving DecidableEq, Repr

/-- Recovery policy of a configured position (R154). -/
inductive Recovery where
  | auto
  | host
  deriving DecidableEq, Repr

/-- Cause carried by a HEALTH-CHANGE notice (R152). -/
inductive HealthCause where
  | score
  | failures
  | probes
  | identification
  deriving DecidableEq, Repr

/-- Reason carried by a SITE-MISMATCH notice (R151). -/
inductive MismatchReason where
  | site
  | basicUnit
  deriving DecidableEq, Repr

/-- Increment mode of the staging cursor (06_the_plan_library.md 6.3). -/
inductive IncrementMode where
  | hold
  | onWrite
  | onAccess
  deriving DecidableEq, Repr

/-- Kind of an event record, coded from 0 in this order (10_event_routing.md 10.1). -/
inductive RecordKind where
  | greenGroup
  | arrival
  | occupancy
  | count
  | actuation
  | preemptCall
  | preemptClear
  | transitCall
  | unitFault
  deriving DecidableEq, Repr

/-- Cause of a pending plan (07_plan_selection.md 7.1). -/
inductive PlanCause where
  | pin
  | demand
  | reload
  deriving DecidableEq, Repr

/-- Selector mode (07_plan_selection.md 7.1). -/
inductive SelectorMode where
  | free
  | pinned (slot : SlotIx)
  | responsive
  deriving DecidableEq, Repr

/-- A SET-SELECT-MODE waiting for the next mark, with its slot or persistence setting (R122). -/
inductive RequestedMode where
  | free
  | pinned (slot : SlotIx)
  | responsive (setting : Nat)
  deriving DecidableEq, Repr

/-- Reason of a NAK, coded from 0 in this order (R132). -/
inductive NakReason where
  | belowMinimum
  | pedService
  | preempting
  | localControl
  | badPlan
  deriving DecidableEq, Repr

/-- Reason of a PRIORITY-ANSWER DENY (11_the_supervisory_line.md 11.6). -/
inductive DenyReason where
  | notEligible
  | budget
  | overlay
  | preempted
  deriving DecidableEq, Repr

/-- The answer to a transit call: a grant with its extension, or a denial with its reason (R96, R97). -/
inductive TransitAnswer where
  | grant (extension : Nat)
  | deny (reason : DenyReason)
  deriving DecidableEq, Repr

/-- Signal stage of a STATUS (11_the_supervisory_line.md 11.6). -/
inductive SignalStage where
  | mainGreen
  | change
  | sideService
  | preempting
  deriving DecidableEq, Repr

/-- What makes a reply GARBLED, the byte gap apart (R131). -/
inductive ReplyFault where
  | leadByte
  | lengthAbove80
  | checkWrong
  | addressDiffers
  | kindNotExpected
  | bodyLength
  | codeOutsideSet
  deriving DecidableEq, Repr

/-- Preemption owner of a position (05_preemption_and_transit_priority.md 5.1). -/
inductive Owner where
  | none
  | localCall (direction : EventDirection)
  | route (origin : Pos)
  deriving DecidableEq, Repr

/-- Cause of a PREEMPT-START notice (R95). -/
inductive StartCause where
  | call
  | flag
  | nak
  deriving DecidableEq, Repr

/-- Cause of a PREEMPT-END notice (R95). -/
inductive EndCause where
  | clear
  | flag
  | originLost
  | timeout
  | cancelled
  deriving DecidableEq, Repr

/-- What became of the route asked for by a local call (R95). -/
inductive RouteOutcome where
  | formed (members : List Pos)
  | noneRequested
  | noMembers
  | tableFull
  deriving DecidableEq, Repr

/-- Class of a Link Command Queue entry, lowest first (R136). -/
inductive CommandClass where
  | admin
  | timing
  | answer
  | beacon
  | clearance
  deriving DecidableEq, Repr

/-- The block that offered a queue entry and is told of its outcome (R136). -/
inductive Originator where
  | ctb
  | oc
  | pm
  | ih
  deriving DecidableEq, Repr

/-- The 19 notice kinds, codes 0x81 to 0x93 in this order (11_the_supervisory_line.md 11.5). -/
inductive NoticeKind where
  | positionState
  | healthChange
  | lineReset
  | identified
  | siteMismatch
  | planChange
  | planChangeFailed
  | commitDone
  | eraseDone
  | queueState
  | gridlockRisk
  | poolEmpty
  | linkTracking
  | preemptStart
  | preemptEnd
  | transitGrant
  | timingRefused
  | detectorEvent
  | overrun
  deriving DecidableEq, Repr

/-- The request kinds of the catalogue (11_the_supervisory_line.md 11.5). -/
inductive RequestKind where
  | goLive
  | goSetup
  | partReset
  | coordRestart
  | getPartStatus
  | setNoticeMask
  | setTime
  | getTime
  | setBeacon
  | setPosition
  | clearPosition
  | getPosition
  | reIdentify
  | rejoin
  | setLink
  | getLink
  | getPlatoons
  | setSlack
  | setTransitionLimits
  | setRule
  | clearRule
  | getRule
  | stageOpen
  | stageHeader
  | stageSeek
  | stageEntry
  | stageRead
  | stageDiscard
  | commitPlan
  | erasePlan
  | getSlot
  | setSelectMode
  | setSelectEntry
  | getSelection
  | setQueueLimits
  | getQueue
  | setPriorityPolicy
  | getPreemption
  | cancelRoute
  deriving DecidableEq, Repr

/-- Line condition of the Corridor Line Controller (08_the_corridor_line.md 8.8). -/
inductive LineCondition where
  | idle
  | exchange
  | lineBreak
  deriving DecidableEq, Repr

/-- What COR-TX carries: mark when idle, the bits of a frame, or the space of a line break (R131, R142, R143). -/
inductive TxLevel where
  | mark
  | frame
  | space
  deriving DecidableEq, Repr

/-- State of the supervisory receiver (R169). -/
inductive ReceiverState where
  | hunt
  | length
  | kind
  | body
  | check
  deriving DecidableEq, Repr

end Sys2Proof
end

