-- ==== Sys2Proof/Syntax.lean ====
section
/-! DEFINITION. The commands of spec/opcode_table.json: one constructor of `Instr` per row, with the row's operands.
A request's operand is the body of its frame as received: figures may lie outside their ranges, and codes outside their
sets, so that every check of the owning rule can be met. -/

namespace Sys2Proof

/-- The body of a request frame whose check and kind are right: its fields, or a body whose length is not the one the
layout calls for (R169). -/
inductive Body (α : Type) where
  | fields (x : α)
  | wrongLength (length : Nat)
  deriving DecidableEq, Repr

/-- SET-POSITION, fields 1 to 6 (R146). Sets are bit fields, enumerated values codes (11.6). -/
structure PositionFields where
  position : Nat
  address : Nat
  site : Nat
  permittedModes : Nat
  recovery : Nat
  routeLength : Nat
  deriving DecidableEq, Repr

/-- SET-LINK, fields 1 to 6 (R44). -/
structure LinkFields where
  segment : Nat
  direction : Nat
  distance : Nat
  speed : Nat
  lead : Nat
  depth : Nat
  deriving DecidableEq, Repr

/-- GET-LINK and GET-PLATOONS, fields 1 and 2 (R45, R64). -/
structure LinkName where
  segment : Nat
  direction : Nat
  deriving DecidableEq, Repr

/-- SET-SLACK, fields 1 to 3 (R46). -/
structure SlackFields where
  early : Nat
  late : Nat
  minimumSize : Nat
  deriving DecidableEq, Repr

/-- SET-TRANSITION-LIMITS, fields 1 to 6 (R34). -/
structure LimitFields where
  lengthen : Nat
  shorten : Nat
  tolerance : Nat
  trimLimit : Nat
  sideLow : Nat
  sideRange : Nat
  deriving DecidableEq, Repr

/-- SET-RULE, fields 1 to 8 (R165). -/
structure RuleFields where
  index : Nat
  matchKind : Nat
  matchDirection : Nat
  detectorLow : Nat
  detectorHigh : Nat
  positionSet : Nat
  destinations : Nat
  tag : Nat
  deriving DecidableEq, Repr

/-- GET-RULE with its action code as received; READ is 0 (R167). -/
structure RuleQuery where
  index : Nat
  action : Nat
  deriving DecidableEq, Repr

/-- STAGE-OPEN with a source code other than COPY; BLANK is 1 (R107). -/
structure OpenBlankFields where
  target : Nat
  source : Nat
  deriving DecidableEq, Repr

/-- STAGE-OPEN with source COPY (R107). -/
structure OpenCopyFields where
  target : Nat
  sourceSlot : Nat
  deriving DecidableEq, Repr

/-- STAGE-HEADER, fields 1 and 2 (R108). -/
structure HeaderFields where
  cycleLength : Nat
  wave : Nat
  deriving DecidableEq, Repr

/-- STAGE-SEEK, fields 1 and 2 (R109). -/
structure SeekFields where
  position : Nat
  mode : Nat
  deriving DecidableEq, Repr

/-- STAGE-ENTRY WRITE, fields 2 to 8; the adapt flag is coded SET 0, CLEAR 1 (R110). -/
structure EntryFields where
  offset : Nat
  mainGreen : Nat
  minMain : Nat
  maxMain : Nat
  sideMin : Nat
  lostTime : Nat
  adapt : Nat
  deriving DecidableEq, Repr

/-- SET-SELECT-ENTRY WRITE, field 1 and fields 3 to 7 (R121). -/
structure SelectFields where
  index : Nat
  slot : Nat
  minTotal : Nat
  maxTotal : Nat
  minShare : Nat
  maxShare : Nat
  deriving DecidableEq, Repr

/-- SET-SELECT-ENTRY with an operation code other than WRITE; CLEAR is 1 (R121). -/
structure SelectClearFields where
  index : Nat
  operation : Nat
  deriving DecidableEq, Repr

/-- SET-QUEUE-LIMITS, fields 1 to 5; the class is coded ARTERIAL 0, SIDE 1 (R73). -/
structure QueueLimitFields where
  approachClass : Nat
  exponent : Nat
  buildingOn : Nat
  blockedOn : Nat
  hysteresis : Nat
  deriving DecidableEq, Repr

/-- SET-PRIORITY-POLICY, fields 1 to 3 (R99). -/
structure PolicyFields where
  routeTimeout : Nat
  extensionMax : Nat
  recovery : Nat
  deriving DecidableEq, Repr

/-- An event record as its 9 bytes give it (11.6). -/
structure EventRecord where
  sequence : Nat
  kind : Nat
  direction : Nat
  detector : Nat
  value : Nat
  extra : Nat
  age : Nat
  deriving DecidableEq, Repr

/-- The body of a STATUS reply (11.6). -/
structure StatusFields where
  localPosition : Nat
  localLength : Nat
  stage : Nat
  flags : Nat
  planInUse : Nat
  records : List EventRecord
  deriving DecidableEq, Repr

/-- The body of an IDENTITY reply (11.6). -/
structure IdentityFields where
  site : Nat
  abilities : Nat
  detectors : Nat
  deriving DecidableEq, Repr

/-- The commands, one per row of spec/opcode_table.json. -/
inductive Instr where
  | powerOnReset (supRate corRate : Bool)
  | decisecondTick
  | cycleMark
  | beaconDeadlineExpiry
  | commandPoint (position : Pos)
  | settleStampExpiry (position : Pos)
  | windowCloseExpiry (platoon : Nat)
  | approachSilenceExpiry (position : Pos) (approach : Approach)
  | routeTimeout (origin : Pos)
  | retryDeadlineExpiry (position : Pos)
  | reprobeDeadlineExpiry (position : Pos)
  | probeDeadlineExpiry (position : Pos)
  | quietTimerExpiry (position : Pos)
  | lineSilenceExpiry
  | lineBreakEnd
  | roundDeadlineExpiry
  | commandFrameSent
  | broadcastExchangeEnd
  | responseWindowExpiry
  | replyGarbled (fault : ReplyFault)
  | replyByteGapExpiry
  | lineQuietExpiry
  | status (address : Nat) (reply : StatusFields)
  | identity (address : Nat) (reply : IdentityFields)
  | heartbeat (address : Nat)
  | ack (address : Nat)
  | nak (address : Nat) (reason : Nat)
  | queueDrained
  | commitComplete
  | eraseComplete
  | supRxGapExpiry (received : List Byte)
  | frameError
  | unknownKind (kind : Nat)
  | transmitFrameDone
  | partResetActs
  | goLive (body : Body Nat)
  | goSetup (body : Body Unit)
  | partReset (body : Body Unit)
  | coordRestart (body : Body Unit)
  | getPartStatus (body : Body Unit)
  | setNoticeMask (body : Body Nat)
  | setTime (body : Body Nat)
  | getTime (body : Body Unit)
  | setBeacon (body : Body Nat)
  | setPosition (body : Body PositionFields)
  | clearPosition (body : Body Nat)
  | getPosition (body : Body Nat)
  | reIdentify (body : Body Nat)
  | rejoin (body : Body Nat)
  | setLink (body : Body LinkFields)
  | getLink (body : Body LinkName)
  | getPlatoons (body : Body LinkName)
  | setSlack (body : Body SlackFields)
  | setTransitionLimits (body : Body LimitFields)
  | setRule (body : Body RuleFields)
  | clearRule (body : Body Nat)
  | getRuleRead (body : Body RuleQuery)
  | getRuleReadAndZero (body : Body Nat)
  | stageOpenBlank (body : Body OpenBlankFields)
  | stageOpenCopy (body : Body OpenCopyFields)
  | stageHeader (body : Body HeaderFields)
  | stageSeek (body : Body SeekFields)
  | stageEntryWrite (body : Body EntryFields)
  | stageEntryClear (body : Body Nat)
  | stageRead (body : Body Unit)
  | stageDiscard (body : Body Unit)
  | commitPlan (body : Body Unit)
  | erasePlan (body : Body Nat)
  | getSlot (body : Body Nat)
  | setSelectModeFree (body : Body Nat)
  | setSelectModePinned (body : Body Nat)
  | setSelectModeResponsive (body : Body Nat)
  | setSelectEntryWrite (body : Body SelectFields)
  | setSelectEntryClear (body : Body SelectClearFields)
  | getSelection (body : Body Unit)
  | setQueueLimits (body : Body QueueLimitFields)
  | getQueue (body : Body Nat)
  | setPriorityPolicy (body : Body PolicyFields)
  | getPreemption (body : Body Unit)
  | cancelRoute (body : Body Nat)
  | supRxFrameAbandoned (received : List Byte)
  deriving DecidableEq, Repr

end Sys2Proof
end

