-- ==== Sys2Proof/Decode.lean ====
section
/-! DEFINITION. The decoder over the bits of spec/opcode_table.json. The table gives no row any bits, so no word spells a
command; the frames of section 11.6 are read in Sys2Proof/Machine/RequestFrames.lean and
Sys2Proof/Machine/CorridorFrames.lean. -/

namespace Sys2Proof

/-- The command that a word spells by the table's bits: none for any word. -/
def decodeTableWord (_nbits _w : Nat) : Option Instr := none

end Sys2Proof
end

