-- ==== Sys2Proof/Config.lean ====
section
/-! DEFINITION. What is fixed for the part: capacities and constants the rules name. The spec leaves no value open that
the part itself produces, so there is no free value here (notes/assumptions/25.md). -/

namespace Sys2Proof.Config

/-- Platoon records in the pool (R47). -/
def poolSize : Nat := 64
/-- Entries of the Link Command Queue (R138). -/
def queueCapacity : Nat := 24
/-- Notices in the notice queue (R172). -/
def noticeCapacity : Nat := 32
/-- Short answers in the short-answer queue (R170). -/
def shortAnswerCapacity : Nat := 16
/-- Routes in the route table (05_preemption_and_transit_priority.md 5.1). -/
def routeCapacity : Nat := 6
/-- C with no active plan image (R6). -/
def defaultCycle : Nat := 900
/-- Two running times are never compared across more than one day (R2). -/
def dayLength : Nat := 864000
/-- Fault score at which a SOUND position becomes DEGRADED (R152). -/
def degradedScore : Nat := 64
/-- Fault score below which a DEGRADED position becomes SOUND (R152). -/
def soundScore : Nat := 48
/-- Fault score at which a position is cut off (R152). -/
def cutOffScore : Nat := 160
/-- Limit of the 16-bit saturating counts (R119, R161, R162, R170, R172). -/
def countLimit : Nat := 65535
/-- Longest body of a supervisory frame (R169). -/
def supervisoryBodyLimit : Nat := 250
/-- Longest body of a corridor frame (R131). -/
def corridorBodyLimit : Nat := 80
/-- Event records a STATUS may carry (R131). -/
def recordLimit : Nat := 8

end Sys2Proof.Config
end

