-- ==== Sys2Proof/Machine/State.lean ====
section
/-! DEFINITION. The state of the part, block by block, and its value after power-on reset. All of it is plain data. -/

namespace Sys2Proof.Machine

/-! ### Plans and the configuration -/

/-- Header of a plan (06_the_plan_library.md 6.1). -/
structure PlanHeader where
  cycleLength : Nat
  wave : Wave
  deriving DecidableEq, Repr

/-- Entry of a plan for one position (06_the_plan_library.md 6.1). -/
structure PlanEntry where
  offset : Nat
  mainGreen : Nat
  minMain : Nat
  maxMain : Nat
  sideMin : Nat
  lostTime : Nat
  adapt : Bool
  deriving DecidableEq, Repr

/-- The twelve entry places of a plan. -/
abbrev EntryPlaces := Vector (Option PlanEntry) 12

/-- A plan: header and entry places (R103). -/
structure Plan where
  header : PlanHeader
  entries : EntryPlaces
  deriving DecidableEq, Repr

/-- A slot of the library (06_the_plan_library.md 6.2). -/
inductive Slot where
  | empty
  | valid (plan : Plan)
  | damaged
  deriving DecidableEq, Repr

/-- A slot's state without its contents, as notices and replies name it. -/
inductive SlotState where
  | empty
  | valid
  | damaged
  deriving DecidableEq, Repr

/-- Configuration of a position (09_identification_and_line_health.md 9.1). The permitted modes are a bit field with FULL
at bit 0, TIMED, PACED and RELAY after it. -/
structure PositionConfig where
  address : Nat
  site : Nat
  permittedModes : Nat
  recovery : Recovery
  routeLength : Nat
  deriving DecidableEq, Repr

/-- Abilities reported by an IDENTITY (09_identification_and_line_health.md 9.2). -/
structure Abilities where
  offset : Bool
  split : Bool
  platoon : Bool
  priority : Bool
  deriving DecidableEq, Repr

/-- A directed link, named by segment and direction (03_platoon_tracking_and_offset_refinement.md 3.1). -/
structure Link where
  segment : Segment
  direction : Direction
  deriving DecidableEq, Repr

/-- The overlays on a position (R77, R78). -/
structure Overlays where
  flush : Bool
  gate : Bool
  sideRelief : Bool
  deriving DecidableEq, Repr

/-! ### Corridor Time Base -/

/-- State of the CTB (01_corridor_time_and_the_common_cycle.md). -/
structure TimeBase where
  runningTime : Time
  timeOfDay : Nat
  cycleLength : Nat
  anchor : Time
  beaconInterval : Nat
  beaconDeadline : Time
  deriving DecidableEq, Repr

/-! ### Offset Coordinator -/

/-- Target offset with its command point (R26). -/
structure Target where
  offset : Nat
  commandPoint : Nat
  deriving DecidableEq, Repr

/-- Measured offset with its last measured time (R23). -/
structure Measured where
  offset : Nat
  time : Time
  deriving DecidableEq, Repr

/-- Settle stamp with the running time at which it lapses, 3 × C after it was set (R24). -/
structure Settle where
  stamp : Time
  lapses : Time
  deriving DecidableEq, Repr

/-- Coordination record of a position (02_offset_coordination.md 2.1). -/
structure Coord where
  state : CoordState
  target : Option Target
  trim : Int
  measured : Option Measured
  settle : Option Settle
  refusals : Nat
  fieldLocal : Bool
  grant : Option Nat
  commanded : Bool
  deriving DecidableEq, Repr

/-- Transition limits (02_offset_coordination.md 2.1). -/
structure TransitionLimits where
  lengthen : Nat
  shorten : Nat
  tolerance : Nat
  trimLimit : Nat
  sideLow : Nat
  sideRange : Nat
  deriving DecidableEq, Repr

/-- State of the OC. -/
structure Coordinator where
  limits : TransitionLimits
  positions : Vector Coord 12
  deriving DecidableEq, Repr

/-! ### Platoon Tracker -/

/-- Platoon record (03_platoon_tracking_and_offset_refinement.md 3.2); its link is the queue that holds it. -/
structure Platoon where
  number : Nat
  head : Time
  duration : Nat
  size : Nat
  predictedHead : Time
  predictedTail : Time
  windowOpen : Time
  windowClose : Time
  deriving DecidableEq, Repr

/-- Link record with its link queue, oldest departure head first (R43, R48). -/
structure LinkRecord where
  distance : Nat
  speed : Nat
  estimate : Nat
  lead : Nat
  depth : Nat
  tracked : Bool
  lost : Nat
  queue : List Platoon
  deriving DecidableEq, Repr

/-- Error accumulator of a position (R61). -/
structure Accumulator where
  sum : Int
  count : Nat
  deriving DecidableEq, Repr

/-- State of the PT. -/
structure Tracker where
  inboundLinks : Vector LinkRecord 11
  outboundLinks : Vector LinkRecord 11
  freeCount : Nat
  nextNumber : Nat
  poolEmptyRaised : Bool
  earlySlack : Nat
  lateSlack : Nat
  minimumSize : Nat
  accumulators : Vector Accumulator 12
  errorBase : Option Time
  deriving DecidableEq, Repr

/-! ### Queue Watch -/

/-- What an approach record holds while it is not UNKNOWN (04_queue_watch_and_spillback_control.md 4.1). -/
structure Heard where
  smoothed : Nat
  lastSample : Time
  silence : Time
  deriving DecidableEq, Repr

/-- Approach record. -/
structure ApproachRecord where
  state : QueueState
  worst : QueueState
  heard : Option Heard
  deriving DecidableEq, Repr

/-- The three approach records of a position. -/
structure Approaches where
  inbound : ApproachRecord
  outbound : ApproachRecord
  side : ApproachRecord
  deriving DecidableEq, Repr

/-- The gridlock conditions kept for a position (R79). -/
structure Gridlock where
  cross : Bool
  chainInbound : Bool
  chainOutbound : Bool
  deriving DecidableEq, Repr

/-- Queue limits of one approach class (R73). -/
structure QueueLimits where
  exponent : Nat
  buildingOn : Nat
  blockedOn : Nat
  hysteresis : Nat
  deriving DecidableEq, Repr

/-- State of the QW. -/
structure Watch where
  approaches : Vector Approaches 12
  arterialLimits : QueueLimits
  sideLimits : QueueLimits
  gridlock : Vector Gridlock 12
  deriving DecidableEq, Repr

/-! ### Priority Manager -/

/-- Names one route apart from any later one, also of the same origin: R87 speaks of "the route that sent it"
(notes/assumptions/11.md). -/
structure RouteRef where
  origin : Pos
  serial : Nat
  deriving DecidableEq, Repr

/-- Member of a route with its standing, HELD or OFFERED. -/
structure Member where
  position : Pos
  held : Bool
  deriving DecidableEq, Repr

/-- Entry of the route table (05_preemption_and_transit_priority.md 5.1). -/
structure Route where
  ref : RouteRef
  direction : Direction
  members : List Member
  start : Time
  deadline : Time
  deriving DecidableEq, Repr

/-- Priority policy (05_preemption_and_transit_priority.md 5.1). -/
structure Policy where
  routeTimeout : Nat
  extensionMax : Nat
  recovery : Nat
  deriving DecidableEq, Repr

/-- State of the PM. -/
structure Priority where
  owners : Vector Owner 12
  budgets : Vector Nat 12
  routes : List Route
  nextSerial : Nat
  policy : Policy
  deriving DecidableEq, Repr

/-! ### Plan Library -/

/-- Write state (R105); a commit carries the copy of the staged plan that it writes (R111). -/
inductive WriteState where
  | idle
  | committing (slot : SlotIx) (plan : Plan)
  | erasing (slot : SlotIx)
  deriving DecidableEq, Repr

/-- Staging record while open (06_the_plan_library.md 6.3). -/
structure Staging where
  target : SlotIx
  header : Option PlanHeader
  entries : EntryPlaces
  cursor : Pos
  mode : IncrementMode
  deriving DecidableEq, Repr

/-- State of the PL. -/
structure Library where
  slots : Vector Slot 24
  write : WriteState
  staging : Option Staging
  deriving DecidableEq, Repr

/-! ### Plan Selector -/

/-- Active plan image with its slot number. -/
structure ActiveImage where
  slot : SlotIx
  plan : Plan
  deriving DecidableEq, Repr

/-- Pending plan with its cause. -/
structure PendingPlan where
  slot : SlotIx
  cause : PlanCause
  deriving DecidableEq, Repr

/-- Selection entry (07_plan_selection.md 7.3). -/
structure SelectEntry where
  slot : SlotIx
  minTotal : Nat
  maxTotal : Nat
  minShare : Nat
  maxShare : Nat
  deriving DecidableEq, Repr

/-- State of the PS (07_plan_selection.md 7.1). -/
structure Selector where
  mode : SelectorMode
  requested : Option RequestedMode
  image : Option ActiveImage
  pendingPlan : Option PendingPlan
  deferrals : Nat
  previousCandidate : Option SlotIx
  persistenceCount : Nat
  persistenceSetting : Nat
  inboundAccumulator : Nat
  outboundAccumulator : Nat
  inboundFlow : Nat
  outboundFlow : Nat
  table : Vector (Option SelectEntry) 8
  deriving DecidableEq, Repr

/-! ### Corridor Line Controller -/

/-- Figures of a TIMING-SET (R33). -/
structure TimingSet where
  planNumber : Nat
  cycleLength : Nat
  nextCycle : Nat
  mainGreen : Option Nat
  deriving DecidableEq, Repr

/-- A command of the Link Command Queue with its figures; a BEACON has none until it is sent (R10). -/
inductive LineCommand where
  | probePoll
  | identify
  | timingSet (figures : TimingSet)
  | beacon
  | routeClear (direction : Direction) (hold : Nat)
  | routeEnd
  | priorityAnswer (answer : TransitAnswer)
  | quiet
  | runLocal
  deriving DecidableEq, Repr

/-- Entry of the Link Command Queue (08_the_corridor_line.md 8.5). The class and the originator follow from the command
(R136). `route` names the route that sent a ROUTE-CLEAR or ROUTE-END. -/
structure QueueEntry where
  command : LineCommand
  address : Nat
  position : Option Pos
  route : Option RouteRef
  joined : Time
  attempts : Nat
  onLine : Bool
  deriving DecidableEq, Repr

/-- A command frame with every figure it carries on the line (R132, 11.6). -/
inductive LineFrame where
  | poll (acceptedThrough : Option Nat)
  | identify
  | timingSet (figures : TimingSet)
  | beacon (cyclePosition cycleLength planNumber : Nat)
  | routeClear (direction : Direction) (hold : Nat)
  | routeEnd
  | priorityAnswer (answer : TransitAnswer)
  | quiet
  | runLocal
  deriving DecidableEq, Repr

/-- What an exchange carries: a scheduled poll, or a command of the queue. -/
inductive Work where
  | poll
  | command (command : LineCommand) (route : Option RouteRef)
  deriving DecidableEq, Repr

/-- How far an exchange has come (R131, R143): the frame is being sent; the reply is awaited or received; the outcome is
GARBLED and the line must fall quiet; the 2 ms after the frame of a broadcast pass; a line reset has abandoned the exchange,
and its frame is finished before the break. -/
inductive Phase where
  | sending
  | window
  | quieting
  | trailing
  | abandoned
  deriving DecidableEq, Repr

/-- The exchange in progress. -/
structure Exchange where
  work : Work
  position : Option Pos
  address : Nat
  frame : LineFrame
  phase : Phase
  deriving DecidableEq, Repr

/-- Line condition with what goes with it (08_the_corridor_line.md 8.8). -/
inductive LineState where
  | idle
  | exchange (x : Exchange)
  | lineBreak (ends : Time)
  deriving DecidableEq, Repr

/-- What a STATUS shows in the last status summary; absent after a HEARTBEAT (R133). -/
structure StatusFigures where
  stage : SignalStage
  fieldLocal : Bool
  preempting : Bool
  unitFault : Bool
  planInUse : Nat
  localLength : Nat
  deriving DecidableEq, Repr

/-- Last status summary of a position (R133). -/
structure Summary where
  received : Time
  figures : Option StatusFigures
  deriving DecidableEq, Repr

/-- State of the CLC, with the two corridor pins it drives. -/
structure LineController where
  queue : List QueueEntry
  line : LineState
  driverEnable : Bool
  txLevel : TxLevel
  drainFlag : Bool
  pollRound : Nat
  roundDeadline : Time
  due : Vector (Option Time) 12
  accepted : Vector (Option Nat) 12
  summaries : Vector (Option Summary) 12
  deriving DecidableEq, Repr

/-! ### Identification and Health -/

/-- Identification fields of a position (09_identification_and_line_health.md 9.2). -/
structure Ident where
  state : IdState
  site : Option Nat
  abilities : Option Abilities
  detectors : Option Nat
  mode : Option ResolvedMode
  basic : Option Bool
  retry : Option Time
  reprobe : Option Time
  byRequest : Bool
  deriving DecidableEq, Repr

/-- Health fields of a position (09_identification_and_line_health.md 9.3). -/
structure Health where
  score : Nat
  failures : Nat
  state : HealthState
  probes : Nat
  probeDeadline : Option Time
  quietTimer : Option Time
  stage : Stage
  deriving DecidableEq, Repr

/-- State of the IH. `wasAbsent` says whether the state before the running identification was ABSENT (R150). -/
structure Identification where
  ident : Vector Ident 12
  wasAbsent : Vector Bool 12
  health : Vector Health 12
  silence : Option Time
  lineResets : Nat
  lastGood : Option Time
  deriving DecidableEq, Repr

/-! ### Event Router -/

/-- The kinds a rule may match: one of the five routable kinds, or ANY as `none`. -/
abbrev MatchKind := Option RecordKind

/-- Destinations of a rule. -/
structure Destinations where
  platoon : Bool
  queue : Bool
  demand : Bool
  notice : Bool
  deriving DecidableEq, Repr

/-- Rule of the table (10_event_routing.md 10.3). The position set is a bit field with position 1 at bit 0; a match
direction of ANY is `none`. -/
structure Rule where
  kind : MatchKind
  direction : Option EventDirection
  detectorLow : Nat
  detectorHigh : Nat
  positions : Nat
  destinations : Destinations
  tag : Nat
  deriving DecidableEq, Repr

/-- State of the ER. -/
structure Router where
  rules : Vector (Option Rule) 48
  hits : Vector Nat 48
  fixedCount : Nat
  noMatch : Nat
  deriving DecidableEq, Repr

/-! ### Notices and replies -/

/-- An event record as a DETECTOR-EVENT notice carries it (R164). -/
structure RecordReport where
  sequence : Nat
  kind : RecordKind
  direction : EventDirection
  detector : Nat
  value : Nat
  extra : Nat
  eventTime : Time
  deriving DecidableEq, Repr

/-- IDENTIFIED figures: the result, IDENTIFIED or ABSENT, and with the first the figures of the unit (R150, R151). -/
structure IdentReport where
  result : IdState
  site : Option Nat
  abilities : Option Abilities
  detectors : Option Nat
  mode : Option ResolvedMode
  basic : Option Bool
  deriving DecidableEq, Repr

/-- PLAN-CHANGE figures (R126). -/
structure PlanChange where
  previousSlot : Option SlotIx
  newSlot : SlotIx
  previousLength : Nat
  newLength : Nat
  wave : Wave
  cause : PlanCause
  deferrals : Nat
  totalFlow : Nat
  inboundShare : Nat
  deriving DecidableEq, Repr

/-- QUEUE-STATE figures (R74). -/
structure QueueChange where
  position : Pos
  approach : Approach
  previous : QueueState
  new : QueueState
  smoothed : Option Nat
  overlays : Overlays
  gated : Option (Pos × Overlays)
  deriving DecidableEq, Repr

/-- TRANSIT-GRANT figures (R97). -/
structure TransitReport where
  position : Pos
  direction : EventDirection
  arrival : Nat
  extra : Nat
  answer : TransitAnswer
  queued : Bool
  budget : Nat
  deriving DecidableEq, Repr

/-- A notice's figures, its time of day apart. -/
inductive NoticeBody where
  | positionState (position : Pos) (state : CoordState) (target measured : Option Nat)
  | healthChange (position : Pos) (previous new : HealthState) (score failures : Nat) (cause : HealthCause)
  | lineReset (lastGood : Option Time) (serving : List Pos) (count : Nat)
  | identified (position : Pos) (report : IdentReport)
  | siteMismatch (position : Pos) (configured : Nat) (reported : Option Nat) (reason : MismatchReason)
  | planChange (change : PlanChange)
  | planChangeFailed (slot : SlotIx) (cause : PlanCause) (found : SlotState) (deferrals : Nat)
  | commitDone (slot : SlotIx) (header : PlanHeader) (positions : List Pos)
  | eraseDone (slot : SlotIx)
  | queueState (change : QueueChange)
  | gridlockRisk (position : Pos) (condition : GridlockCondition) (start : Bool) (overlays : Overlays)
  | poolEmpty (link : Link) (size : Nat)
  | linkTracking (link : Link) (tracked : Bool) (estimate lost : Nat)
  | preemptStart (position : Pos) (direction : EventDirection) (cause : StartCause) (route : RouteOutcome)
  | preemptEnd (position : Pos) (cause : EndCause) (ended : List Pos)
  | transitGrant (report : TransitReport)
  | timingRefused (position : Pos) (reason : NakReason) (refusals planNumber : Nat)
  | detectorEvent (position : Pos) (rule : Option (RuleIx × Nat)) (record : RecordReport)
  | overrun (count : Nat)
  deriving DecidableEq, Repr

/-- A notice as it stands in the notice queue, stamped with the time of day (R3). -/
structure Notice where
  stamp : Nat
  body : NoticeBody
  deriving DecidableEq, Repr

/-- Reply figures of GET-TIME (R5). -/
structure TimeReport where
  timeOfDay : Nat
  runningTime : Time
  cyclePosition : Nat
  cycleLength : Nat
  anchor : Time
  activePlan : Option SlotIx
  beaconInterval : Nat
  beaconDeadline : Time
  deriving DecidableEq, Repr

/-- One position's line of GET-PART-STATUS (R178). -/
structure PositionStanding where
  configured : Bool
  identification : IdState
  health : HealthState
  coordination : CoordState
  deriving DecidableEq, Repr

/-- Reply figures of GET-PART-STATUS (R178). -/
structure PartReport where
  mode : PartMode
  draining : Bool
  supRate : Bool
  corRate : Bool
  runningTime : Time
  timeOfDay : Nat
  activeSlot : Option SlotIx
  selector : SelectorMode
  write : WriteState
  stagingOpen : Bool
  line : LineCondition
  queued : Nat
  positions : List PositionStanding
  lineResets : Nat
  notices : Nat
  overrun : Nat
  unanswered : Nat
  enabled : List NoticeKind
  deriving DecidableEq, Repr

/-- Reply figures of GET-POSITION (R148). -/
structure PositionReport where
  config : Option PositionConfig
  ident : Ident
  health : Health
  coord : Coord
  limits : TransitionLimits
  accepted : Option Nat
  summary : Option Summary
  deriving DecidableEq, Repr

/-- Reply figures of STAGE-READ (R110). -/
structure StageReport where
  positionRead : Pos
  entry : Option PlanEntry
  header : Option PlanHeader
  target : SlotIx
  cursor : Pos
  mode : IncrementMode
  deriving DecidableEq, Repr

/-- Reply figures of GET-SELECTION (R128). -/
structure SelectionReport where
  selector : Selector
  totalFlow : Nat
  inboundShare : Nat
  deriving DecidableEq, Repr

/-- Reply figures of GET-QUEUE (R76). -/
structure QueueReport where
  approaches : Approaches
  overlays : Overlays
  gridlock : Gridlock
  arterialLimits : QueueLimits
  sideLimits : QueueLimits
  deriving DecidableEq, Repr

/-- Reply figures of GET-PREEMPTION: for each position its owner, whether it is release pending, and its budget; the routes
in order of origin (R100). -/
structure PreemptionReport where
  policy : Policy
  positions : List (Owner × Bool × Nat)
  routes : List Route
  deriving DecidableEq, Repr

/-- The reply fields of a DONE. An EMPTY or DAMAGED slot is reported by its state alone; of a VALID one the reply also says
whether it is the active slot (R116). -/
inductive ReplyData where
  | none
  | time (report : TimeReport)
  | part (report : PartReport)
  | position (report : PositionReport)
  | link (record : LinkRecord) (designTravel held : Nat)
  | platoons (freeCount : Nat) (raised : Bool) (records : List Platoon)
  | rule (rule : Option Rule) (hits : Nat)
  | ruleTable (indexes : List RuleIx) (fixedCount noMatch : Nat)
  | cursor (position : Pos)
  | stage (report : StageReport)
  | slot (slot : Slot) (active : Option Bool)
  | selection (report : SelectionReport)
  | queue (report : QueueReport)
  | preemption (report : PreemptionReport)
  deriving DecidableEq, Repr

/-- What the owning rule answers to a request (R170). -/
inductive Answer where
  | done (data : ReplyData)
  | accepted
  | busy
  | wrongMode
  | badValue (position field : Nat)
  | noSuch
  | inProgress
  deriving DecidableEq, Repr

/-- A frame that answers a frame of the host (R169, R170). -/
inductive Reply where
  | request (kind : RequestKind) (answer : Answer)
  | unknownKind (kind : Nat)
  | busyUnknown (kind : Nat)
  | frameError
  deriving DecidableEq, Repr

/-! ### Supervisory Line Interface -/

/-- The frame the supervisory transmitter is sending (R171). -/
inductive Sending where
  | reply (r : Reply)
  | shortAnswer (r : Reply)
  | notice (n : Notice)
  deriving DecidableEq, Repr

/-- The supervisory receiver with what it has kept of the frame now arriving (R169). -/
structure Receiver where
  state : ReceiverState
  length : Nat
  kind : Byte
  body : List Byte
  check : List Byte
  deriving DecidableEq, Repr

/-- State of the SLI. -/
structure Supervisory where
  supRate : Bool
  corRate : Bool
  mode : PartMode
  draining : Bool
  receiver : Receiver
  replySlot : Option Reply
  shortAnswers : List Reply
  unanswered : Nat
  notices : List Notice
  enabled : List NoticeKind
  overrun : Nat
  resetPending : Bool
  sending : Option Sending
  deriving DecidableEq, Repr

/-! ### The whole part -/

/-- The state of the part and the queue of commands that are waiting for it, first in first out. -/
structure State where
  pending : List Instr
  ctb : TimeBase
  oc : Coordinator
  pt : Tracker
  qw : Watch
  pm : Priority
  pl : Library
  ps : Selector
  clc : LineController
  ih : Identification
  er : Router
  sli : Supervisory
  config : Vector (Option PositionConfig) 12
  deriving DecidableEq, Repr

/-- Nothing stops this part: every outcome the spec gives a command is a next state. No constructor, so no meaning can
answer a fault. -/
inductive Fault where
  deriving DecidableEq, Repr

/-- Why a command has no meaning in the model. -/
inductive Refusal where
  /-- Raised by `exec` alone, for a row whose meaning is not written; safe. No arm uses it. -/
  | notModelled (mnemonic : String)
  deriving DecidableEq, Repr

/-! ### Reset values -/

/-- CTB after power-on reset (section 1.5). -/
def TimeBase.reset : TimeBase :=
  { runningTime := 0, timeOfDay := 0, cycleLength := Config.defaultCycle, anchor := 0, beaconInterval := 100,
    beaconDeadline := 100 }

/-- A coordination record after power-on reset (R12). -/
def Coord.reset : Coord :=
  { state := .unseen, target := none, trim := 0, measured := none, settle := none, refusals := 0, fieldLocal := false,
    grant := none, commanded := false }

/-- Default transition limits (02_offset_coordination.md 2.1). -/
def TransitionLimits.reset : TransitionLimits :=
  { lengthen := 20, shorten := 12, tolerance := 20, trimLimit := 80, sideLow := 20, sideRange := 40 }

/-- OC after power-on reset (R12). -/
def Coordinator.reset : Coordinator :=
  { limits := TransitionLimits.reset, positions := Vector.replicate 12 Coord.reset }

/-- A link record after power-on reset (R43). -/
def LinkRecord.reset : LinkRecord :=
  { distance := 400, speed := 50, estimate := 288, lead := 50, depth := 4, tracked := true, lost := 0, queue := [] }

/-- PT after power-on reset (section 3.8). -/
def Tracker.reset : Tracker :=
  { inboundLinks := Vector.replicate 11 LinkRecord.reset, outboundLinks := Vector.replicate 11 LinkRecord.reset,
    freeCount := Config.poolSize, nextNumber := 1, poolEmptyRaised := false, earlySlack := 30, lateSlack := 50,
    minimumSize := 6, accumulators := Vector.replicate 12 { sum := 0, count := 0 }, errorBase := none }

/-- An approach record after power-on reset (R67). -/
def ApproachRecord.reset : ApproachRecord := { state := .unknown, worst := .unknown, heard := none }

/-- The approach records of a position after power-on reset (R67). -/
def Approaches.reset : Approaches :=
  { inbound := ApproachRecord.reset, outbound := ApproachRecord.reset, side := ApproachRecord.reset }

/-- No gridlock condition active (R67). -/
def Gridlock.reset : Gridlock := { cross := false, chainInbound := false, chainOutbound := false }

/-- QW after power-on reset (R67, R73). -/
def Watch.reset : Watch :=
  { approaches := Vector.replicate 12 Approaches.reset,
    arterialLimits := { exponent := 2, buildingOn := 30, blockedOn := 60, hysteresis := 10 },
    sideLimits := { exponent := 2, buildingOn := 35, blockedOn := 70, hysteresis := 10 },
    gridlock := Vector.replicate 12 Gridlock.reset }

/-- PM after power-on reset (R83). The next serial is the model's own (notes/assumptions/11.md). -/
def Priority.reset : Priority :=
  { owners := Vector.replicate 12 Owner.none, budgets := Vector.replicate 12 0, routes := [], nextSerial := 0,
    policy := { routeTimeout := 1200, extensionMax := 100, recovery := 3 } }

/-- PL as delivered, after power-on reset (R104, R105, R106). -/
def Library.reset : Library := { slots := Vector.replicate 24 Slot.empty, write := .idle, staging := none }

/-- PS after power-on reset (R118). -/
def Selector.reset : Selector :=
  { mode := .free, requested := none, image := none, pendingPlan := none, deferrals := 0, previousCandidate := none,
    persistenceCount := 0, persistenceSetting := 4, inboundAccumulator := 0, outboundAccumulator := 0, inboundFlow := 0,
    outboundFlow := 0, table := Vector.replicate 8 none }

/-- CLC after power-on reset (R133, R134, R135, R142). -/
def LineController.reset : LineController :=
  { queue := [], line := .idle, driverEnable := false, txLevel := .mark, drainFlag := false, pollRound := 10,
    roundDeadline := 10, due := Vector.replicate 12 none, accepted := Vector.replicate 12 none,
    summaries := Vector.replicate 12 none }

/-- Identification fields after power-on reset (R149). -/
def Ident.reset : Ident :=
  { state := .unknown, site := none, abilities := none, detectors := none, mode := none, basic := none, retry := none,
    reprobe := none, byRequest := false }

/-- The health restart (09_identification_and_line_health.md 9.3). -/
def Health.reset : Health :=
  { score := 0, failures := 0, state := .sound, probes := 0, probeDeadline := none, quietTimer := none, stage := .none }

/-- IH after power-on reset (R149, R156). -/
def Identification.reset : Identification :=
  { ident := Vector.replicate 12 Ident.reset, wasAbsent := Vector.replicate 12 false,
    health := Vector.replicate 12 Health.reset, silence := none, lineResets := 0, lastGood := none }

/-- ER after power-on reset (R168). -/
def Router.reset : Router :=
  { rules := Vector.replicate 48 none, hits := Vector.replicate 48 0, fixedCount := 0, noMatch := 0 }

/-- The receiver in HUNT, with nothing kept (R169). -/
def Receiver.hunt : Receiver := { state := .hunt, length := 0, kind := 0, body := [], check := [] }

/-- The 19 notice kinds in the order of their codes (11_the_supervisory_line.md 11.5). -/
def NoticeKind.all : List NoticeKind :=
  [.positionState, .healthChange, .lineReset, .identified, .siteMismatch, .planChange, .planChangeFailed, .commitDone,
   .eraseDone, .queueState, .gridlockRisk, .poolEmpty, .linkTracking, .preemptStart, .preemptEnd, .transitGrant,
   .timingRefused, .detectorEvent, .overrun]

/-- SLI after power-on reset with the rate pins at the levels given (R176). -/
def Supervisory.reset (supRate corRate : Bool) : Supervisory :=
  { supRate := supRate, corRate := corRate, mode := .setup, draining := false, receiver := Receiver.hunt,
    replySlot := none, shortAnswers := [], unanswered := 0, notices := [], enabled := NoticeKind.all, overrun := 0,
    resetPending := false, sending := none }

/-- The part right after power-on reset: every block at its reset value, the slots as given. The line is idle at once, also
where a BEACON was being sent (notes/assumptions/38.md). -/
def State.resetWith (supRate corRate : Bool) (slots : Vector Slot 24) (pending : List Instr) : State :=
  { pending := pending, ctb := TimeBase.reset, oc := Coordinator.reset, pt := Tracker.reset, qw := Watch.reset,
    pm := Priority.reset, pl := { Library.reset with slots := slots }, ps := Selector.reset, clc := LineController.reset,
    ih := Identification.reset, er := Router.reset, sli := Supervisory.reset supRate corRate,
    config := Vector.replicate 12 none }

/-- The delivered part right after power-on reset, with nothing waiting. Both rate pins are taken as low, a DESIGN CHOICE
(notes/assumptions/9.md). -/
def State.reset : State := State.resetWith false false Library.reset.slots []

end Sys2Proof.Machine
end

