-- ==== Sys2Proof/Machine/Ops.lean ====
section
/-! DEFINITION. The shared operations of every block: arithmetic of section 0.5, times, tables by position, the notice
queue, the transmitter, and the frame that takes a request and places its reply. -/

namespace Sys2Proof.Machine

/-! ### Arithmetic (00_scope.md 0.5) -/

/-- `x` mod `n` in the range 0 to n − 1, also for negative `x`. -/
def modC (x : Int) (n : Nat) : Nat := (x.emod n).toNat

/-- `x` wrapped into (−C/2, C/2]. -/
def wrapHalf (x : Int) (c : Nat) : Int :=
  let r : Int := (modC x c : Nat)
  if 2 * r ≤ c then r else r - c

/-- `x` clamped to [lo, hi]. -/
def clampInt (lo hi x : Int) : Int := if x < lo then lo else if x > hi then hi else x

/-- `x` clamped to [lo, hi], for figures that are never negative. -/
def clampNat (lo hi x : Nat) : Nat := if x < lo then lo else if x > hi then hi else x

/-- ⌈a / b⌉. -/
def ceilDiv (a b : Nat) : Nat := (a + b - 1) / b

/-- `a` moved toward `b` by (b − a) / n, rounded toward zero (R55, R69, R120). -/
def moveToward (a b n : Nat) : Nat := ((a : Int) + Int.tdiv ((b : Int) - a) n).toNat

/-- A count that saturates at `limit`. -/
def saturate (limit n : Nat) : Nat := if n > limit then limit else n

/-- Bit `n` of a bit field. -/
def bit (field n : Nat) : Bool := field / 2 ^ n % 2 == 1

/-! ### Running times (R2) -/

/-- The time elapsed since the stamp `s`. -/
def elapsed (now s : Time) : Nat := (now - s).toNat

/-- `a` is before `b`. -/
def before (a b : Time) : Bool := 1 ≤ elapsed b a && elapsed b a ≤ Config.dayLength

/-- The running time `n` ds after `t`. -/
def later (t : Time) (n : Nat) : Time := t + BitVec.ofNat 32 n

/-- The running time `n` ds before `t`. -/
def earlier (t : Time) (n : Nat) : Time := t - BitVec.ofNat 32 n

/-! ### Tables by index -/

/-- The positions 1 to 12 in order. -/
def positions : List Pos := [0, 1, 2, 3, 4, 5, 6, 7, 8, 9, 10, 11]

/-- Position number of a position. -/
def posNumber (p : Pos) : Nat := p.val + 1

/-- Apply `f` at every position, in position order, each whole before the next. -/
def forPositions (f : Pos → State → State) (s : State) : State := positions.foldl (fun s p => f p s) s

/-- Replace one entry of a table by its value under `f`. -/
def update {α : Type} {n : Nat} (v : Vector α n) (i : Fin n) (f : α → α) : Vector α n := v.set i.val (f (v.get i))

/-! ### Reading and writing the state -/

/-- The running time. -/
def State.now (s : State) : Time := s.ctb.runningTime

/-- The coordination record of a position. -/
def State.coord (s : State) (p : Pos) : Coord := s.oc.positions.get p

/-- Change the coordination record of a position. -/
def State.withCoord (s : State) (p : Pos) (f : Coord → Coord) : State :=
  { s with oc := { s.oc with positions := update s.oc.positions p f } }

/-- The identification fields of a position. -/
def State.ident (s : State) (p : Pos) : Ident := s.ih.ident.get p

/-- Change the identification fields of a position. -/
def State.withIdent (s : State) (p : Pos) (f : Ident → Ident) : State :=
  { s with ih := { s.ih with ident := update s.ih.ident p f } }

/-- The health fields of a position. -/
def State.health (s : State) (p : Pos) : Health := s.ih.health.get p

/-- Change the health fields of a position. -/
def State.withHealth (s : State) (p : Pos) (f : Health → Health) : State :=
  { s with ih := { s.ih with health := update s.ih.health p f } }

/-- The preemption owner of a position. -/
def State.owner (s : State) (p : Pos) : Owner := s.pm.owners.get p

/-- The transit grant budget of a position. -/
def State.budget (s : State) (p : Pos) : Nat := s.pm.budgets.get p

/-- Set the transit grant budget of a position. -/
def State.withBudget (s : State) (p : Pos) (n : Nat) : State :=
  { s with pm := { s.pm with budgets := s.pm.budgets.set p.val n } }

/-- The record of a directed link. -/
def State.link (s : State) (l : Link) : LinkRecord :=
  match l.direction with
  | .inbound => s.pt.inboundLinks.get l.segment
  | .outbound => s.pt.outboundLinks.get l.segment

/-- Change the record of a directed link. -/
def State.withLink (s : State) (l : Link) (f : LinkRecord → LinkRecord) : State :=
  match l.direction with
  | .inbound => { s with pt := { s.pt with inboundLinks := update s.pt.inboundLinks l.segment f } }
  | .outbound => { s with pt := { s.pt with outboundLinks := update s.pt.outboundLinks l.segment f } }

/-- The corridor cycle position: the time elapsed since the anchor, back at 0 when it reaches C (R6, R7). -/
def State.cyclePosition (s : State) : Nat := elapsed s.now s.ctb.anchor % s.ctb.cycleLength

/-- The entry of the active plan image for a position. -/
def State.imageEntry (s : State) (p : Pos) : Option PlanEntry :=
  match s.ps.image with
  | none => none
  | some image => image.plan.entries.get p

/-- The part is LIVE. -/
def State.isLive (s : State) : Bool := s.sli.mode == .live

/-! ### Notices (R172) -/

/-- The kind of a notice. -/
def NoticeBody.kind : NoticeBody → NoticeKind
  | .positionState .. => .positionState
  | .healthChange .. => .healthChange
  | .lineReset .. => .lineReset
  | .identified .. => .identified
  | .siteMismatch .. => .siteMismatch
  | .planChange .. => .planChange
  | .planChangeFailed .. => .planChangeFailed
  | .commitDone .. => .commitDone
  | .eraseDone .. => .eraseDone
  | .queueState .. => .queueState
  | .gridlockRisk .. => .gridlockRisk
  | .poolEmpty .. => .poolEmpty
  | .linkTracking .. => .linkTracking
  | .preemptStart .. => .preemptStart
  | .preemptEnd .. => .preemptEnd
  | .transitGrant .. => .transitGrant
  | .timingRefused .. => .timingRefused
  | .detectorEvent .. => .detectorEvent
  | .overrun .. => .overrun

/-- The SLI with a notice offered to it at time of day `stamp` (R172). -/
def Supervisory.offered (sli : Supervisory) (stamp : Nat) (body : NoticeBody) : Supervisory :=
  if ¬ sli.enabled.contains body.kind then sli
  else if sli.notices.length < Config.noticeCapacity then
    { sli with notices := sli.notices ++ [{ stamp := stamp, body := body }] }
  else { sli with overrun := saturate Config.countLimit (sli.overrun + 1) }

/-- A block raises a notice: it is stamped and offered to the notice queue (R3, R172). -/
def raiseNotice (body : NoticeBody) (s : State) : State :=
  { s with sli := s.sli.offered s.ctb.timeOfDay body }

/-! ### The transmitter (R171) -/

/-- The transmitter, when idle, begins its next frame: the reply, else the oldest short answer, else the oldest notice.
A notice leaves the queue as its transmission begins, and an OVERRUN notice then takes the freed place when notices were
lost. Nothing follows the PART-RESET reply while reset pending is yes (R171, R172, R176). -/
def Supervisory.transmit (sli : Supervisory) (timeOfDay : Nat) : Supervisory :=
  match sli.sending with
  | some _ => sli
  | none =>
    match sli.replySlot with
    | some r => { sli with sending := some (.reply r) }
    | none =>
      if sli.resetPending then sli
      else
        match sli.shortAnswers with
        | r :: _ => { sli with sending := some (.shortAnswer r) }
        | [] =>
          match sli.notices with
          | [] => sli
          | n :: rest =>
            if sli.overrun > 0 then
              { sli with sending := some (.notice n), overrun := 0,
                         notices := rest ++ [{ stamp := timeOfDay, body := .overrun sli.overrun }] }
            else { sli with sending := some (.notice n), notices := rest }

/-- Run the transmitter. -/
def transmitterRun (s : State) : State := { s with sli := s.sli.transmit s.ctb.timeOfDay }

/-! ### Requests and replies (R169, R170) -/

/-- A reply is owed: the reply slot or the short-answer queue is occupied. -/
def Supervisory.owing (sli : Supervisory) : Bool := sli.replySlot.isSome || !sli.shortAnswers.isEmpty

/-- A frame that completes while a reply is owed: its answer joins the short-answer queue, or the frame is discarded when
the queue holds 16 (R170). -/
def Supervisory.shortAnswer (sli : Supervisory) (answer : Reply) : Supervisory :=
  if sli.shortAnswers.length < Config.shortAnswerCapacity then
    { sli with shortAnswers := sli.shortAnswers ++ [answer] }
  else { sli with unanswered := saturate Config.countLimit (sli.unanswered + 1) }

/-- A complete frame leaves the receiver in HUNT (R169). -/
def frameTaken (s : State) : State := { s with sli := { s.sli with receiver := Receiver.hunt } }

/-- Place a reply in the reply slot. -/
def placeReply (r : Reply) (s : State) : State := { s with sli := { s.sli with replySlot := some r } }

/-- What every complete frame meets before it is taken: discarded while reset pending is yes, answered short while a reply
is owed; otherwise taken by `handle`, after which the transmitter looks for work (R169, R170, R171). -/
def onFrame (busy : Reply) (handle : State → State) (s : State) : State :=
  let s := frameTaken s
  if s.sli.resetPending then s
  else if s.sli.owing then transmitterRun { s with sli := s.sli.shortAnswer busy }
  else transmitterRun (handle s)

/-- A request frame of kind `kind`: a body of the wrong length is answered BAD-VALUE naming position 0 and field 0 (R169);
otherwise the owning rule answers. -/
def onRequest {α : Type} (kind : RequestKind) (body : Body α) (handle : α → State → State × Answer) (s : State) : State :=
  onFrame (.request kind .busy)
    (fun s =>
      match body with
      | .wrongLength _ => placeReply (.request kind (.badValue 0 0)) s
      | .fields x =>
        let r := handle x s
        placeReply (.request kind r.2) r.1)
    s

/-- A request taken in one part mode only: WRONG-MODE in the other, decided before any field is checked (11.5). -/
def inMode (mode : PartMode) (handle : State → State × Answer) (s : State) : State × Answer :=
  if s.sli.mode = mode then handle s else (s, .wrongMode)

end Sys2Proof.Machine
end

