-- ==== Sys2Proof/Machine/Operands.lean ====
section
/-! DEFINITION. Reading request fields: the codes of enumerated values and sets (11_the_supervisory_line.md 11.6), the
indexes, and the check that names the first field out of its range. -/

namespace Sys2Proof.Machine

/-- A field lies from `lo` to `hi`. -/
def inRange (lo hi n : Nat) : Bool := lo ≤ n && n ≤ hi

/-- The number of the first field whose check fails, the checks given in order. -/
def firstBad : List (Nat × Bool) → Option Nat
  | [] => none
  | (field, ok) :: rest => if ok then firstBad rest else some field

/-- The position of a position number 1 to 12. -/
def posOf (n : Nat) : Option Pos := if h : 1 ≤ n ∧ n ≤ 12 then some ⟨n - 1, by omega⟩ else none

/-- The slot of a slot number 1 to 24. -/
def slotOf (n : Nat) : Option SlotIx := if h : 1 ≤ n ∧ n ≤ 24 then some ⟨n - 1, by omega⟩ else none

/-- The rule place of an index 1 to 48. -/
def ruleOf (n : Nat) : Option RuleIx := if h : 1 ≤ n ∧ n ≤ 48 then some ⟨n - 1, by omega⟩ else none

/-- The selection place of an index 1 to 8. -/
def selectOf (n : Nat) : Option SelectIx := if h : 1 ≤ n ∧ n ≤ 8 then some ⟨n - 1, by omega⟩ else none

/-- The segment of a segment number 1 to 11. -/
def segmentOf (n : Nat) : Option Segment := if h : 1 ≤ n ∧ n ≤ 11 then some ⟨n - 1, by omega⟩ else none

/-- INBOUND 0, OUTBOUND 1. -/
def directionOf : Nat → Option Direction
  | 0 => some .inbound
  | 1 => some .outbound
  | _ => none

/-- INBOUND 0, OUTBOUND 1, NONE 2. -/
def eventDirectionOf : Nat → Option EventDirection
  | 0 => some .inbound
  | 1 => some .outbound
  | 2 => some .none
  | _ => none

/-- INBOUND 0, OUTBOUND 1, TWO-WAY 2. -/
def waveOf : Nat → Option Wave
  | 0 => some .inbound
  | 1 => some .outbound
  | 2 => some .twoWay
  | _ => none

/-- AUTO 0, HOST 1. -/
def recoveryOf : Nat → Option Recovery
  | 0 => some .auto
  | 1 => some .host
  | _ => none

/-- HOLD 0, ON-WRITE 1, ON-ACCESS 2. -/
def incrementOf : Nat → Option IncrementMode
  | 0 => some .hold
  | 1 => some .onWrite
  | 2 => some .onAccess
  | _ => none

/-- The nine kinds of an event record, 0 to 8 in the order of section 10.1. -/
def recordKindOf : Nat → Option RecordKind
  | 0 => some .greenGroup
  | 1 => some .arrival
  | 2 => some .occupancy
  | 3 => some .count
  | 4 => some .actuation
  | 5 => some .preemptCall
  | 6 => some .preemptClear
  | 7 => some .transitCall
  | 8 => some .unitFault
  | _ => none

/-- The match kind of a rule: a routable kind, or ANY coded 9; a fixed-route kind is none of them (R165, 11.6). -/
def matchKindOf : Nat → Option MatchKind
  | 0 => some (some .greenGroup)
  | 1 => some (some .arrival)
  | 2 => some (some .occupancy)
  | 3 => some (some .count)
  | 4 => some (some .actuation)
  | 9 => some none
  | _ => none

/-- The match direction of a rule: an event direction, or ANY coded 3 (11.6). -/
def matchDirectionOf : Nat → Option (Option EventDirection)
  | 3 => some none
  | n => (eventDirectionOf n).map some

/-- PLATOON at bit 0, then QUEUE, DEMAND and NOTICE; any other bit is none of the four (R165). -/
def destinationsOf (n : Nat) : Option Destinations :=
  if n < 16 then some { platoon := bit n 0, queue := bit n 1, demand := bit n 2, notice := bit n 3 } else none

/-- OFFSET at bit 0, then SPLIT, PLATOON and PRIORITY; other bits are not read (notes/assumptions/19.md). -/
def abilitiesOf (n : Nat) : Abilities :=
  { offset := bit n 0, split := bit n 1, platoon := bit n 2, priority := bit n 3 }

/-- Reason of a NAK, 0 to 4 in the order of R132. -/
def nakReasonOf : Nat → Option NakReason
  | 0 => some .belowMinimum
  | 1 => some .pedService
  | 2 => some .preempting
  | 3 => some .localControl
  | 4 => some .badPlan
  | _ => none

/-- Signal stage of a STATUS, 0 to 3. -/
def stageOf : Nat → Option SignalStage
  | 0 => some .mainGreen
  | 1 => some .change
  | 2 => some .sideService
  | 3 => some .preempting
  | _ => none

/-- The enable set of a bit field: bit n − 1 is notice code 0x80 + n; none when a bit outside the 19 kinds is set or OVERRUN
is left out (R173, 11.6). -/
def enableSetOf (field : Nat) : Option (List NoticeKind) :=
  if field < 2 ^ 19 ∧ bit field 18 then
    some (((NoticeKind.all.zip (List.range 19)).filter (fun k => bit field k.2)).map Prod.fst)
  else none

/-- The event direction of a direction of travel. -/
def toEvent : Direction → EventDirection
  | .inbound => .inbound
  | .outbound => .outbound

end Sys2Proof.Machine
end

