-- ==== Sys2Proof/Machine/Flags.lean ====
section
/-! DEFINITION. The conditions worked out from the state whenever a block needs them: coordination standing, overlays,
poll eligibility, the beacon, silence and drained conditions, demand figures. -/

namespace Sys2Proof.Machine

/-! ### Coordination standing (02_offset_coordination.md 2.2) -/

/-- SEEKING or IN-STEP. -/
def steered : CoordState → Bool
  | .seeking _ => true
  | .inStep => true
  | _ => false

/-- SEEKING, IN-STEP or PREEMPTED. -/
def coordinated : CoordState → Bool
  | .seeking _ => true
  | .inStep => true
  | .preempted => true
  | _ => false

/-- A resolved mode under which a position can be steered (R15). -/
def steerable : Option ResolvedMode → Bool
  | some .full => true
  | some .timed => true
  | some .paced => true
  | _ => false

/-! ### Neighbours (00_scope.md 0.5) -/

/-- Position k − 1. -/
def nearer (p : Pos) : Option Pos := if h : 1 ≤ p.val then some ⟨p.val - 1, by omega⟩ else none

/-- Position k + 1. -/
def farther (p : Pos) : Option Pos := if h : p.val + 1 < 12 then some ⟨p.val + 1, h⟩ else none

/-- The position upstream of p in a direction of travel. -/
def upstream (d : Direction) (p : Pos) : Option Pos :=
  match d with
  | .inbound => farther p
  | .outbound => nearer p

/-- The position downstream of p in a direction of travel. -/
def downstream (d : Direction) (p : Pos) : Option Pos :=
  match d with
  | .inbound => nearer p
  | .outbound => farther p

/-! ### Queue Watch (R77, R78, R79) -/

/-- The approach record of a position. -/
def approachOf (a : Approaches) : Approach → ApproachRecord
  | .inboundArterial => a.inbound
  | .outboundArterial => a.outbound
  | .side => a.side

/-- An approach of a position, where there is one, is BLOCKED. -/
def Watch.blockedAt (qw : Watch) (a : Approach) : Option Pos → Bool
  | none => false
  | some p => (approachOf (qw.approaches.get p) a).state == .blocked

/-- The overlays on a position, from the states of its own approaches and of its neighbours' (R77, R78). -/
def Watch.overlays (qw : Watch) (p : Pos) : Overlays :=
  { flush := qw.blockedAt .inboundArterial (some p) || qw.blockedAt .outboundArterial (some p),
    gate := qw.blockedAt .inboundArterial (downstream .inbound p)
      || qw.blockedAt .outboundArterial (downstream .outbound p),
    sideRelief := qw.blockedAt .side (some p) }

/-- The gridlock conditions that the states of the approaches make active at a position (R79). -/
def Watch.gridlockAt (qw : Watch) (p : Pos) : Gridlock :=
  { cross := (qw.overlays p).flush && (qw.overlays p).sideRelief,
    chainInbound := qw.blockedAt .inboundArterial (some p) && qw.blockedAt .inboundArterial (upstream .inbound p),
    chainOutbound := qw.blockedAt .outboundArterial (some p) && qw.blockedAt .outboundArterial (upstream .outbound p) }

/-! ### The Corridor Line -/

/-- A position that is polled (R135). -/
def pollEligible (s : State) (p : Pos) : Bool :=
  s.isLive && (s.ident p).state == .identified && (s.health p).state != .cutOff && (s.health p).quietTimer.isNone

/-- The beacon condition (R9). -/
def beaconCondition (s : State) : Bool := s.isLive && s.ps.image.isSome && s.ps.mode != .free

/-- IDENTIFIED with health other than CUT-OFF. -/
def serving (s : State) (p : Pos) : Bool := (s.ident p).state == .identified && (s.health p).state != .cutOff

/-- The silence condition (R156). -/
def silenceCondition (s : State) : Bool := (s.isLive || s.clc.drainFlag) && positions.any (serving s)

/-- What the drained report waits for, the drain flag apart (R142). -/
def lineEmpty (s : State) : Bool := s.clc.queue.isEmpty && s.clc.line == .idle

/-- The line condition (08_the_corridor_line.md 8.8). -/
def lineCondition : LineState → LineCondition
  | .idle => .idle
  | .exchange _ => .exchange
  | .lineBreak _ => .lineBreak

/-! ### The Plan Library and the Plan Selector -/

/-- A slot's state. -/
def slotState : Slot → SlotState
  | .empty => .empty
  | .valid _ => .valid
  | .damaged => .damaged

/-- A commit or erase is in flight (R105). -/
def Library.writing (pl : Library) : Bool := pl.write != .idle

/-- The active slot (07_plan_selection.md 7.1). -/
def Selector.activeSlot (ps : Selector) : Option SlotIx := ps.image.map ActiveImage.slot

/-- The total flow (R125). -/
def Selector.totalFlow (ps : Selector) : Nat := ps.inboundFlow + ps.outboundFlow

/-- The inbound share in percent, 0 when there is no flow (R125). -/
def Selector.inboundShare (ps : Selector) : Nat :=
  if ps.totalFlow = 0 then 0 else ps.inboundFlow * 100 / ps.totalFlow

/-! ### The Priority Manager -/

/-- A position stands in the member list of some route of the table. -/
def Priority.isMember (pm : Priority) (p : Pos) : Bool :=
  pm.routes.any (fun r => r.members.any (fun m => m.position == p))

/-- A position owned for a route and in no route's member list: its route has ended (R90). -/
def Priority.releasePending (pm : Priority) (p : Pos) : Bool :=
  match pm.owners.get p with
  | .route _ => !pm.isMember p
  | _ => false

/-- The route of an origin. -/
def Priority.routeFrom (pm : Priority) (origin : Pos) : Option Route := pm.routes.find? (fun r => r.ref.origin == origin)

end Sys2Proof.Machine
end

