-- ==== Sys2Proof/Machine/LinkQueue.lean ====
section
/-! DEFINITION. The Link Command Queue: classes, offers with replacement, refusal and eviction, withdrawals (R136 to R139). -/

namespace Sys2Proof.Machine

/-- The class a command joins in (R136). -/
def LineCommand.commandClass : LineCommand → CommandClass
  | .routeClear .. => .clearance
  | .routeEnd => .clearance
  | .beacon => .beacon
  | .priorityAnswer _ => .answer
  | .timingSet _ => .timing
  | .runLocal => .admin
  | .identify => .admin
  | .quiet => .admin
  | .probePoll => .admin

/-- The block that offers a command and is told of its outcome (R136). -/
def LineCommand.originator : LineCommand → Originator
  | .routeClear .. => .pm
  | .routeEnd => .pm
  | .priorityAnswer _ => .pm
  | .beacon => .ctb
  | .timingSet _ => .oc
  | .runLocal => .oc
  | .identify => .ih
  | .quiet => .ih
  | .probePoll => .ih

/-- Rank of a class: CLEARANCE > BEACON > ANSWER > TIMING > ADMIN (R136). -/
def classRank : CommandClass → Nat
  | .admin => 0
  | .timing => 1
  | .answer => 2
  | .beacon => 3
  | .clearance => 4

/-- Rank of an entry. -/
def QueueEntry.rank (e : QueueEntry) : Nat := classRank e.command.commandClass

/-- Exchanges an entry may take before it is dropped (R141). -/
def LineCommand.attemptLimit : LineCommand → Nat
  | .probePoll => 1
  | .beacon => 1
  | _ => 3

def LineCommand.isTimingSet : LineCommand → Bool
  | .timingSet _ => true
  | _ => false

def LineCommand.isRouteClear : LineCommand → Bool
  | .routeClear .. => true
  | _ => false

def LineCommand.isPriorityAnswer : LineCommand → Bool
  | .priorityAnswer _ => true
  | _ => false

/-- The commands IH offers. -/
def LineCommand.isAdministrative (c : LineCommand) : Bool := c.originator == .ih

/-- Join as the youngest entry of one's class (R136). -/
def joinQueue (e : QueueEntry) : List QueueEntry → List QueueEntry
  | [] => [e]
  | x :: rest => if x.rank < e.rank then e :: x :: rest else x :: joinQueue e rest

/-- The entry that a new command takes the place of (R137): a TIMING-SET for the same position, a QUIET or RUN-LOCAL for the
same position, a queued BEACON. A RUN-LOCAL takes the place of a RUN-LOCAL alone. -/
def replaces (new : LineCommand) (position : Option Pos) (old : QueueEntry) : Bool :=
  match new with
  | .timingSet _ => old.command.isTimingSet && old.position == position
  | .quiet => (old.command == .quiet || old.command == .runLocal) && old.position == position
  | .runLocal => old.command == .runLocal && old.position == position
  | .beacon => old.command == .beacon
  | _ => false

/-- A command that may join while the part mode is SETUP and the drain flag is set (R136). -/
def drains : LineCommand → Bool
  | .routeEnd => true
  | .runLocal => true
  | .quiet => true
  | _ => false

/-- An offer is taken in the present part mode (R136). -/
def offerOpen (s : State) (c : LineCommand) : Bool := s.isLive || (s.clc.drainFlag && drains c)

/-- Remove the youngest entry of rank `r` that is not on the line; the entry removed and the others. -/
def evictYoungest (r : Nat) : List QueueEntry → Option QueueEntry × List QueueEntry
  | [] => (none, [])
  | e :: rest =>
    match evictYoungest r rest with
    | (some x, rest') => (some x, e :: rest')
    | (none, _) => if !e.onLine && e.rank == r then (some e, rest) else (none, e :: rest)

/-- The lowest rank among the entries not on the line; 5, above every class, when there is none (R138). -/
def lowestRank (q : List QueueEntry) : Nat := q.foldl (fun r e => if e.onLine then r else min r e.rank) 5

/-- What IH does when an IDENTIFY or QUIET is refused or evicted: it offers again 10 ds on (R150, R155). -/
def setRetry (p : Pos) (s : State) : State := s.withIdent p (fun i => { i with retry := some (later s.now 10) })

/-- The originator's handling of an eviction (R138). -/
def evicted (e : QueueEntry) (s : State) : State :=
  match e.command, e.position with
  | .identify, some p => setRetry p s
  | .quiet, some p => setRetry p s
  | _, _ => s

/-- Replace the queue. -/
def State.withQueue (s : State) (q : List QueueEntry) : State := { s with clc := { s.clc with queue := q } }

/-- Offer an entry: refused by part mode, by a QUIET that stands for the position, or by a full queue; otherwise it replaces,
joins, or joins with an eviction. The flag says whether it was accepted (R136, R137, R138). -/
def offerEntry (e : QueueEntry) (s : State) : State × Bool :=
  let q := s.clc.queue
  if ¬ offerOpen s e.command then (s, false)
  else if e.command = .runLocal ∧ q.any (fun x => x.command == .quiet && x.position == e.position) then (s, false)
  else if q.any (replaces e.command e.position) then
    (s.withQueue (joinQueue e (q.filter (fun x => !replaces e.command e.position x))), true)
  else if q.length < Config.queueCapacity then (s.withQueue (joinQueue e q), true)
  else if e.rank ≤ lowestRank q then (s, false)
  else
    match evictYoungest (lowestRank q) q with
    | (none, _) => (s, false)
    | (some x, rest) => (evicted x (s.withQueue (joinQueue e rest)), true)

/-- Offer a command for a position. Its address is read from the configuration as it joins; a position that is not configured
is not addressed (R136, R146). -/
def offerTo (c : LineCommand) (p : Pos) (route : Option RouteRef) (s : State) : State × Bool :=
  match s.config.get p with
  | none => (s, false)
  | some cfg =>
    offerEntry { command := c, address := cfg.address, position := some p, route := route, joined := s.now, attempts := 0,
                 onLine := false } s

/-- Claim a BEACON (R9). A refused claim is discarded (R10). -/
def claimBeacon (s : State) : State :=
  (offerEntry { command := .beacon, address := 0, position := none, route := none, joined := s.now, attempts := 0,
                onLine := false } s).1

/-- Withdraw the entries that satisfy `which`, on the line or not (R139). -/
def withdraw (which : QueueEntry → Bool) (s : State) : State :=
  s.withQueue (s.clc.queue.filter (fun e => !which e))

/-- The entry whose exchange is under way. -/
def onLineEntry (s : State) : Option QueueEntry := s.clc.queue.find? QueueEntry.onLine

/-- Withdraw every entry addressed to a position but those of IH (R139). -/
def withdrawServiced (p : Pos) (s : State) : State :=
  withdraw (fun e => e.position == some p && !e.command.isAdministrative) s

/-- Withdraw the TIMING-SET of a position, with its further attempts (R13, R16, R20). -/
def withdrawTiming (p : Pos) (s : State) : State :=
  withdraw (fun e => e.position == some p && e.command.isTimingSet) s

end Sys2Proof.Machine
end

