-- ==== Sys2Proof/Machine/OffsetCoordinator.lean ====
section
/-! DEFINITION. The Offset Coordinator (02_offset_coordination.md): states, measurement, targets, command points and the
answers to TIMING-SET. -/

namespace Sys2Proof.Machine

/-! ### States (section 2.2) -/

/-- Raise the POSITION-STATE notice of a position as it now stands (R22). -/
def notePosition (p : Pos) (s : State) : State :=
  let c := s.coord p
  raiseNotice (.positionState p c.state (c.target.map Target.offset) (c.measured.map Measured.offset)) s

/-- A coordination record that has left the steered states: the measurement, settle stamp and pending grant go (R13, R16,
R20). -/
def Coord.unsteered (c : Coord) (state : CoordState) : Coord :=
  { c with state := state, measured := none, settle := none, grant := none }

/-- A coordinated position goes to LOCAL (R16). -/
def leaveToLocal (p : Pos) (reason : LocalReason) (runLocal : Bool) (s : State) : State :=
  let s := withdrawTiming p s
  let s := s.withCoord p (fun c => { c.unsteered (.inLocal reason) with commanded := false })
  let s := notePosition p s
  if runLocal then (offerTo .runLocal p none s).1 else s

/-- A LOCAL position takes a reason; a notice is raised when it changes (R22). -/
def takeReason (p : Pos) (reason : LocalReason) (s : State) : State :=
  if (s.coord p).state = .inLocal reason then s
  else notePosition p (s.withCoord p (fun c => { c with state := .inLocal reason }))

/-- OC's part of a position's entry to UNSEEN (R13). -/
def coordUnseen (p : Pos) (s : State) : State :=
  let was := (s.coord p).state
  let s := withdrawTiming p s
  let s := s.withCoord p (fun c => { c.unsteered .unseen with refusals := 0, fieldLocal := false })
  if was = .unseen then s else notePosition p s

/-- A completed identification brings a position from UNSEEN to LOCAL (R14). -/
def coordIdentified (p : Pos) (mode : ResolvedMode) (s : State) : State :=
  let reason : LocalReason :=
    match mode with
    | .relay => .relay
    | .none => .noCommonMode
    | _ => .awaitingMark
  if (s.coord p).state = .unseen then
    notePosition p
      (s.withCoord p (fun c => { c with state := .inLocal reason, refusals := 0, fieldLocal := false }))
  else s

/-- Health has become CUT-OFF, or a quiet period has begun (R17). -/
def coordOutOfService (p : Pos) (reason : LocalReason) (s : State) : State :=
  match (s.coord p).state with
  | .unseen => s
  | .inLocal _ => takeReason p reason s
  | _ => leaveToLocal p reason false s

/-- A STATUS carries the FIELD-LOCAL flag set, or a NAK LOCAL-CONTROL arrives (R18). -/
def fieldLocalSet (p : Pos) (s : State) : State :=
  let s := s.withCoord p (fun c => { c with fieldLocal := true })
  match (s.coord p).state with
  | .unseen => s
  | .inLocal .awaitingMark => takeReason p .fieldLocal s
  | .inLocal .free => takeReason p .fieldLocal s
  | .inLocal .notInPlan => takeReason p .fieldLocal s
  | .inLocal _ => s
  | _ => leaveToLocal p .fieldLocal true s

/-- A STATUS carries the FIELD-LOCAL flag clear (R18). -/
def fieldLocalClear (p : Pos) (s : State) : State :=
  let s := s.withCoord p (fun c => { c with fieldLocal := false })
  if (s.coord p).state = .inLocal .fieldLocal then takeReason p .awaitingMark s else s

/-! ### Measurement and targets (sections 2.3 and 2.4) -/

/-- Target offset and command point of an entry under a trim and a cycle length (R26). -/
def targetOf (e : PlanEntry) (trim : Int) (c : Nat) : Target :=
  let offset := modC ((e.offset : Int) + trim) c
  { offset := offset, commandPoint := modC ((offset : Int) - 30) c }

/-- Set target offset and command point from the image and the trim; both absent when the image has no entry (R26). -/
def setTarget (p : Pos) (s : State) : State :=
  s.withCoord p (fun c =>
    { c with target := (s.imageEntry p).map (fun e => targetOf e c.trim s.ctb.cycleLength) })

/-- diff of R25: target offset − measured offset wrapped into (−C/2, C/2]. -/
def offsetDiff (target measured c : Nat) : Int := wrapHalf ((target : Int) - measured) c

/-- The room of an entry: C − (min main + side min + lost time) (R30). -/
def room (e : PlanEntry) (c : Nat) : Nat := c - (e.minMain + e.sideMin + e.lostTime)

/-- A step limit in ds: percent × C / 100, rounded down (R30). -/
def stepLimit (percent c : Nat) : Nat := percent * c / 100

/-- The seek direction for a distance d under the limits: the way that needs fewer cycles, LENGTHEN on a tie or with no
room (R30). -/
def chooseDirection (limits : TransitionLimits) (e : PlanEntry) (c d : Nat) : SeekDirection :=
  if room e c = 0 then .lengthen
  else if ceilDiv d (stepLimit limits.lengthen c) ≤ ceilDiv (c - d) (stepLimit limits.shorten c) then .lengthen
  else .shorten

/-- The distance d of R30 and R32: (target offset − measured offset) mod C. -/
def seekDistance (target measured c : Nat) : Nat := modC ((target : Int) - measured) c

/-- The seek direction of a measured position, chosen as R30 states, by the step limits as they stand. At a measurement made
after a SET-TRANSITION-LIMITS and before the next command point (R34) these are the new limits already: a choice of the model
(notes/assumptions/41.md). -/
def freshDirection (p : Pos) (target measured : Nat) (s : State) : SeekDirection :=
  match s.imageEntry p with
  | none => .lengthen
  | some e => chooseDirection s.oc.limits e s.ctb.cycleLength (seekDistance target measured s.ctb.cycleLength)

/-- An IN-STEP position tested against the band tolerance + 10 enters SEEKING when outside it (R25, R26). -/
def testBand (p : Pos) (s : State) : State :=
  let c := s.coord p
  match c.state, c.target, c.measured with
  | .inStep, some t, some m =>
    if (offsetDiff t.offset m.offset s.ctb.cycleLength).natAbs > s.oc.limits.tolerance + 10 then
      notePosition p (s.withCoord p (fun c => { c with state := .seeking (freshDirection p t.offset m.offset s) }))
    else s
  | _, _, _ => s

/-- Set the target again; an IN-STEP position whose target offset has moved is tested (R26). -/
def retarget (p : Pos) (s : State) : State :=
  let old := (s.coord p).target
  let s := setTarget p s
  if (s.coord p).target = old then s else testBand p s

/-- Give a position a trim, with the target that follows (R26). -/
def withTrim (p : Pos) (trim : Int) (s : State) : State :=
  if (s.coord p).trim = trim then s else retarget p (s.withCoord p (fun c => { c with trim := trim }))

/-- A trim step from the Platoon Tracker, clamped to ± the trim limit (R62, R26). -/
def stepTrim (p : Pos) (step : Int) (s : State) : State :=
  withTrim p (clampInt (-(s.oc.limits.trimLimit : Int)) s.oc.limits.trimLimit ((s.coord p).trim + step)) s

/-- The steered state follows a new measurement (R25). -/
def judgeMeasurement (p : Pos) (s : State) : State :=
  let c := s.coord p
  match c.state, c.target, c.measured with
  | .seeking _, some t, some m =>
    if (offsetDiff t.offset m.offset s.ctb.cycleLength).natAbs ≤ s.oc.limits.tolerance then
      notePosition p (s.withCoord p (fun c => { c with state := .inStep }))
    else s.withCoord p (fun c => { c with state := .seeking (freshDirection p t.offset m.offset s) })
  | .inStep, _, _ => testBand p s
  | _, _, _ => s

/-- The settle condition of R23: no stamp, or the reported cycle began after it. -/
def settled (settle : Option Settle) (began : Time) : Bool :=
  match settle with
  | none => true
  | some x => before x.stamp began

/-- OC takes the cycle figures of a STATUS received now: local cycle position and local cycle length (R23, R25). -/
def measure (p : Pos) (localPosition localLength : Nat) (s : State) : State :=
  let c := s.coord p
  if ¬ steered c.state then s
  else if localLength ≠ s.ctb.cycleLength ∨ localPosition ≥ localLength then
    let s' := s.withCoord p (fun c => { c with measured := none })
    if c.state = .inStep then notePosition p (s'.withCoord p (fun c => { c with state := .seeking .lengthen })) else s'
  else if settled c.settle (earlier s.now localPosition) then
    let offset := modC ((s.cyclePosition : Int) - localPosition) s.ctb.cycleLength
    judgeMeasurement p
      (s.withCoord p (fun c => { c with measured := some { offset := offset, time := s.now }, settle := none }))
  else s

/-! ### Main green (R27, R28) -/

/-- The base main green of an entry (R27). -/
def baseMain (s : State) (p : Pos) (e : PlanEntry) : Nat :=
  let side := (s.qw.approaches.get p).side
  let limits := s.oc.limits
  match side.heard with
  | none => e.mainGreen
  | some h =>
    if e.adapt ∧ ((s.ident p).mode = some .full ∨ (s.ident p).mode = some .timed) then
      if h.smoothed ≤ limits.sideLow then e.maxMain
      else if h.smoothed ≥ limits.sideLow + limits.sideRange then e.minMain
      else e.minMain + (e.maxMain - e.minMain) * (limits.sideLow + limits.sideRange - h.smoothed) / limits.sideRange
    else e.mainGreen

/-- Base and overlay: the target main green without a grant (R28 steps 1 and 2). -/
def ungrantedMain (s : State) (p : Pos) (e : PlanEntry) : Nat :=
  let o := s.qw.overlays p
  if (s.ident p).mode = some .paced then baseMain s p e
  else if o.flush then e.maxMain
  else if o.gate ∨ o.sideRelief then e.minMain
  else baseMain s p e

/-- The target main green (R28). -/
def targetMain (s : State) (p : Pos) (e : PlanEntry) : Nat :=
  match (s.coord p).grant with
  | none => ungrantedMain s p e
  | some g => if (s.ident p).mode = some .paced then ungrantedMain s p e else min (ungrantedMain s p e + g) e.maxMain

/-! ### Command points (R30 to R33) -/

/-- A measured offset last measured more than C ds ago is removed as stale (R32). -/
def dropStale (p : Pos) (s : State) : State :=
  match (s.coord p).measured with
  | some m =>
    if elapsed s.now m.time > s.ctb.cycleLength then s.withCoord p (fun c => { c with measured := none }) else s
  | none => s

/-- At a command point a measured SEEKING position has its direction chosen afresh (R30). -/
def rechoose (p : Pos) (s : State) : State :=
  let c := s.coord p
  match c.state, c.target, c.measured with
  | .seeking _, some t, some m =>
    s.withCoord p (fun c => { c with state := .seeking (freshDirection p t.offset m.offset s) })
  | _, _, _ => s

/-- The adjustment a of R32. -/
def adjustment (c : Coord) (limits : TransitionLimits) (e : PlanEntry) (cycle : Nat) : Int :=
  match c.state, c.target, c.measured with
  | .seeking way, some t, some m =>
    let d := seekDistance t.offset m.offset cycle
    match way with
    | .lengthen => (min d (stepLimit limits.lengthen cycle) : Nat)
    | .shorten => -((min (min (cycle - d) (stepLimit limits.shorten cycle)) (room e cycle) : Nat) : Int)
  | _, _, _ => 0

/-- The TIMING-SET that a command point builds (R33). -/
def timingFor (s : State) (p : Pos) (slot : SlotIx) (e : PlanEntry) (a : Int) : TimingSet :=
  let cycle := s.ctb.cycleLength
  let clamped := clampNat e.minMain e.maxMain (targetMain s p e)
  let bound := ((cycle : Int) + a - e.lostTime - e.sideMin).toNat
  { planNumber := slot.val + 1, cycleLength := cycle, nextCycle := ((cycle : Int) + a).toNat,
    mainGreen := if (s.ident p).mode = some .paced then none else some (min clamped bound) }

/-- OC handles the command point of a position (R31, R32, R33). -/
def handleCommandPoint (p : Pos) (s : State) : State :=
  let s := rechoose p (dropStale p (s.withCoord p (fun c => { c with commanded := true })))
  match s.ps.image, s.imageEntry p with
  | some image, some e =>
    let a := adjustment (s.coord p) s.oc.limits e s.ctb.cycleLength
    let t := timingFor s p image.slot e a
    (offerTo (.timingSet t) p none (s.withCoord p (fun c => { c with grant := none }))).1
  | _, _ => s

/-- The command point of a position is to be handled now: it is steered in LIVE, the cycle position has come to it, and it
has not been handled in this corridor cycle. A mark still to be handled in this ds comes first (R31). -/
def commandPointDue (s : State) (p : Pos) : Bool :=
  let c := s.coord p
  s.isLive && steered c.state && !c.commanded && elapsed s.now s.ctb.anchor != s.ctb.cycleLength &&
    (match c.target with
     | some t => t.commandPoint == s.cyclePosition
     | none => false)

/-! ### Preemption (R20, R21) -/

/-- An owner other than NONE has been set on a position (R20). -/
def ownerTaken (p : Pos) (s : State) : State :=
  if steered (s.coord p).state then
    notePosition p
      ((withdrawTiming p s).withCoord p (fun c => { c.unsteered .preempted with commanded := false }))
  else s

/-- The owner of a position has returned to NONE (R21). -/
def ownerReturned (p : Pos) (s : State) : State :=
  if (s.coord p).state = .preempted then
    match s.imageEntry p with
    | some _ =>
      notePosition p
        (setTarget p (s.withCoord p (fun c => { c with state := .seeking .lengthen, measured := none, commanded := false })))
    | none => leaveToLocal p .notInPlan true s
  else s

/-! ### Answers to TIMING-SET (section 2.6) -/

/-- An ACK to a TIMING-SET (R35). The settle stamp lapses 3 × C after it is set (R24). -/
def timingAcked (p : Pos) (t : TimingSet) (s : State) : State :=
  let s := s.withCoord p (fun c => { c with refusals := 0 })
  if t.nextCycle ≠ t.cycleLength ∧ steered (s.coord p).state then
    s.withCoord p (fun c =>
      { c with settle := some { stamp := s.now, lapses := later s.now (3 * s.ctb.cycleLength) }, measured := none })
  else s

/-- A counted refusal of a TIMING-SET (R36). -/
def timingRefused (p : Pos) (reason : NakReason) (t : TimingSet) (s : State) : State :=
  let s := s.withCoord p (fun c => { c with refusals := saturate 4 (c.refusals + 1) })
  let s := raiseNotice (.timingRefused p reason (s.coord p).refusals t.planNumber) s
  if (s.coord p).refusals = 4 ∧ coordinated (s.coord p).state then leaveToLocal p .refusing true s else s

/-- The reason REFUSING is cleared, and a count of 4 with it (R37). -/
def clearRefusing (p : Pos) (s : State) : State :=
  if (s.coord p).state = .inLocal .refusing then
    notePosition p (s.withCoord p (fun c => { c with state := .inLocal .awaitingMark, refusals := 0 }))
  else if (s.coord p).refusals = 4 then s.withCoord p (fun c => { c with refusals := 0 })
  else s

/-! ### Cycle marks (R15, R19, R38, R39) -/

/-- Steps 1 to 5 of R38 at one position, and what follows for its state; `lengthChanged` says that C has changed (R39). -/
def planTakesEffect (lengthChanged : Bool) (p : Pos) (s : State) : State :=
  let s := s.withCoord p (fun c => { c with trim := 0, grant := none })
  let s := clearRefusing p s
  let old := (s.coord p).target
  let s := setTarget p s
  match (s.coord p).state, s.imageEntry p with
  | .seeking _, none => leaveToLocal p .notInPlan true s
  | .inStep, none => leaveToLocal p .notInPlan true s
  | .preempted, none => leaveToLocal p .notInPlan true s
  | .seeking _, some _ =>
    if lengthChanged then
      s.withCoord p (fun c => { c with state := .seeking .lengthen, measured := none, settle := none })
    else s
  | .inStep, some _ =>
    if lengthChanged then
      notePosition p
        (s.withCoord p (fun c => { c with state := .seeking .lengthen, measured := none, settle := none }))
    else if (s.coord p).target = old then s
    else testBand p s
  | _, _ => s

/-- Every condition of R15 for entry to SEEKING, the reason apart. -/
def maySeek (s : State) (p : Pos) : Bool :=
  s.isLive && s.ps.mode != .free && (s.imageEntry p).isSome && (s.health p).state != .cutOff &&
    (s.health p).quietTimer.isNone && !(s.coord p).fieldLocal && steerable (s.ident p).mode && s.owner p == .none

/-- The reason a LOCAL position is given when it may not seek (R15). -/
def waitingReason (s : State) (p : Pos) : LocalReason :=
  if s.ps.mode = .free then .free else if (s.imageEntry p).isNone then .notInPlan else .awaitingMark

/-- A LOCAL position examined at a cycle mark (R15). -/
def examineLocal (p : Pos) (s : State) : State :=
  match (s.coord p).state with
  | .inLocal reason =>
    if reason = .awaitingMark ∨ reason = .free ∨ reason = .notInPlan then
      if maySeek s p then
        notePosition p
          (setTarget p (s.withCoord p (fun c =>
            { c with state := .seeking .lengthen, refusals := 0, measured := none, commanded := false })))
      else takeReason p (waitingReason s p) s
    else s
  | _ => s

/-- At a mark with selector mode FREE a coordinated position goes LOCAL (R19). -/
def freeAtMark (p : Pos) (s : State) : State :=
  if s.ps.mode = .free ∧ coordinated (s.coord p).state then leaveToLocal p .free true s else s

/-- A command point at cycle position 0, handled within the mark (R31). -/
def commandPointAtMark (p : Pos) (s : State) : State :=
  let c := s.coord p
  if s.isLive ∧ steered c.state ∧ c.commanded = false ∧ c.target.map Target.commandPoint = some 0 then
    handleCommandPoint p s
  else s

/-- OC's work at a cycle mark before trim steps and command points (R31, R38, R39, R15, R19). The plan, then R15, then R19 act,
each with the notices of its own changes (notes/assumptions/3.md). -/
def coordAtMark (planChanged lengthChanged : Bool) (s : State) : State :=
  let s := forPositions (fun p s => s.withCoord p (fun c => { c with commanded := false })) s
  let s :=
    if planChanged then
      forPositions (planTakesEffect lengthChanged) (withdraw (fun e => e.command.isTimingSet) s)
    else s
  forPositions freeAtMark (forPositions examineLocal s)

/-! ### Restarts (R41, R42) -/

/-- COORD-RESTART at one position (R41). -/
def coordRestartAt (p : Pos) (s : State) : State :=
  let was := (s.coord p).state
  let s := setTarget p (s.withCoord p (fun c => { c with trim := 0 }))
  if steered was then
    let s := (withdrawTiming p s).withCoord p (fun c => { c.unsteered (.seeking .lengthen) with refusals := 0 })
    if was = .inStep then notePosition p s else s
  else s

/-- GO-SETUP at one position (R42). -/
def coordSetupAt (p : Pos) (s : State) : State :=
  match (s.coord p).state with
  | .unseen => s
  | .inLocal _ => takeReason p .setup s
  | _ => leaveToLocal p .setup true s

end Sys2Proof.Machine
end

