-- ==== Sys2Proof/Machine/QueueWatch.lean ====
section
/-! DEFINITION. Queue Watch (04_queue_watch_and_spillback_control.md): samples, classification, overlays, gridlock. -/

namespace Sys2Proof.Machine

/-- Rank of a queue state: UNKNOWN < CLEAR < BUILDING < BLOCKED. -/
def queueRank : QueueState → Nat
  | .unknown => 0
  | .clear => 1
  | .building => 2
  | .blocked => 3

/-- The higher of two queue states (R75). -/
def worseOf (a b : QueueState) : QueueState := if queueRank a < queueRank b then b else a

/-- The limits of an approach's class (section 4.1). -/
def Watch.limitsOf (qw : Watch) : Approach → QueueLimits
  | .inboundArterial => qw.arterialLimits
  | .outboundArterial => qw.arterialLimits
  | .side => qw.sideLimits

/-- Replace the record of one approach. -/
def Approaches.withRecord (a : Approaches) (which : Approach) (r : ApproachRecord) : Approaches :=
  match which with
  | .inboundArterial => { a with inbound := r }
  | .outboundArterial => { a with outbound := r }
  | .side => { a with side := r }

/-- The approach record of a position. -/
def State.approach (s : State) (p : Pos) (a : Approach) : ApproachRecord := approachOf (s.qw.approaches.get p) a

/-- Replace the approach record of a position. -/
def State.withApproach (s : State) (p : Pos) (a : Approach) (r : ApproachRecord) : State :=
  { s with qw := { s.qw with approaches := update s.qw.approaches p (fun x => x.withRecord a r) } }

/-- The state after the steps that a smoothed occupancy allows, from the state before the sample; UNKNOWN counts as CLEAR
(R70). -/
def classify (l : QueueLimits) (v : Nat) : QueueState → QueueState
  | .blocked =>
    if v < l.blockedOn - l.hysteresis then
      (if v < l.buildingOn - l.hysteresis then .clear else .building)
    else .blocked
  | .building =>
    if v ≥ l.blockedOn then .blocked else if v < l.buildingOn - l.hysteresis then .clear else .building
  | _ => if v ≥ l.buildingOn then (if v ≥ l.blockedOn then .blocked else .building) else .clear

/-- An approach record in a new state, its latched worst state raised with it (R75). -/
def ApproachRecord.become (r : ApproachRecord) (state : QueueState) (heard : Option Heard) : ApproachRecord :=
  { state := state, worst := worseOf r.worst state, heard := heard }

/-- The record after a sample of the given value and event time (R69, R70, R71). -/
def ApproachRecord.sampled (r : ApproachRecord) (l : QueueLimits) (value : Nat) (eventTime : Time) : ApproachRecord :=
  let v :=
    match r.heard with
    | none => value
    | some h => moveToward h.smoothed value (2 ^ l.exponent)
  let last :=
    match r.heard with
    | none => eventTime
    | some h => if before h.lastSample eventTime then eventTime else h.lastSample
  r.become (classify l v r.state) (some { smoothed := v, lastSample := last, silence := later last 300 })

/-- Work the gridlock conditions out again and raise the notices of one kind of condition, in order of position (R79). -/
def noteGridlock (condition : GridlockCondition) (active : Gridlock → Bool) (old : Vector Gridlock 12) (s : State) : State :=
  forPositions (fun p s =>
    if active (s.qw.gridlock.get p) = active (old.get p) then s
    else raiseNotice (.gridlockRisk p condition (active (s.qw.gridlock.get p)) (s.qw.overlays p)) s) s

/-- The gridlock conditions that stand for the present approach states. -/
def Watch.settleGridlock (qw : Watch) : Watch :=
  { qw with gridlock := positions.foldl (fun g p => g.set p.val (qw.gridlockAt p)) qw.gridlock }

/-- Work the gridlock conditions out again, with a notice for each that starts or ends, in the order of the table of R79. -/
def settleGridlock (s : State) : State :=
  let old := s.qw.gridlock
  let s := { s with qw := s.qw.settleGridlock }
  let s := noteGridlock .cross Gridlock.cross old s
  let s := noteGridlock .chainInbound Gridlock.chainInbound old s
  noteGridlock .chainOutbound Gridlock.chainOutbound old s

/-- The direction of an arterial approach. -/
def approachDirection : Approach → Option Direction
  | .inboundArterial => some .inbound
  | .outboundArterial => some .outbound
  | .side => none

/-- The position gated by an approach: upstream in its direction (R77). -/
def gatedBy (p : Pos) (a : Approach) : Option Pos :=
  match approachDirection a with
  | none => none
  | some d => upstream d p

/-- Raise the QUEUE-STATE notice of a change (R74). The gated position is named when the approach has entered or left
BLOCKED (notes/assumptions/16.md). -/
def noteQueueState (p : Pos) (a : Approach) (previous : QueueState) (s : State) : State :=
  let r := s.approach p a
  let gated := if previous = .blocked ∨ r.state = .blocked then gatedBy p a else none
  raiseNotice (.queueState
    { position := p, approach := a, previous := previous, new := r.state, smoothed := r.heard.map Heard.smoothed,
      overlays := s.qw.overlays p, gated := gated.map (fun q => (q, s.qw.overlays q)) }) s

/-- An approach record takes a new value by a sample or a silence expiry: overlays and gridlock conditions follow, and a
change of state is reported, the QUEUE-STATE notice first (R70, R71, R74, R79, R82). -/
def changeApproach (p : Pos) (a : Approach) (r : ApproachRecord) (s : State) : State :=
  let previous := (s.approach p a).state
  let s := s.withApproach p a r
  if r.state = previous then s else settleGridlock (noteQueueState p a previous s)

/-- The approach a sample is for (R68). -/
def sampleApproach (tag : Nat) (d : EventDirection) : Option Approach :=
  match tag, d with
  | 1, .inbound => some .inboundArterial
  | 1, .outbound => some .outboundArterial
  | 1, .none => none
  | 2, _ => some .side
  | _, _ => none

/-- QW takes a record delivered to it from a position (R68). -/
def takeSample (p : Pos) (tag : Nat) (d : EventDirection) (value : Nat) (eventTime : Time) (s : State) : State :=
  match sampleApproach tag d with
  | none => s
  | some a =>
    if s.isLive ∧ (s.coord p).state ≠ .unseen ∧ (s.health p).state ≠ .cutOff ∧ value ≤ 100 then
      changeApproach p a ((s.approach p a).sampled (s.qw.limitsOf a) value eventTime) s
    else s

/-- The silence deadline of an approach record expires now (R71). -/
def approachSilent (s : State) (p : Pos) (a : Approach) : Bool :=
  match (s.approach p a).heard with
  | some h => h.silence == s.now
  | none => false

/-- Silence expiry of an approach record (R71). -/
def expireSilence (p : Pos) (a : Approach) (s : State) : State :=
  changeApproach p a ((s.approach p a).become .unknown none) s

/-- The approach records of a position fall to UNKNOWN, without QUEUE-STATE notices (R72). -/
def approachesLost (p : Pos) (s : State) : State :=
  settleGridlock
    { s with qw := { s.qw with approaches := update s.qw.approaches p (fun x =>
        { inbound := x.inbound.become .unknown none, outbound := x.outbound.become .unknown none,
          side := x.side.become .unknown none }) } }

/-- COORD-RESTART and GO-SETUP on QW: every record and condition cleared, no notice (R80). -/
def clearWatch (s : State) : State :=
  { s with qw := { s.qw with approaches := Vector.replicate 12 Approaches.reset,
                             gridlock := Vector.replicate 12 Gridlock.reset } }

end Sys2Proof.Machine
end

