-- ==== Sys2Proof/Machine/PlatoonTracker.lean ====
section
/-! DEFINITION. The Platoon Tracker (03_platoon_tracking_and_offset_refinement.md): links, the pool, departures, arrivals,
arrival errors. -/

namespace Sys2Proof.Machine

/-! ### Links (section 3.1) -/

/-- The 22 directed links. -/
def links : List Link :=
  let segments : List Segment := [0, 1, 2, 3, 4, 5, 6, 7, 8, 9, 10]
  segments.map (fun k => { segment := k, direction := .inbound })
    ++ segments.map (fun k => { segment := k, direction := .outbound })

/-- The segment that starts at position number k, toward k + 1. -/
def segmentFrom (p : Pos) : Option Segment := if h : p.val < 11 then some ⟨p.val, h⟩ else none

/-- The segment that ends at position number k, from k − 1. -/
def segmentTo (p : Pos) : Option Segment := if h : 1 ≤ p.val then some ⟨p.val - 1, by omega⟩ else none

/-- The link a departure from p enters. -/
def linkLeaving (p : Pos) : EventDirection → Option Link
  | .inbound => (segmentTo p).map (fun k => { segment := k, direction := .inbound })
  | .outbound => (segmentFrom p).map (fun k => { segment := k, direction := .outbound })
  | .none => none

/-- The link an arrival at p comes from. -/
def linkArriving (p : Pos) : EventDirection → Option Link
  | .inbound => (segmentFrom p).map (fun k => { segment := k, direction := .inbound })
  | .outbound => (segmentTo p).map (fun k => { segment := k, direction := .outbound })
  | .none => none

/-- The position number k of segment k. -/
def segmentNear (k : Segment) : Pos := ⟨k.val, by omega⟩

/-- The position number k + 1 of segment k. -/
def segmentFar (k : Segment) : Pos := ⟨k.val + 1, by omega⟩

/-- The position traffic leaves on a link. -/
def upstreamEnd (l : Link) : Pos :=
  match l.direction with
  | .inbound => segmentFar l.segment
  | .outbound => segmentNear l.segment

/-- The position traffic reaches on a link. -/
def downstreamEnd (l : Link) : Pos :=
  match l.direction with
  | .inbound => segmentNear l.segment
  | .outbound => segmentFar l.segment

/-- The design travel time of a link (R43). -/
def designTravel (r : LinkRecord) : Nat := clampNat 50 1200 (r.distance * 36 / r.speed)

/-! ### The pool (R47, R48, R49) -/

/-- The free count is brought up by n removals; 8 or more re-arms the pool-empty report (R49). -/
def Tracker.freed (pt : Tracker) (n : Nat) : Tracker :=
  if n = 0 then pt
  else
    { pt with freeCount := pt.freeCount + n,
              poolEmptyRaised := if pt.freeCount + n ≥ 8 then false else pt.poolEmptyRaised }

/-- Return n records to the pool. -/
def freeRecords (n : Nat) (s : State) : State := { s with pt := s.pt.freed n }

/-- A platoon number is carried by a held record. -/
def numberHeld (s : State) (n : Nat) : Bool := links.any (fun l => (s.link l).queue.any (fun x => x.number == n))

/-- The number after n, from 65,535 to 1. -/
def nextNumber (n : Nat) : Nat := if n ≥ 65535 then 1 else n + 1

/-- The first number from n on that no held record carries; at most 64 are held, so 64 passes are enough (R47). -/
def freeNumber (s : State) : Nat → Nat → Nat
  | 0, n => n
  | tries + 1, n => if numberHeld s n then freeNumber s tries (nextNumber n) else n

/-- Place a record in departure-head order, after every record of an equal or earlier head (R48). -/
def insertPlatoon (x : Platoon) : List Platoon → List Platoon
  | [] => [x]
  | y :: rest => if before x.head y.head then x :: y :: rest else y :: insertPlatoon x rest

/-- Remove the first record of a given number. -/
def removePlatoon (n : Nat) (q : List Platoon) : List Platoon := q.eraseP (fun x => x.number == n)

/-- Put a new record into a link queue: it takes its number and the free count decreases (R47, R52). -/
def holdPlatoon (l : Link) (x : Platoon) (s : State) : State :=
  let n := freeNumber s Config.poolSize s.pt.nextNumber
  let s := s.withLink l (fun r => { r with queue := insertPlatoon { x with number := n } r.queue })
  { s with pt := { s.pt with nextNumber := nextNumber n, freeCount := s.pt.freeCount - 1 } }

/-- Take the oldest record of a link as DISPLACED (R49). -/
def displaceOldest (l : Link) (s : State) : State :=
  match (s.link l).queue with
  | [] => s
  | _ :: rest => freeRecords 1 (s.withLink l (fun r => { r with queue := rest }))

/-- Place a new record, by the depth of its queue and the pool (R52, R53). -/
def placePlatoon (l : Link) (x : Platoon) (s : State) : State :=
  let r := s.link l
  if r.queue.length ≥ r.depth then
    if r.queue.all (fun y => before x.head y.head) then s else holdPlatoon l x (displaceOldest l s)
  else if s.pt.freeCount = 0 then
    if s.pt.poolEmptyRaised then s
    else raiseNotice (.poolEmpty l x.size) { s with pt := { s.pt with poolEmptyRaised := true } }
  else holdPlatoon l x s

/-! ### Departures (R50, R51) -/

/-- The times of a new record, from the link's estimate and the slacks (R51). Its number is given on placement. -/
def platoonTimes (pt : Tracker) (r : LinkRecord) (head : Time) (duration size : Nat) : Platoon :=
  let predictedHead := later head r.estimate
  let predictedTail := later predictedHead (duration * 5 / 4)
  { number := 0, head := head, duration := duration, size := size, predictedHead := predictedHead,
    predictedTail := predictedTail, windowOpen := earlier predictedHead pt.earlySlack,
    windowClose := later predictedTail pt.lateSlack }

/-- PT takes a record delivered with tag 1 as a departure (R50, R51). The conditions are those that R50 lists: a departure after
the removal that a quiet period of the downstream end or a COORD-RESTART made is taken, as R59 says of the quiet period, where
R65 says that R50 refuses it: a choice of the model (notes/assumptions/42.md). -/
def takeDeparture (p : Pos) (d : EventDirection) (duration size : Nat) (eventTime : Time) (s : State) : State :=
  match linkLeaving p d with
  | none => s
  | some l =>
    let q := downstreamEnd l
    if s.isLive ∧ (s.coord p).state ≠ .unseen ∧ (s.health p).state = .sound ∧ (s.coord q).state ≠ .unseen
        ∧ (s.health q).state ≠ .cutOff ∧ duration ≤ 1200 ∧ size ≥ s.pt.minimumSize then
      let x := platoonTimes s.pt (s.link l) (earlier eventTime duration) duration (saturate 255 size)
      if before s.now x.windowClose then placePlatoon l x s else s
    else s

/-! ### Arrivals (R54, R55, R61) -/

/-- A time lies within the window of a record (R54). -/
def inWindow (x : Platoon) (t : Time) : Bool := elapsed t x.windowOpen ≤ elapsed x.windowClose x.windowOpen

/-- A record matches an arrival: its window contains the event time, and the measured travel lies from half the design travel
time to twice it (R54). -/
def platoonMatches (r : LinkRecord) (t : Time) (x : Platoon) : Bool :=
  inWindow x t && designTravel r / 2 ≤ elapsed t x.head && elapsed t x.head ≤ 2 * designTravel r

/-- Raise the LINK-TRACKING notice of a link as it now stands (R58). -/
def noteTracking (l : Link) (s : State) : State :=
  let r := s.link l
  raiseNotice (.linkTracking l r.tracked r.estimate r.lost) s

/-- The direction of a link is the wave direction of the active plan image (R61). -/
def alongWave (s : State) (l : Link) : Bool :=
  match s.ps.image with
  | none => false
  | some image =>
    match image.plan.header.wave, l.direction with
    | .inbound, .inbound => true
    | .outbound, .outbound => true
    | _, _ => false

/-- The error base does not refuse an event time (R61). -/
def afterBase (base : Option Time) (t : Time) : Bool :=
  match base with
  | none => true
  | some b => !before t b

/-- Add an error to an accumulator; nothing is added once its count has saturated (R61). -/
def Accumulator.add (a : Accumulator) (e : Int) : Accumulator :=
  if a.count < 255 then { sum := a.sum + e, count := a.count + 1 } else a

/-- The arrival error of an arrival at event time t (R61). -/
def arrivalError (s : State) (target lead : Nat) (t : Time) : Int :=
  let place := modC ((s.cyclePosition : Int) - elapsed s.now t) s.ctb.cycleLength
  wrapHalf ((place : Int) - ((target : Int) - lead)) s.ctb.cycleLength

/-- A match offers its arrival error (R61). -/
def offerError (l : Link) (t : Time) (s : State) : State :=
  let q := downstreamEnd l
  let u := upstreamEnd l
  match (s.coord q).target with
  | none => s
  | some target =>
    if alongWave s l ∧ (s.ident u).mode = some .full ∧ (s.health u).state = .sound ∧ (s.link l).tracked
        ∧ afterBase s.pt.errorBase t then
      let e := arrivalError s target.offset (s.link l).lead t
      { s with pt := { s.pt with accumulators := update s.pt.accumulators q (fun a => a.add e) } }
    else s

/-- The effects of a match on its link and accumulator; the record is removed as ARRIVED (R49, R55). -/
def matchPlatoon (l : Link) (x : Platoon) (t : Time) (s : State) : State :=
  let wasTracked := (s.link l).tracked
  let s := freeRecords 1
    (s.withLink l (fun r => { r with queue := removePlatoon x.number r.queue, lost := 0, tracked := true }))
  let s := if wasTracked then s else noteTracking l s
  let s :=
    if (s.health (downstreamEnd l)).state = .sound then
      s.withLink l (fun r => { r with estimate := clampNat 50 1200 (moveToward r.estimate (elapsed t x.head) 4) })
    else s
  offerError l t s

/-- PT takes a record delivered with tag 2 as an arrival (R54); one that matches nothing is a stray (R56). -/
def takeArrival (p : Pos) (d : EventDirection) (eventTime : Time) (s : State) : State :=
  match linkArriving p d with
  | none => s
  | some l =>
    match (s.link l).queue.find? (platoonMatches (s.link l) eventTime) with
    | none => s
    | some x => matchPlatoon l x eventTime s

/-- PT takes a delivered record by its tag (section 3.3). -/
def takePlatoonRecord (p : Pos) (tag : Nat) (d : EventDirection) (value extra : Nat) (eventTime : Time) (s : State) : State :=
  match tag with
  | 1 => takeDeparture p d value extra eventTime s
  | 2 => takeArrival p d eventTime s
  | _ => s

/-! ### Window close (R57) -/

/-- The link that holds the record of a platoon number whose window closes now. -/
def closingLink (s : State) (n : Nat) : Option Link :=
  links.find? (fun l => (s.link l).queue.any (fun x => x.number == n && x.windowClose == s.now))

/-- A held record is LOST (R57). -/
def losePlatoon (l : Link) (n : Nat) (s : State) : State :=
  let r := s.link l
  let lost := saturate 3 (r.lost + 1)
  let falls := r.tracked && lost == 3
  let s := freeRecords 1
    (s.withLink l (fun r =>
      { r with queue := removePlatoon n r.queue, lost := lost, tracked := r.tracked && !falls }))
  if falls then noteTracking l s else s

/-! ### Links taken down (R59, R60, R63) -/

/-- Empty one link queue as LINK-DOWN. -/
def emptyLink (l : Link) (s : State) : State :=
  freeRecords (s.link l).queue.length (s.withLink l (fun r => { r with queue := [] }))

/-- Empty every link of which a position is an end (R59). -/
def linksDown (p : Pos) (s : State) : State :=
  (links.filter (fun l => upstreamEnd l == p || downstreamEnd l == p)).foldl (fun s l => emptyLink l s) s

/-- Every error accumulator emptied (R63). -/
def emptyAccumulators (s : State) : State :=
  { s with pt := { s.pt with accumulators := Vector.replicate 12 { sum := 0, count := 0 } } }

/-- The accumulator of a position emptied as it enters UNSEEN (R63). -/
def emptyAccumulator (p : Pos) (s : State) : State :=
  { s with pt := { s.pt with accumulators := update s.pt.accumulators p (fun _ => { sum := 0, count := 0 }) } }

/-- The whole pool flushed (R60); the free count comes to 64, which re-arms the pool-empty report (R53). -/
def flushPool (s : State) : State :=
  let s := links.foldl (fun s l => s.withLink l (fun r => { r with queue := [] })) s
  emptyAccumulators { s with pt := { s.pt with freeCount := Config.poolSize, poolEmptyRaised := false } }

/-! ### Cycle marks (R62) -/

/-- The trim step of a position's accumulator: sum / (2 × count), rounded toward zero, from 2 errors on. -/
def trimStep (a : Accumulator) : Int := if a.count < 2 then 0 else Int.tdiv a.sum (2 * a.count)

/-- PT closes the accumulators at a mark: the error base is set when a plan took effect, otherwise the trim steps are
handed over (R62). -/
def trackAtMark (planChanged : Bool) (s : State) : State :=
  if planChanged then emptyAccumulators { s with pt := { s.pt with errorBase := some s.now } }
  else
    emptyAccumulators
      (forPositions (fun p s =>
        if (s.ident p).state = .identified ∧ (s.ident p).mode = some .full then
          stepTrim p (trimStep (s.pt.accumulators.get p)) s
        else s) s)

end Sys2Proof.Machine
end

