-- ==== Sys2Proof/Machine/PriorityManager.lean ====
section
/-! DEFINITION. The Priority Manager (05_preemption_and_transit_priority.md): owners, routes, transit calls. -/

namespace Sys2Proof.Machine

/-! ### Owners and the route table -/

/-- Give a position an owner, handing the change to the Offset Coordinator (R84). -/
def setOwner (p : Pos) (o : Owner) (s : State) : State :=
  let was := s.owner p
  let s := { s with pm := { s.pm with owners := s.pm.owners.set p.val o } }
  if was = .none ∧ o ≠ .none then ownerTaken p s
  else if was ≠ .none ∧ o = .none then ownerReturned p s
  else s

/-- Replace the route table. -/
def State.withRoutes (s : State) (f : List Route → List Route) : State :=
  { s with pm := { s.pm with routes := f s.pm.routes } }

/-- Take a position out of a member list. -/
def Route.without (r : Route) (p : Pos) : Route := { r with members := r.members.filter (fun m => m.position != p) }

/-- Take a position out of the member list of whatever route holds it. -/
def leaveRoute (p : Pos) (s : State) : State := s.withRoutes (fun rs => rs.map (fun r => r.without p))

/-- Withdraw the ROUTE-CLEARs of a position, with their further attempts. -/
def withdrawClear (p : Pos) (s : State) : State :=
  withdraw (fun e => e.position == some p && e.command.isRouteClear) s

/-- Withdraw the ROUTE-ENDs of a position, with their further attempts. -/
def withdrawEnd (p : Pos) (s : State) : State :=
  withdraw (fun e => e.position == some p && e.command == .routeEnd) s

/-- A release-pending position whose ROUTE-END exchange has ended, or was refused, is handed back; nothing changes when it
has been taken by a local call or has joined a new route (R90). -/
def handBack (p origin : Pos) (s : State) : State :=
  if s.owner p = .route origin ∧ s.pm.isMember p = false then setOwner p .none s else s

/-- A member that may have taken its clearance is sent a ROUTE-END; the flag says whether the queue took it (R89, R90). -/
def sendEnd (p : Pos) (ref : RouteRef) (s : State) : State × Bool :=
  let r := offerTo .routeEnd p (some ref) (withdrawClear p s)
  if r.2 then r else (handBack p ref.origin r.1, false)

/-- A member's ROUTE-CLEAR still stands unsent in the queue (R89). -/
def clearUnsent (s : State) (p : Pos) : Bool :=
  s.clc.queue.any (fun e => e.position == some p && e.command.isRouteClear && e.attempts == 0)

/-- One former member of an ended route is handled; the list gathers the positions sent a ROUTE-END (R89, R95). -/
def endMember (ref : RouteRef) (acc : State × List Pos) (m : Member) : State × List Pos :=
  let s := acc.1
  if clearUnsent s m.position then (setOwner m.position .none (withdrawClear m.position s), acc.2)
  else
    let r := sendEnd m.position ref s
    (r.1, if r.2 then acc.2 ++ [m.position] else acc.2)

/-- End a route: its entry, the one of its origin, leaves the table, then each member is handled, nearest first (R89). -/
def endRoute (r : Route) (s : State) : State × List Pos :=
  r.members.foldl (endMember r.ref) (s.withRoutes (fun rs => rs.filter (fun x => x.ref.origin != r.ref.origin)), [])

/-- End the route of an origin, when there is one. -/
def endRouteFrom (origin : Pos) (s : State) : State × List Pos :=
  match s.pm.routeFrom origin with
  | none => (s, [])
  | some r => endRoute r s

/-- End every route of the table, in order of origin (R101). -/
def endAllRoutes (s : State) : State := forPositions (fun p s => (endRouteFrom p s).1) s

/-! ### Local calls (R85 to R88) -/

/-- The positions after k in a direction, the nearest first, at most n of them. -/
def ahead (d : Direction) : Nat → Pos → List Pos
  | 0, _ => []
  | n + 1, k =>
    match downstream d k with
    | none => []
    | some q => q :: ahead d n q

/-- A candidate passes every test of R86. -/
def candidateOk (s : State) (origin p : Pos) : Bool :=
  (s.owner p == .none || (s.owner p == .route origin && s.pm.releasePending p)) && (s.ident p).state == .identified &&
    (s.health p).state != .cutOff && (s.health p).quietTimer.isNone &&
    (match (s.ident p).abilities with
     | some a => a.priority
     | none => false) &&
    (s.ident p).mode != some .relay

/-- Offer the ROUTE-CLEARs of a new route, nearest first. From the first one refused on, the members leave the route with
owner NONE (R86, R87). -/
def offerClears (ref : RouteRef) (d : Direction) (hold : Nat) : List Pos → State → State
  | [], s => s
  | p :: rest, s =>
    let r := offerTo (.routeClear d hold) p (some ref) s
    if r.2 then offerClears ref d hold rest r.1
    else (p :: rest).foldl (fun s q => setOwner q .none (leaveRoute q s)) r.1

/-- Form a route from k, or not (R86); the outcome is what PREEMPT-START carries (R95). -/
def formRoute (k : Pos) (d : EventDirection) (s : State) : State × RouteOutcome :=
  let length :=
    match s.config.get k with
    | none => 0
    | some cfg => cfg.routeLength
  let way : Option Direction :=
    match d with
    | .inbound => some .inbound
    | .outbound => some .outbound
    | .none => none
  match way with
  | none => (s, .noneRequested)
  | some way =>
    if length = 0 then (s, .noneRequested)
    else
      let members := (ahead way length k).takeWhile (candidateOk s k)
      if members.isEmpty then (s, .noMembers)
      else if s.pm.routes.length ≥ Config.routeCapacity then (s, .tableFull)
      else
        let ref : RouteRef := { origin := k, serial := s.pm.nextSerial }
        let hold := s.pm.policy.routeTimeout
        let route : Route :=
          { ref := ref, direction := way, members := members.map (fun p => { position := p, held := false }),
            start := s.now, deadline := later s.now hold }
        let s := { s with pm := { s.pm with routes := s.pm.routes ++ [route], nextSerial := s.pm.nextSerial + 1 } }
        let s := members.foldl (fun s p => setOwner p (.route k) s) s
        (offerClears ref way hold members s, .formed members)

/-- PM takes a PREEMPT-CALL from k (R85). -/
def preemptCall (k : Pos) (d : EventDirection) (s : State) : State :=
  if s.isLive then
    let s := withdrawClear k (leaveRoute k s)
    let s := if s.pm.releasePending k then withdrawEnd k s else s
    let s := (endRouteFrom k s).1
    let s := setOwner k (.localCall d) s
    let r := formRoute k d s
    raiseNotice (.preemptStart k d .call r.2) r.1
  else s

/-- The owner of a position is a local call. -/
def locallyCalled (s : State) (p : Pos) : Bool :=
  match s.owner p with
  | .localCall _ => true
  | _ => false

/-- The end of a local call: its route ends first, then the owner returns to NONE, and one notice serves both (R88, R89,
R95). -/
def endCall (k : Pos) (cause : EndCause) (s : State) : State :=
  let r := endRouteFrom k s
  raiseNotice (.preemptEnd k cause r.2) (setOwner k .none r.1)

/-- PM takes a PREEMPT-CLEAR from k (R88). -/
def preemptClear (k : Pos) (s : State) : State :=
  if s.isLive ∧ locallyCalled s k then endCall k .clear s else s

/-- A local call learned from the PREEMPTING flag or from a NAK (R92). -/
def callLearned (k : Pos) (cause : StartCause) (s : State) : State :=
  if s.owner k = .none then
    raiseNotice (.preemptStart k .none cause .noneRequested) (setOwner k (.localCall .none) s)
  else s

/-- PM judges the PREEMPTING flag of a STATUS after its records (R88, R92). -/
def judgePreempting (k : Pos) (flag : Bool) (s : State) : State :=
  if flag then callLearned k .flag s
  else if locallyCalled s k then endCall k .flag s
  else s

/-- The route of a timeout or CANCEL-ROUTE ends; the origin keeps its call (R89, R91). -/
def dropRoute (r : Route) (cause : EndCause) (s : State) : State :=
  let e := endRoute r s
  raiseNotice (.preemptEnd r.ref.origin cause e.2) e.1

/-! ### Outcomes of ROUTE-CLEAR (R87) -/

/-- The route that sent a command still holds p as a member. -/
def stillMember (s : State) (ref : RouteRef) (p : Pos) : Bool :=
  s.pm.routes.any (fun r => r.ref == ref && r.members.any (fun m => m.position == p))

/-- An ACK to a ROUTE-CLEAR: the member is HELD (R87). -/
def clearAcked (p : Pos) (ref : RouteRef) (s : State) : State :=
  s.withRoutes (fun rs => rs.map (fun r =>
    if r.ref = ref then
      { r with members := r.members.map (fun m => if m.position = p then { m with held := true } else m) }
    else r))

/-- A NAK to a ROUTE-CLEAR, or its drop: the member leaves with owner NONE (R87). -/
def clearFailed (p : Pos) (ref : RouteRef) (s : State) : State :=
  if stillMember s ref p then setOwner p .none (leaveRoute p s) else s

/-! ### Loss of positions and faults (R93, R94) -/

/-- PM's part when a position enters UNSEEN, is cut off, or begins a quiet period (R93). -/
def standingLost (k : Pos) (s : State) : State :=
  match s.owner k with
  | .none => s
  | .localCall _ => endCall k .originLost s
  | .route _ => setOwner k .none (withdrawEnd k (withdrawClear k (leaveRoute k s)))

/-- PM takes a UNIT-FAULT from k (R94). -/
def unitFault (k : Pos) (s : State) : State :=
  if s.isLive then
    let s := if s.budget k < s.pm.policy.recovery then s.withBudget k s.pm.policy.recovery else s
    match s.pm.routes.find? (fun r => r.members.any (fun m => m.position == k)) with
    | none => s
    | some r => (sendEnd k r.ref (leaveRoute k s)).1
  else s

/-! ### Transit priority (R96, R97) -/

/-- The extension of a grant at a position; 0 when its entry leaves none (R97). -/
def extensionAt (s : State) (k : Pos) : Nat :=
  match s.imageEntry k with
  | none => 0
  | some e => min s.pm.policy.extensionMax (e.maxMain - ungrantedMain s k e)

/-- The first reason of R96 that denies a call, if any. -/
def denial (s : State) (k : Pos) : Option DenyReason :=
  let c := (s.coord k).state
  let abilities :=
    match (s.ident k).abilities with
    | some a => a.priority
    | none => false
  if s.owner k ≠ .none ∨ c = .preempted then some .preempted
  else if (s.ident k).mode ≠ some .full ∨ abilities = false ∨ steered c = false ∨ (s.health k).state ≠ .sound
      ∨ extensionAt s k = 0 then some .notEligible
  else if (s.qw.overlays k).flush ∨ (s.qw.overlays k).gate then some .overlay
  else if s.budget k > 0 then some .budget
  else none

/-- PM judges and answers a TRANSIT-CALL (R96, R97). -/
def transitCall (k : Pos) (d : EventDirection) (arrival extra : Nat) (s : State) : State :=
  if s.isLive then
    let answer : TransitAnswer :=
      match denial s k with
      | some reason => .deny reason
      | none => .grant (extensionAt s k)
    let r := offerTo (.priorityAnswer answer) k none s
    let s :=
      match answer with
      | .deny _ => r.1
      | .grant extension =>
        if r.2 then
          (r.1.withCoord k (fun c => { c with grant := some extension })).withBudget k r.1.pm.policy.recovery
        else r.1
    raiseNotice (.transitGrant
      { position := k, direction := d, arrival := arrival, extra := extra, answer := answer, queued := r.2,
        budget := s.budget k }) s
  else s

/-! ### Cycle marks and restarts (R98, R101) -/

/-- Every transit grant budget above 0 decreases by one (R98). -/
def countDown (s : State) : State := forPositions (fun p s => s.withBudget p (s.budget p - 1)) s

/-- Line reset: the table is emptied and every owner becomes NONE (R101). -/
def priorityLineReset (s : State) : State :=
  forPositions (fun p s => setOwner p .none s) (s.withRoutes (fun _ => []))

/-- Every route ends, every local call becomes NONE, and every PRIORITY-ANSWER is removed: COORD-RESTART and GO-SETUP
(R101). -/
def releasePriority (s : State) : State :=
  let s := endAllRoutes s
  let s := forPositions (fun p s => if locallyCalled s p then setOwner p .none s else s) s
  withdraw (fun e => e.command.isPriorityAnswer) s

/-- COORD-RESTART on PM: budgets become 0 besides (R101). -/
def priorityRestart (s : State) : State :=
  let s := releasePriority s
  { s with pm := { s.pm with budgets := Vector.replicate 12 0 } }

end Sys2Proof.Machine
end

