-- ==== Sys2Proof/Machine/PlanLibrary.lean ====
section
/-! DEFINITION. The Plan Library (06_the_plan_library.md): validity, loads, the staging record, commit and erase; the
meanings of its requests and completions but for what a completion does at the Plan Selector. -/

namespace Sys2Proof.Machine

/-- The outcome type of every meaning. -/
abbrev Result := Host.Outcome State Fault Refusal

/-! ### Validity (R103, R111) -/

/-- The first failing test of an entry against the cycle length, as its field number (R111 step 3). -/
def entryFault (c : Nat) (e : PlanEntry) : Option Nat :=
  firstBad [(1, e.offset < c), (2, inRange e.minMain e.maxMain e.mainGreen),
            (4, e.maxMain + e.sideMin + e.lostTime ≤ c)]

/-- The first failing entry in order of position, with its field (R111 step 3). -/
def entriesFault (c : Nat) (entries : EntryPlaces) : List Pos → Option (Nat × Nat)
  | [] => none
  | p :: rest =>
    match entries.get p with
    | none => entriesFault c entries rest
    | some e =>
      match entryFault c e with
      | some field => some (posNumber p, field)
      | none => entriesFault c entries rest

/-- The positions that have entries. -/
def entryPositions (entries : EntryPlaces) : List Pos := positions.filter (fun p => (entries.get p).isSome)

/-- The checks of COMMIT-PLAN in order: the position and field that fail, or the plan (R111). -/
def validateStaged (x : Staging) : (Nat × Nat) ⊕ Plan :=
  match x.header with
  | none => .inl (0, 1)
  | some header =>
    if (entryPositions x.entries).isEmpty then .inl (0, 3)
    else
      match entriesFault header.cycleLength x.entries positions with
      | some fault => .inl fault
      | none => .inr { header := header, entries := x.entries }

/-- Every field of an entry lies in its range (section 6.1). -/
def entryInRange (e : PlanEntry) : Bool :=
  inRange 0 2399 e.offset && inRange 50 2400 e.mainGreen && inRange 50 2400 e.minMain && inRange 50 2400 e.maxMain
    && inRange 50 2400 e.sideMin && inRange 20 200 e.lostTime

/-- A plan is valid: ranges of section 6.1 and the tests of R103. -/
def planValid (x : Plan) : Bool :=
  inRange 400 2400 x.header.cycleLength && !(entryPositions x.entries).isEmpty
    && positions.all (fun p =>
      match x.entries.get p with
      | none => true
      | some e => entryInRange e && (entryFault x.header.cycleLength e).isNone)

/-! ### Loads (R115) -/

/-- PL's answer to a load. -/
inductive LoadAnswer where
  | copy (plan : Plan)
  | busy
  | notValid (found : SlotState)
  deriving DecidableEq, Repr

/-- A load of a slot (R115). -/
def Library.load (pl : Library) (slot : SlotIx) : LoadAnswer :=
  if pl.writing then .busy
  else
    match pl.slots.get slot with
    | .valid plan => .copy plan
    | .empty => .notValid .empty
    | .damaged => .notValid .damaged

/-! ### The staging record (R106 to R110) -/

/-- Replace the staging record. -/
def State.withStaging (s : State) (x : Option Staging) : State := { s with pl := { s.pl with staging := x } }

/-- A request that works on the open staging record: NO-SUCH while it is closed (R106). -/
def whileOpen (handle : Staging → State → State × Answer) (s : State) : State × Answer :=
  match s.pl.staging with
  | none => (s, .noSuch)
  | some x => handle x s

/-- The cursor advances from position p to p + 1, and from 12 to 1 (R110). -/
def advance (p : Pos) : Pos := if h : p.val + 1 < 12 then ⟨p.val + 1, h⟩ else 0

/-- The cursor after a STAGE-ENTRY is taken (section 6.3). -/
def afterWrite (x : Staging) : Pos :=
  match x.mode with
  | .hold => x.cursor
  | .onWrite => advance x.cursor
  | .onAccess => advance x.cursor

/-- The cursor after a STAGE-READ is taken (section 6.3). -/
def afterRead (x : Staging) : Pos :=
  match x.mode with
  | .onAccess => advance x.cursor
  | _ => x.cursor

/-- An open staging record just opened: cursor 1, HOLD (R107). -/
def openedStaging (target : SlotIx) (header : Option PlanHeader) (entries : EntryPlaces) : Staging :=
  { target := target, header := header, entries := entries, cursor := 0, mode := .hold }

/-- STAGE-OPEN whose source is not COPY; BLANK is coded 1 (R107). -/
def openBlank (x : OpenBlankFields) (s : State) : State × Answer :=
  match slotOf x.target with
  | none => (s, .badValue 0 1)
  | some target =>
    if x.source ≠ 1 then (s, .badValue 0 2)
    else (s.withStaging (some (openedStaging target none (Vector.replicate 12 none))), .done .none)

/-- STAGE-OPEN with source COPY (R105, R107). -/
def openCopy (x : OpenCopyFields) (s : State) : State × Answer :=
  match slotOf x.target with
  | none => (s, .badValue 0 1)
  | some target =>
    if s.pl.writing then (s, .busy)
    else
      match slotOf x.sourceSlot with
      | none => (s, .badValue 0 3)
      | some source =>
        match s.pl.slots.get source with
        | .valid plan => (s.withStaging (some (openedStaging target (some plan.header) plan.entries)), .done .none)
        | _ => (s, .badValue 0 3)

/-- STAGE-HEADER (R108). -/
def stageHeader (x : HeaderFields) : State → State × Answer :=
  whileOpen (fun staged s =>
    if ¬ inRange 400 2400 x.cycleLength then (s, .badValue 0 1)
    else
      match waveOf x.wave with
      | none => (s, .badValue 0 2)
      | some wave =>
        (s.withStaging (some { staged with header := some { cycleLength := x.cycleLength, wave := wave } }), .done .none))

/-- STAGE-SEEK (R109). -/
def stageSeek (x : SeekFields) : State → State × Answer :=
  whileOpen (fun staged s =>
    match posOf x.position with
    | none => (s, .badValue 0 1)
    | some p =>
      match incrementOf x.mode with
      | none => (s, .badValue 0 2)
      | some mode => (s.withStaging (some { staged with cursor := p, mode := mode }), .done .none))

/-- The first field of STAGE-ENTRY WRITE out of its range, numbered 2 to 8 (R110). -/
def entryFieldFault (x : EntryFields) : Option Nat :=
  firstBad [(2, inRange 0 2399 x.offset), (3, inRange 50 2400 x.mainGreen), (4, inRange 50 2400 x.minMain),
            (5, inRange 50 2400 x.maxMain), (6, inRange 50 2400 x.sideMin), (7, inRange 20 200 x.lostTime),
            (8, x.adapt ≤ 1)]

/-- The entry that the fields of a STAGE-ENTRY WRITE hold; the adapt flag is coded SET 0, CLEAR 1. -/
def entryOf (x : EntryFields) : PlanEntry :=
  { offset := x.offset, mainGreen := x.mainGreen, minMain := x.minMain, maxMain := x.maxMain, sideMin := x.sideMin,
    lostTime := x.lostTime, adapt := x.adapt == 0 }

/-- Put an entry, or nothing, into the place at the cursor; the reply carries the cursor after any advance (R110). -/
def putEntry (entry : Option PlanEntry) (staged : Staging) (s : State) : State × Answer :=
  let cursor := afterWrite staged
  (s.withStaging (some { staged with entries := staged.entries.set staged.cursor.val entry, cursor := cursor }),
   .done (.cursor cursor))

/-- STAGE-ENTRY WRITE (R110). -/
def stageEntryWrite (x : EntryFields) : State → State × Answer :=
  whileOpen (fun staged s =>
    match entryFieldFault x with
    | some field => (s, .badValue 0 field)
    | none => putEntry (some (entryOf x)) staged s)

/-- STAGE-ENTRY whose operation is not WRITE; CLEAR is coded 1 (R110). -/
def stageEntryClear (operation : Nat) : State → State × Answer :=
  whileOpen (fun staged s => if operation ≠ 1 then (s, .badValue 0 1) else putEntry none staged s)

/-- STAGE-READ (R110). -/
def stageRead : State → State × Answer :=
  whileOpen (fun staged s =>
    let cursor := afterRead staged
    (s.withStaging (some { staged with cursor := cursor }),
     .done (.stage { positionRead := staged.cursor, entry := staged.entries.get staged.cursor, header := staged.header,
                     target := staged.target, cursor := cursor, mode := staged.mode })))

/-- STAGE-DISCARD (R110). -/
def stageDiscard : State → State × Answer := whileOpen (fun _ s => (s.withStaging none, .done .none))

/-! ### Commit, erase and reads (R111, R113, R116) -/

/-- COMMIT-PLAN (R111). With the staging record closed while a write is in flight (R105) the answer is NO-SUCH, the first that
R111 names: a choice of the model (notes/assumptions/40.md). -/
def commitPlan : State → State × Answer :=
  whileOpen (fun staged s =>
    if s.pl.writing then (s, .busy)
    else
      match validateStaged staged with
      | .inl fault => (s, .badValue fault.1 fault.2)
      | .inr plan =>
        ({ s with pl := { s.pl with write := .committing staged.target plan, staging := none } }, .accepted))

/-- ERASE-PLAN (R113). A slot out of range while a write is in flight (R105) is answered BAD-VALUE, the first that R113 names: a
choice of the model (notes/assumptions/40.md). -/
def erasePlan (slot : Nat) (s : State) : State × Answer :=
  match slotOf slot with
  | none => (s, .badValue 0 1)
  | some ix =>
    if s.pl.writing then (s, .busy)
    else if s.pl.slots.get ix = .empty then (s, .noSuch)
    else ({ s with pl := { s.pl with write := .erasing ix } }, .accepted)

/-- GET-SLOT (R116). A slot out of range while a write is in flight (R105) is answered BAD-VALUE, the first that R116 names: a
choice of the model (notes/assumptions/40.md). -/
def getSlot (slot : Nat) (s : State) : State × Answer :=
  match slotOf slot with
  | none => (s, .badValue 0 1)
  | some ix =>
    if s.pl.writing then (s, .busy)
    else
      match s.pl.slots.get ix with
      | .valid plan => (s, .done (.slot (.valid plan) (some (s.ps.activeSlot == some ix))))
      | other => (s, .done (.slot other none))

/-- A slot takes its contents as a write completes, and the write state becomes IDLE (R112, R113). -/
def finishWrite (slot : SlotIx) (contents : Slot) (s : State) : State :=
  { s with pl := { s.pl with slots := s.pl.slots.set slot.val contents, write := .idle } }

/-- The slots as a power-on reset finds them: the slot of a write in flight is DAMAGED (R114). -/
def Library.slotsAfterPowerOn (pl : Library) : Vector Slot 24 :=
  match pl.write with
  | .idle => pl.slots
  | .committing slot _ => pl.slots.set slot.val .damaged
  | .erasing slot => pl.slots.set slot.val .damaged

/-! ### Meanings -/

/-- STAGE_OPEN_BLANK (R107). -/
def execStageOpenBlank (b : Body OpenBlankFields) (s : State) : Result := .next (onRequest .stageOpen b openBlank s)

/-- STAGE_OPEN_COPY (R107). -/
def execStageOpenCopy (b : Body OpenCopyFields) (s : State) : Result := .next (onRequest .stageOpen b openCopy s)

/-- STAGE_HEADER (R108). -/
def execStageHeader (b : Body HeaderFields) (s : State) : Result := .next (onRequest .stageHeader b stageHeader s)

/-- STAGE_SEEK (R109). -/
def execStageSeek (b : Body SeekFields) (s : State) : Result := .next (onRequest .stageSeek b stageSeek s)

/-- STAGE_ENTRY_WRITE (R110). -/
def execStageEntryWrite (b : Body EntryFields) (s : State) : Result := .next (onRequest .stageEntry b stageEntryWrite s)

/-- STAGE_ENTRY_CLEAR (R110). -/
def execStageEntryClear (b : Body Nat) (s : State) : Result := .next (onRequest .stageEntry b stageEntryClear s)

/-- STAGE_READ (R110). -/
def execStageRead (b : Body Unit) (s : State) : Result := .next (onRequest .stageRead b (fun _ => stageRead) s)

/-- STAGE_DISCARD (R110). -/
def execStageDiscard (b : Body Unit) (s : State) : Result := .next (onRequest .stageDiscard b (fun _ => stageDiscard) s)

/-- COMMIT_PLAN (R111). -/
def execCommitPlan (b : Body Unit) (s : State) : Result := .next (onRequest .commitPlan b (fun _ => commitPlan) s)

/-- ERASE_PLAN (R113). -/
def execErasePlan (b : Body Nat) (s : State) : Result := .next (onRequest .erasePlan b erasePlan s)

/-- GET_SLOT (R116). -/
def execGetSlot (b : Body Nat) (s : State) : Result := .next (onRequest .getSlot b getSlot s)

end Sys2Proof.Machine
end

