-- ==== Sys2Proof/Machine/PlanSelector.lean ====
section
/-! DEFINITION. The Plan Selector (07_plan_selection.md): demand, the handling of a cycle mark, completions, and the meanings
of its requests. -/

namespace Sys2Proof.Machine

/-! ### Demand (R119, R120) -/

/-- PS takes a record delivered to it as a count (R119). -/
def takeCount (tag : Nat) (d : EventDirection) (value : Nat) (s : State) : State :=
  if s.isLive ∧ 1 ≤ tag ∧ tag ≤ 4 then
    match d with
    | .inbound =>
      { s with ps := { s.ps with
          inboundAccumulator := saturate Config.countLimit (s.ps.inboundAccumulator + value * tag) } }
    | .outbound =>
      { s with ps := { s.ps with
          outboundAccumulator := saturate Config.countLimit (s.ps.outboundAccumulator + value * tag) } }
    | .none => s
  else s

/-- The cycle flow of an accumulator over a cycle of the ended length (R120). -/
def cycleFlow (accumulator ended : Nat) : Nat := saturate 9999 (accumulator * 36000 / ended)

/-- Close the demand of the cycle that has ended (R120). -/
def Selector.closeDemand (ps : Selector) (ended : Nat) : Selector :=
  { ps with inboundFlow := moveToward ps.inboundFlow (cycleFlow ps.inboundAccumulator ended) 4,
            outboundFlow := moveToward ps.outboundFlow (cycleFlow ps.outboundAccumulator ended) 4,
            inboundAccumulator := 0, outboundAccumulator := 0 }

/-! ### The requested mode (R124) -/

/-- No candidate followed. -/
def Selector.forgetCandidate (ps : Selector) : Selector := { ps with previousCandidate := none, persistenceCount := 0 }

/-- A pending plan with its deferrals at 0. -/
def Selector.makePending (ps : Selector) (slot : SlotIx) (cause : PlanCause) : Selector :=
  { ps with pendingPlan := some { slot := slot, cause := cause }, deferrals := 0 }

/-- No pending plan. -/
def Selector.dropPending (ps : Selector) : Selector := { ps with pendingPlan := none, deferrals := 0 }

/-- The requested mode becomes the selector mode (R124). -/
def Selector.takeRequested (ps : Selector) : Selector :=
  match ps.requested with
  | none => ps
  | some .free => { (ps.dropPending.forgetCandidate) with mode := .free, requested := none }
  | some (.pinned slot) =>
    let next : Selector :=
      if ps.mode = .free then ps.makePending slot .pin
      else if ps.activeSlot ≠ some slot then ps.makePending slot .pin
      else if ps.pendingPlan = some { slot := slot, cause := .reload } then ps
      else ps.dropPending
    { next.forgetCandidate with mode := .pinned slot, requested := none }
  | some (.responsive setting) =>
    if ps.mode = .responsive then { ps with persistenceSetting := setting, requested := none }
    else { (ps.dropPending.forgetCandidate) with mode := .responsive, persistenceSetting := setting, requested := none }

/-! ### The evaluation (R125) -/

/-- An entry fits the flows (R125). -/
def fits (ps : Selector) (e : SelectEntry) : Bool :=
  inRange e.minTotal e.maxTotal ps.totalFlow && inRange e.minShare e.maxShare ps.inboundShare

/-- The places of the selection table in order of index. -/
def selectPlaces : List SelectIx := [0, 1, 2, 3, 4, 5, 6, 7]

/-- The candidate: the slot of the first entry by index that fits and whose slot is VALID (R125). -/
def candidate (ps : Selector) (pl : Library) : Option SlotIx :=
  selectPlaces.findSome? (fun i =>
    match ps.table.get i with
    | none => none
    | some e => if fits ps e && slotState (pl.slots.get e.slot) == .valid then some e.slot else none)

/-- A candidate seen through the persistence setting becomes the pending plan; one that is pending already keeps its cause
and deferrals (R125). -/
def Selector.promote (ps : Selector) (slot : SlotIx) : Selector :=
  if ps.persistenceCount ≥ ps.persistenceSetting then
    let next : Selector :=
      match ps.pendingPlan with
      | some x => if x.slot = slot then ps else ps.makePending slot PlanCause.demand
      | none => ps.makePending slot PlanCause.demand
    { next with persistenceCount := 0 }
  else ps

/-- The evaluation of a mark in RESPONSIVE mode (R125). -/
def Selector.evaluate (ps : Selector) (pl : Library) : Selector :=
  match candidate ps pl with
  | none => ps.forgetCandidate
  | some slot =>
    if ps.activeSlot = some slot then
      let next : Selector :=
        match ps.pendingPlan with
        | some x => if x.cause = PlanCause.demand then ps.dropPending else ps
        | none => ps
      { next with persistenceCount := 0, previousCandidate := some slot }
    else if ps.previousCandidate = some slot then
      ({ ps with persistenceCount := ps.persistenceCount + 1 } : Selector).promote slot
    else ({ ps with persistenceCount := 1, previousCandidate := some slot } : Selector).promote slot

/-! ### Taking up the pending plan (R126) -/

/-- The active plan image becomes a copy of a slot, with its PLAN-CHANGE notice (R126). -/
def loadImage (x : PendingPlan) (plan : Plan) (s : State) : State :=
  let change : PlanChange :=
    { previousSlot := s.ps.activeSlot, newSlot := x.slot, previousLength := s.ctb.cycleLength,
      newLength := plan.header.cycleLength, wave := plan.header.wave, cause := x.cause, deferrals := s.ps.deferrals,
      totalFlow := s.ps.totalFlow, inboundShare := s.ps.inboundShare }
  raiseNotice (.planChange change)
    { s with ps := { s.ps with image := some { slot := x.slot, plan := plan }, pendingPlan := none, persistenceCount := 0,
                               deferrals := 0 } }

/-- The pending plan is taken up: loaded, deferred or abandoned. The flag says whether a load succeeded (R126). -/
def takeUpPending (s : State) : State × Bool :=
  match s.ps.pendingPlan with
  | none => (s, false)
  | some x =>
    match s.pl.load x.slot with
    | .copy plan => (loadImage x plan s, true)
    | .busy => ({ s with ps := { s.ps with deferrals := saturate 255 (s.ps.deferrals + 1) } }, false)
    | .notValid found =>
      (raiseNotice (.planChangeFailed x.slot x.cause found s.ps.deferrals)
        { s with ps := s.ps.dropPending.forgetCandidate }, false)

/-- PS handles a cycle mark in the five steps of R123; the flag says that a plan took effect. -/
def selectAtMark (s : State) : State × Bool :=
  let wasFree := s.ps.mode == .free
  let s := { s with ps := s.ps.closeDemand s.ctb.cycleLength }
  let first := takeUpPending s
  let s := first.1
  let s := { s with ps := s.ps.takeRequested }
  let s := if s.ps.mode = .responsive then { s with ps := s.ps.evaluate s.pl } else s
  if wasFree ∧ s.ps.mode ≠ .free ∧ s.ps.pendingPlan.isSome ∧ first.2 = false then takeUpPending s else (s, first.2)

/-! ### Completions and restarts (R127, R129) -/

/-- A plan made pending by a commit completion: it keeps the deferrals of a pending plan of the same slot (R127). -/
def Selector.remake (ps : Selector) (slot : SlotIx) (cause : PlanCause) : Selector :=
  match ps.pendingPlan with
  | some x =>
    if x.slot = slot then { ps with pendingPlan := some { slot := slot, cause := cause } } else ps.makePending slot cause
  | none => ps.makePending slot cause

/-- PS is told of a completed commit (R127). -/
def Selector.commitDone (ps : Selector) (slot : SlotIx) : Selector :=
  if ps.mode = .free then ps
  else if ps.activeSlot = some slot then
    match ps.pendingPlan with
    | none => ps.remake slot .reload
    | some x => if x.slot = slot then ps.remake slot .reload else ps
  else if ps.mode = .pinned slot then ps.remake slot .pin
  else ps

/-- COORD-RESTART on PS (R129). -/
def Selector.restart (ps : Selector) : Selector := ps.dropPending.forgetCandidate

/-- GO-SETUP on PS (R129). -/
def Selector.toSetup (ps : Selector) : Selector :=
  { ps.dropPending.forgetCandidate with mode := .free, requested := none, inboundAccumulator := 0, outboundAccumulator := 0 }

/-! ### Requests (R121, R122, R128) -/

/-- Replace the requested mode. -/
def requestMode (m : RequestedMode) (s : State) : State × Answer :=
  ({ s with ps := { s.ps with requested := some m } }, .done .none)

/-- SET-SELECT-MODE whose mode is coded neither PINNED nor RESPONSIVE; FREE is 0 (R122). -/
def selectFree (mode : Nat) (s : State) : State × Answer :=
  if mode ≠ 0 then (s, .badValue 0 1) else requestMode .free s

/-- SET-SELECT-MODE PINNED (R122). -/
def selectPinned (slot : Nat) (s : State) : State × Answer :=
  match slotOf slot with
  | none => (s, .badValue 0 2)
  | some ix => if slotState (s.pl.slots.get ix) = .valid then requestMode (.pinned ix) s else (s, .noSuch)

/-- SET-SELECT-MODE RESPONSIVE (R122). -/
def selectResponsive (setting : Nat) (s : State) : State × Answer :=
  if inRange 1 15 setting then requestMode (.responsive setting) s else (s, .badValue 0 2)

/-- The first failing field 4 to 7 of SET-SELECT-ENTRY WRITE (R121). -/
def selectFault (x : SelectFields) : Option Nat :=
  firstBad [(4, x.minTotal ≤ 9999), (5, x.maxTotal ≤ 9999 && x.minTotal ≤ x.maxTotal), (6, x.minShare ≤ 100),
            (7, x.maxShare ≤ 100 && x.minShare ≤ x.maxShare)]

/-- SET-SELECT-ENTRY WRITE (R121). -/
def writeSelect (x : SelectFields) (s : State) : State × Answer :=
  match selectOf x.index with
  | none => (s, .badValue 0 1)
  | some i =>
    match slotOf x.slot with
    | none => (s, .badValue 0 3)
    | some slot =>
      match selectFault x with
      | some field => (s, .badValue 0 field)
      | none =>
        ({ s with ps := { s.ps with table := s.ps.table.set i.val (some
            { slot := slot, minTotal := x.minTotal, maxTotal := x.maxTotal, minShare := x.minShare,
              maxShare := x.maxShare }) } }, .done .none)

/-- SET-SELECT-ENTRY whose operation is not WRITE; CLEAR is coded 1 (R121). -/
def clearSelect (x : SelectClearFields) (s : State) : State × Answer :=
  match selectOf x.index with
  | none => (s, .badValue 0 1)
  | some i =>
    if x.operation ≠ 1 then (s, .badValue 0 2)
    else ({ s with ps := { s.ps with table := s.ps.table.set i.val none } }, .done .none)

/-- GET-SELECTION (R128). -/
def getSelection (s : State) : State × Answer :=
  (s, .done (.selection { selector := s.ps, totalFlow := s.ps.totalFlow, inboundShare := s.ps.inboundShare }))

/-! ### Meanings -/

/-- SET_SELECT_MODE_FREE (R122). -/
def execSetSelectModeFree (b : Body Nat) (s : State) : Result := .next (onRequest .setSelectMode b selectFree s)

/-- SET_SELECT_MODE_PINNED (R122). -/
def execSetSelectModePinned (b : Body Nat) (s : State) : Result := .next (onRequest .setSelectMode b selectPinned s)

/-- SET_SELECT_MODE_RESPONSIVE (R122). -/
def execSetSelectModeResponsive (b : Body Nat) (s : State) : Result := .next (onRequest .setSelectMode b selectResponsive s)

/-- SET_SELECT_ENTRY_WRITE (R121). -/
def execSetSelectEntryWrite (b : Body SelectFields) (s : State) : Result := .next (onRequest .setSelectEntry b writeSelect s)

/-- SET_SELECT_ENTRY_CLEAR (R121). -/
def execSetSelectEntryClear (b : Body SelectClearFields) (s : State) : Result :=
  .next (onRequest .setSelectEntry b clearSelect s)

/-- GET_SELECTION (R128). -/
def execGetSelection (b : Body Unit) (s : State) : Result := .next (onRequest .getSelection b (fun _ => getSelection) s)

end Sys2Proof.Machine
end

