-- ==== Sys2Proof/Machine/Identification.lean ====
section
/-! DEFINITION. Identification and Health (09_identification_and_line_health.md): outcomes and fault scores, identifications,
probes, re-identification, line reset, and the drained report. -/

namespace Sys2Proof.Machine

/-! ### Reports to the other blocks (R13, R59, R72, R93, R139, R153, R155) -/

/-- A position has left IDENTIFIED: the report to CLC, and entry to UNSEEN with what follows from it in OC, PM, PT and QW. -/
def leftIdentified (p : Pos) (s : State) : State :=
  let s := coordUnseen p (withdrawServiced p s)
  approachesLost p (emptyAccumulator p (linksDown p (standingLost p s)))

/-- A position has become CUT-OFF (R153). -/
def cutOffReport (p : Pos) (s : State) : State :=
  let s := coordOutOfService p .cutOff (withdrawServiced p s)
  approachesLost p (linksDown p (standingLost p s))

/-- A quiet period has begun for a position (R155). -/
def quietReport (p : Pos) (s : State) : State :=
  let s := coordOutOfService p .quiet (withdrawServiced p s)
  linksDown p (standingLost p s)

/-! ### Health (R152, R153, R154) -/

/-- Give a position a health state, with its HEALTH-CHANGE notice (R152). -/
def setHealth (p : Pos) (state : HealthState) (cause : HealthCause) (s : State) : State :=
  let previous := (s.health p).state
  let s := s.withHealth p (fun h => { h with state := state })
  let h := s.health p
  raiseNotice (.healthChange p previous state h.score h.failures cause) s

/-- The recovery policy of a position is AUTO. -/
def recoversAlone (s : State) (p : Pos) : Bool :=
  match s.config.get p with
  | none => false
  | some cfg => cfg.recovery == .auto

/-- A position becomes CUT-OFF: the notice, the reports, and under AUTO the first probe deadline when the re-identification
stage is NONE (R153, R154). -/
def cutOff (p : Pos) (cause : HealthCause) (s : State) : State :=
  let s := cutOffReport p (setHealth p .cutOff cause s)
  if recoversAlone s p ∧ (s.health p).stage = .none then
    s.withHealth p (fun h => { h with probeDeadline := some (later s.now 50) })
  else s

/-- The cause for which a position is to be cut off, when it is: three consecutive failures, or a score of 160 (R152). -/
def cutOffCause (s : State) (p : Pos) : Option HealthCause :=
  let h := s.health p
  if h.state = .cutOff ∨ (s.ident p).state ≠ .identified then none
  else if h.failures = 3 then some .failures
  else if h.score ≥ Config.cutOffScore then some .score
  else none

/-- The CUT-OFF test made at a completion of identification (R151 step 2). -/
def testCutOff (p : Pos) (s : State) : State :=
  match cutOffCause s p with
  | some cause => cutOff p cause s
  | none => s

/-- The health state follows the figures after an outcome, the CUT-OFF test first (R152). -/
def followScore (p : Pos) (s : State) : State :=
  match cutOffCause s p with
  | some cause => cutOff p cause s
  | none =>
    let h := s.health p
    if h.state = .sound ∧ h.score ≥ Config.degradedScore then setHealth p .degraded .score s
    else if h.state = .degraded ∧ h.score < Config.soundScore then setHealth p .sound .score s
    else s

/-- Score and failures after an outcome (R152). -/
def Health.scored (h : Health) (good : Bool) : Health :=
  if good then { h with score := h.score - 1, failures := 0 }
  else { h with score := saturate 255 (h.score + 8), failures := saturate 3 (h.failures + 1) }

/-- A GOOD exchange has ended: its time, and the silence deadline moved on while it is present (R156, R157). -/
def noteGood (s : State) : State :=
  { s with ih := { s.ih with lastGood := some s.now, silence := s.ih.silence.map (fun _ => later s.now 25) } }

/-- IH takes the outcome of an addressed exchange (R132, R152, R156). -/
def takeOutcome (p : Pos) (good : Bool) (s : State) : State :=
  let s := if good then noteGood s else s
  followScore p (s.withHealth p (fun h => h.scored good))

/-! ### Identifications (R149, R150, R151) -/

/-- Offer the IDENTIFY of a running identification; when it is refused, again 10 ds on (R150). -/
def offerIdentify (p : Pos) (s : State) : State :=
  let r := offerTo .identify p none s
  if r.2 then r.1 else setRetry p r.1

/-- CUT-OFF is lifted as an identification begins (R149). -/
def liftCutOff (p : Pos) (s : State) : State :=
  let h := s.health p
  if h.state = .cutOff then
    setHealth p (if h.score ≥ Config.degradedScore then .degraded else .sound) .identification s
  else s

/-- The identification fields of a running identification (R149). -/
def Ident.probing (i : Ident) : Ident :=
  { i with state := .probing, site := none, abilities := none, detectors := none, mode := none, basic := none,
           retry := none, reprobe := none }

/-- An identification begins at a configured position (R149). -/
def beginIdentification (p : Pos) (s : State) : State :=
  if (s.config.get p).isNone then s
  else
    let was := (s.ident p).state
    let s := { s with ih := { s.ih with wasAbsent := s.ih.wasAbsent.set p.val (was == IdState.absent) } }
    let s := s.withIdent p Ident.probing
    let s := s.withHealth p (fun h => { h with failures := 0 })
    let s := liftCutOff p s
    let s := s.withHealth p (fun h => { h with probeDeadline := none, probes := 0 })
    let s := if was = .identified then leftIdentified p s else s
    offerIdentify p s

/-- Every configured position is called, in position order (R149). -/
def rollCall (s : State) : State := forPositions beginIdentification s

/-- The resolved mode: the first of FULL, TIMED and PACED that is permitted and supported (R151). -/
def resolveMode (permitted : Nat) (a : Abilities) : ResolvedMode :=
  if bit permitted 0 && a.offset && a.split && a.platoon then .full
  else if bit permitted 1 && a.offset && a.split then .timed
  else if bit permitted 2 && a.offset then .paced
  else .none

/-- The identification of a position completes IDENTIFIED (R151). -/
def completeIdentified (p : Pos) (mode : ResolvedMode) (f : Ident → Ident) (s : State) : State :=
  let s := s.withIdent p (fun i => { f i with state := .identified, mode := some mode, retry := none, byRequest := false })
  let s := { s with clc := { s.clc with accepted := s.clc.accepted.set p.val none } }
  let s := testCutOff p (coordIdentified p mode s)
  let i := s.ident p
  raiseNotice (.identified p
    { result := .identified, site := i.site, abilities := i.abilities, detectors := i.detectors, mode := i.mode,
      basic := i.basic }) s

/-- The identification of a position ends in MISMATCH (R151). -/
def completeMismatch (p : Pos) (configured : Nat) (reported : Option Nat) (reason : MismatchReason) (s : State) : State :=
  let s := s.withIdent p (fun i => { i with state := .mismatch, site := reported, retry := none, byRequest := false })
  raiseNotice (.siteMismatch p configured reported reason) s

/-- An IDENTITY answers the IDENTIFY of a running identification (R151). -/
def identityReply (p : Pos) (reply : IdentityFields) (s : State) : State :=
  match s.config.get p with
  | none => s
  | some cfg =>
    if reply.site = cfg.site then
      let a := abilitiesOf reply.abilities
      completeIdentified p (resolveMode cfg.permittedModes a)
        (fun i => { i with site := some reply.site, abilities := some a, detectors := some reply.detectors,
                           basic := some false }) s
    else completeMismatch p cfg.site (some reply.site) .site s

/-- A HEARTBEAT answers the IDENTIFY of a running identification (R151). -/
def heartbeatIdentify (p : Pos) (s : State) : State :=
  match s.config.get p with
  | none => s
  | some cfg =>
    if bit cfg.permittedModes 3 then completeIdentified p .relay (fun i => { i with basic := some true }) s
    else completeMismatch p cfg.site none .basicUnit s

/-- An IDENTIFY is dropped: the identification ends ABSENT (R150). That an IDENTIFIED notice with result ABSENT carries its other
fields as absent is the model's choice (notes/assumptions/37.md). -/
def identifyDropped (p : Pos) (s : State) : State :=
  let tell := !s.ih.wasAbsent.get p || (s.ident p).byRequest
  let s := s.withIdent p (fun i =>
    { i with state := .absent, reprobe := some (later s.now 300), retry := none, byRequest := false })
  if tell then
    raiseNotice (.identified p
      { result := .absent, site := none, abilities := none, detectors := none, mode := none, basic := none }) s
  else s

/-! ### Probes (R154) -/

/-- The health of a position after its third GOOD probe (R154 steps 1 and 2), the notice apart. -/
def Health.probed (h : Health) : Health := { h with score := 0, failures := 0 }

/-- The outcome of a probe that is still held in the queue acts on the probe-success count of a CUT-OFF position; the third
GOOD brings it back (R154). -/
def probeOutcome (p : Pos) (good : Bool) (s : State) : State :=
  if (s.health p).state ≠ .cutOff then s
  else if good = false then s.withHealth p (fun h => { h with probes := 0 })
  else if (s.health p).probes < 2 then s.withHealth p (fun h => { h with probes := h.probes + 1 })
  else
    let s := setHealth p .sound .probes (s.withHealth p Health.probed)
    beginIdentification p (s.withHealth p (fun h => { h with probeDeadline := none, probes := 0 }))

/-- A probe POLL for a position is still queued. -/
def probeQueued (s : State) (p : Pos) : Bool :=
  s.clc.queue.any (fun e => e.position == some p && e.command == .probePoll)

/-- The probe deadline of a position expires: a probe POLL is offered unless one is queued, and the deadline moves 50 on
(R154). -/
def offerProbe (p : Pos) (s : State) : State :=
  let s := s.withHealth p (fun h => { h with probeDeadline := some (later s.now 50) })
  if probeQueued s p then s else (offerTo .probePoll p none s).1

/-! ### Re-identification (R155) -/

/-- Offer the QUIET of a re-identification; when it is refused, again 10 ds on. -/
def offerQuiet (p : Pos) (s : State) : State :=
  let r := offerTo .quiet p none s
  if r.2 then r.1 else setRetry p r.1

/-- The QUIET exchange has ended, with a GOOD outcome or a drop: the quiet period begins (R155). -/
def startQuiet (p : Pos) (s : State) : State :=
  if (s.health p).stage = .quieting then
    quietReport p
      (s.withHealth p (fun h => { h with stage := .quiet, quietTimer := some (later s.now 30) }))
  else s

/-- The quiet timer of a position expires: an identification begins (R155). -/
def endQuiet (p : Pos) (s : State) : State :=
  beginIdentification p (s.withHealth p (fun h => { h with stage := .none, quietTimer := none }))

/-- The retry deadline of a position expires: the QUIET or IDENTIFY that waits is offered again (R150, R155). -/
def offerAgain (p : Pos) (s : State) : State :=
  let s := s.withIdent p (fun i => { i with retry := none })
  if (s.health p).stage = .quieting then offerQuiet p s
  else if (s.ident p).state = .probing then offerIdentify p s
  else s

/-! ### Line reset and the drained report (R142, R143, R157, R158) -/

/-- The positions that are IDENTIFIED with health other than CUT-OFF, in order. -/
def servingPositions (s : State) : List Pos := positions.filter (serving s)

/-- Step 1 of R157. -/
def lineResetNotice (s : State) : State :=
  let count := saturate 255 (s.ih.lineResets + 1)
  raiseNotice (.lineReset s.ih.lastGood (servingPositions s) count) { s with ih := { s.ih with lineResets := count } }

/-- The break begins: COR-DE is high with COR-TX at space for 5 ds (R143 step 4). -/
def LineController.breaking (clc : LineController) (now : Time) : LineController :=
  { clc with line := .lineBreak (later now 5), driverEnable := true, txLevel := .space }

/-- The exchange in progress is abandoned and the break begins. A frame that is still being sent is finished first, and a
break that is being sent is left as it is (R143, notes/assumptions/6.md). -/
def LineController.broken (clc : LineController) (now : Time) : LineController :=
  match clc.line with
  | .lineBreak _ => clc
  | .idle => clc.breaking now
  | .exchange x =>
    match x.phase with
    | .sending => { clc with line := .exchange { x with phase := .abandoned } }
    | .abandoned => clc
    | _ => clc.breaking now

/-- Step 2 of R157: the flush, with PM and PT acting at it, the schedule cleared, and the break (R143, R101, R60). -/
def lineResetLine (s : State) : State :=
  let s := s.withQueue []
  let s := { s with clc := ({ s.clc with due := Vector.replicate 12 none } : LineController).broken s.now }
  flushPool (priorityLineReset s)

/-- One position becomes UNKNOWN, reported when it was IDENTIFIED (R157 step 3). -/
def forgetIdent (p : Pos) (s : State) : State :=
  let was := (s.ident p).state
  let s := s.withIdent p (fun _ => Ident.reset)
  if was = .identified then leftIdentified p s else s

/-- Step 3 of R157: every position UNKNOWN, no silence deadline, the health restart everywhere. -/
def forgetAll (s : State) : State :=
  let s := forPositions forgetIdent s
  { s with ih := { s.ih with silence := none, wasAbsent := Vector.replicate 12 false,
                             health := Vector.replicate 12 Health.reset } }

/-- A line reset (R157). -/
def lineReset (s : State) : State :=
  let s := forgetAll (lineResetLine (lineResetNotice s))
  if s.isLive then rollCall s else s

/-- The queue is reported drained: the drain flag and draining go, and every position becomes UNKNOWN (R142, R158, R175). -/
def drained (s : State) : State :=
  forgetAll { s with clc := { s.clc with drainFlag := false }, sli := { s.sli with draining := false } }

/-- The queue is reported drained in the same handling when nothing stands in the way (R142). -/
def reportIfDrained (s : State) : State := if s.clc.drainFlag ∧ lineEmpty s then drained s else s

/-- GO-SETUP on IH (R158). -/
def identifySetup (s : State) : State :=
  let s := withdraw (fun e => e.command.isAdministrative) s
  forPositions (fun p s =>
    (s.withIdent p (fun i => { i with retry := none, reprobe := none, byRequest := false })).withHealth p
      (fun h => { h with probeDeadline := none, quietTimer := none, stage := .none })) s

end Sys2Proof.Machine
end

