-- ==== Sys2Proof/Machine/EventRouter.lean ====
section
/-! DEFINITION. The Event Router (10_event_routing.md): sorting records, the fixed route, the rule table, and the meanings of
its requests. -/

namespace Sys2Proof.Machine

/-! ### Reading a record (R160) -/

/-- A well-formed event record: kind and direction within their sets, detector 1 to 32, with the figures as received. -/
structure WellFormedRecord where
  kind : RecordKind
  direction : EventDirection
  record : EventRecord
  deriving DecidableEq, Repr

/-- Read a record; none when it is malformed (R160). -/
def readRecord (r : EventRecord) : Option WellFormedRecord :=
  match recordKindOf r.kind, eventDirectionOf r.direction with
  | some k, some d => if inRange 1 32 r.detector then some { kind := k, direction := d, record := r } else none
  | _, _ => none

/-- Event time: reception time minus age (R160). -/
def eventTime (received : Time) (r : EventRecord) : Time := earlier received r.age

/-- The figures of a DETECTOR-EVENT notice (R164). -/
def reportOf (w : WellFormedRecord) (t : Time) : RecordReport :=
  { sequence := w.record.sequence, kind := w.kind, direction := w.direction, detector := w.record.detector,
    value := w.record.value, extra := w.record.extra, eventTime := t }

/-! ### The fixed route (R161) -/

/-- The kinds that go to the Priority Manager whatever the table holds. -/
def fixedRoute : RecordKind → Bool
  | .preemptCall => true
  | .preemptClear => true
  | .transitCall => true
  | .unitFault => true
  | _ => false

/-- A record on the fixed route is handed to PM, and a UNIT-FAULT is told to the host after it (R161). -/
def takeFixed (p : Pos) (w : WellFormedRecord) (t : Time) (s : State) : State :=
  let s := { s with er := { s.er with fixedCount := saturate Config.countLimit (s.er.fixedCount + 1) } }
  match w.kind with
  | .preemptCall => preemptCall p w.direction s
  | .preemptClear => preemptClear p s
  | .transitCall => transitCall p w.direction w.record.value w.record.extra s
  | .unitFault => raiseNotice (.detectorEvent p none (reportOf w t)) (unitFault p s)
  | _ => s

/-! ### The rule table (R162, R163) -/

/-- A rule matches a record of a position (R162). -/
def Rule.matches (r : Rule) (p : Pos) (w : WellFormedRecord) : Bool :=
  (r.kind == none || r.kind == some w.kind) && (r.direction == none || r.direction == some w.direction) &&
    inRange r.detectorLow r.detectorHigh w.record.detector && bit r.positions p.val

/-- The places of the rule table in order of index. -/
def rulePlaces : List RuleIx :=
  [0, 1, 2, 3, 4, 5, 6, 7, 8, 9, 10, 11, 12, 13, 14, 15, 16, 17, 18, 19, 20, 21, 22, 23, 24, 25, 26, 27, 28, 29, 30, 31, 32,
   33, 34, 35, 36, 37, 38, 39, 40, 41, 42, 43, 44, 45, 46, 47]

/-- The first place whose rule matches, with its rule (R162). -/
def Router.firstMatch (er : Router) (p : Pos) (w : WellFormedRecord) : Option (RuleIx × Rule) :=
  rulePlaces.findSome? (fun i =>
    match er.rules.get i with
    | none => none
    | some r => if r.matches p w then some (i, r) else none)

/-- Deliver a record to the destinations of its rule, in the order of R163. -/
def deliver (p : Pos) (i : RuleIx) (r : Rule) (w : WellFormedRecord) (t : Time) (s : State) : State :=
  let s :=
    if r.destinations.platoon then takePlatoonRecord p r.tag w.direction w.record.value w.record.extra t s else s
  let s := if r.destinations.queue then takeSample p r.tag w.direction w.record.value t s else s
  let s := if r.destinations.demand then takeCount r.tag w.direction w.record.value s else s
  if r.destinations.notice then raiseNotice (.detectorEvent p (some (i, r.tag)) (reportOf w t)) s else s

/-- The no-match count goes up by one (R160, R162). -/
def countNoMatch (s : State) : State :=
  { s with er := { s.er with noMatch := saturate Config.countLimit (s.er.noMatch + 1) } }

/-- The hit count of a place goes up by one (R162). -/
def countHit (i : RuleIx) (s : State) : State :=
  { s with er := { s.er with hits := update s.er.hits i (fun n => saturate Config.countLimit (n + 1)) } }

/-- ER handles one new record of a STATUS from p, received now (R160 to R163). -/
def routeRecord (p : Pos) (r : EventRecord) (s : State) : State :=
  match readRecord r with
  | none => countNoMatch s
  | some w =>
    let t := eventTime s.now r
    if fixedRoute w.kind then takeFixed p w t s
    else
      match s.er.firstMatch p w with
      | none => countNoMatch s
      | some (i, rule) => deliver p i rule w t (countHit i s)

/-! ### Writing and reading the table (R165, R166, R167) -/

/-- The first failing field of a SET-RULE, with the rule it gives when none fails (R165). -/
def ruleFault (x : RuleFields) : Option Nat :=
  firstBad [(1, (ruleOf x.index).isSome), (2, (matchKindOf x.matchKind).isSome),
            (3, (matchDirectionOf x.matchDirection).isSome), (4, inRange 1 32 x.detectorLow),
            (5, inRange 1 32 x.detectorHigh && x.detectorLow ≤ x.detectorHigh), (6, inRange 1 4095 x.positionSet),
            (7, (destinationsOf x.destinations).isSome), (8, x.tag ≤ 255)]

/-- Put a rule, or nothing, at a place; its hit count becomes 0 (R165, R166). -/
def putRule (i : RuleIx) (r : Option Rule) (s : State) : State :=
  { s with er := { s.er with rules := s.er.rules.set i.val r, hits := s.er.hits.set i.val 0 } }

/-- SET-RULE (R165). -/
def setRule (x : RuleFields) : State → State × Answer :=
  inMode .setup (fun s =>
    match ruleFault x with
    | some field => (s, .badValue 0 field)
    | none =>
      match ruleOf x.index, matchKindOf x.matchKind, matchDirectionOf x.matchDirection, destinationsOf x.destinations with
      | some i, some kind, some direction, some destinations =>
        (putRule i (some
          { kind := kind, direction := direction, detectorLow := x.detectorLow, detectorHigh := x.detectorHigh,
            positions := x.positionSet, destinations := destinations, tag := x.tag }) s, .done .none)
      | _, _, _, _ => (s, .badValue 0 1))

/-- CLEAR-RULE (R166). -/
def clearRule (index : Nat) : State → State × Answer :=
  inMode .setup (fun s =>
    match ruleOf index with
    | none => (s, .badValue 0 1)
    | some i => if (s.er.rules.get i).isNone then (s, .noSuch) else (putRule i none s, .done .none))

/-- The reply of GET-RULE for an index 0 to 48 (R167). -/
def Router.read (er : Router) (index : Nat) : ReplyData :=
  match ruleOf index with
  | some i => .rule (er.rules.get i) (er.hits.get i)
  | none => .ruleTable (rulePlaces.filter (fun i => (er.rules.get i).isSome)) er.fixedCount er.noMatch

/-- The counts that a READ-AND-ZERO has reported become 0 (R167). -/
def Router.zeroed (er : Router) (index : Nat) : Router :=
  match ruleOf index with
  | some i => { er with hits := er.hits.set i.val 0 }
  | none => { er with fixedCount := 0, noMatch := 0 }

/-- GET-RULE whose action is not READ-AND-ZERO; READ is coded 0 (R167). -/
def readRule (x : RuleQuery) (s : State) : State × Answer :=
  if x.index > 48 then (s, .badValue 0 1)
  else if x.action ≠ 0 then (s, .badValue 0 2)
  else (s, .done (s.er.read x.index))

/-- GET-RULE with action READ-AND-ZERO (R167). -/
def readAndZeroRule (index : Nat) (s : State) : State × Answer :=
  if index > 48 then (s, .badValue 0 1)
  else ({ s with er := s.er.zeroed index }, .done (s.er.read index))

/-! ### Meanings -/

/-- SET_RULE (R165). -/
def execSetRule (b : Body RuleFields) (s : State) : Result := .next (onRequest .setRule b setRule s)

/-- CLEAR_RULE (R166). -/
def execClearRule (b : Body Nat) (s : State) : Result := .next (onRequest .clearRule b clearRule s)

/-- GET_RULE_READ (R167). -/
def execGetRuleRead (b : Body RuleQuery) (s : State) : Result := .next (onRequest .getRule b readRule s)

/-- GET_RULE_READ_AND_ZERO (R167). -/
def execGetRuleReadAndZero (b : Body Nat) (s : State) : Result := .next (onRequest .getRule b readAndZeroRule s)

end Sys2Proof.Machine
end

