-- ==== Sys2Proof/Machine/CorridorLine.lean ====
section
/-! DEFINITION. The Corridor Line Controller (08_the_corridor_line.md): the arbiter, exchanges and their outcomes, replies,
drops, the poll schedule; the meanings of its events. -/

namespace Sys2Proof.Machine

/-! ### Conditions that follow the state at the end of a handling (R10, R135, R156) -/

/-- A queued BEACON goes when the beacon condition does not hold (R10). -/
def dropBeacon (s : State) : State :=
  if beaconCondition s then s else withdraw (fun e => e.command == .beacon) s

/-- The poll due time of a position that is not poll-eligible is absent (R135). -/
def dropDue (s : State) : State :=
  { s with clc := { s.clc with due := Vector.ofFn (fun p => if pollEligible s p then s.clc.due.get p else none) } }

/-- The silence deadline comes with the silence condition and goes with it (R156). -/
def followSilence (s : State) : State :=
  let silence := if silenceCondition s then some (s.ih.silence.getD (later s.now 25)) else none
  { s with ih := { s.ih with silence := silence } }

/-! ### The line arbiter (R135, R140) -/

/-- The next due poll with the time since its due time: the earliest due time, the lowest position among equals (R135). -/
def nextDue (s : State) : Option (Pos × Nat) :=
  positions.foldl (fun best p =>
    match s.clc.due.get p with
    | none => best
    | some t =>
      match best with
      | none => some (p, elapsed s.now t)
      | some (q, age) => if elapsed s.now t > age then some (p, elapsed s.now t) else some (q, age)) none

/-- What the arbiter may choose. -/
inductive Choice where
  | entry (e : QueueEntry) (rest : List QueueEntry)
  | poll (p : Pos)
  | nothing
  deriving DecidableEq, Repr

/-- The next due poll, when it is overdue: more than 5 ds have passed since its due time (R135). -/
def overduePoll (s : State) : Option Pos :=
  match nextDue s with
  | some (p, age) => if age > 5 then some p else none
  | none => none

/-- The choice of the line arbiter (R140). -/
def choose (s : State) : Choice :=
  match s.clc.queue, overduePoll s with
  | e :: rest, some p => if e.rank ≥ classRank .beacon then .entry e rest else .poll p
  | e :: rest, none => .entry e rest
  | [], some p => .poll p
  | [], none =>
    match nextDue s with
    | some (p, _) => .poll p
    | none => .nothing

/-- The frame that carries a command. A BEACON takes its figures now (R10); a probe POLL carries the marker for none
(R141). -/
def commandFrame (s : State) : LineCommand → LineFrame
  | .probePoll => .poll none
  | .identify => .identify
  | .timingSet t => .timingSet t
  | .beacon => .beacon s.cyclePosition s.ctb.cycleLength (s.ps.activeSlot.elim 0 (fun i => i.val + 1))
  | .routeClear d hold => .routeClear d hold
  | .routeEnd => .routeEnd
  | .priorityAnswer a => .priorityAnswer a
  | .quiet => .quiet
  | .runLocal => .runLocal

/-- An exchange begins: COR-DE goes high and the frame is sent (R131). -/
def LineController.begin (clc : LineController) (x : Exchange) : LineController :=
  { clc with line := .exchange x, driverEnable := true, txLevel := .frame }

/-- Begin the exchange of a queue entry, which is marked on the line (R140). -/
def beginEntry (e : QueueEntry) (rest : List QueueEntry) (s : State) : State :=
  let x : Exchange :=
    { work := .command e.command e.route, position := e.position, address := e.address, frame := commandFrame s e.command,
      phase := .sending }
  let queue := { e with onLine := true, attempts := e.attempts + 1 } :: rest
  { s with clc := ({ s.clc with queue := queue } : LineController).begin x }

/-- Begin the exchange of a scheduled poll, whose due time goes; the frame carries the accepted-through sequence as it stands
(R134, R135). -/
def beginPoll (p : Pos) (s : State) : State :=
  let s := { s with clc := { s.clc with due := s.clc.due.set p.val none } }
  match s.config.get p with
  | none => s
  | some cfg =>
    let x : Exchange :=
      { work := .poll, position := some p, address := cfg.address, frame := .poll (s.clc.accepted.get p), phase := .sending }
    { s with clc := s.clc.begin x }

/-- The line arbiter runs, when the line is idle (R140). -/
def arbiterRun (s : State) : State :=
  if s.clc.line = .idle then
    match choose s with
    | .entry e rest => beginEntry e rest s
    | .poll p => beginPoll p s
    | .nothing => s
  else s

/-- What the end of every handling brings about at the line: the conditions are followed, then the arbiter runs
(notes/assumptions/4.md). -/
def settleLine (s : State) : State := arbiterRun (followSilence (dropDue (dropBeacon s)))

/-- The end of a handling that no request began: the line settles and the transmitter looks for work. -/
def finish (s : State) : State := transmitterRun (settleLine s)

/-! ### The end of an exchange (R131, R132, R139, R141) -/

/-- The line is idle and undriven. -/
def LineController.released (clc : LineController) : LineController :=
  { clc with line := .idle, driverEnable := false, txLevel := .mark }

/-- The entry on the line leaves the queue. -/
def takeOffLine (s : State) : State := s.withQueue (s.clc.queue.filter (fun e => !e.onLine))

/-- The originator is told of a drop (R141). -/
def dropped (p : Pos) (c : LineCommand) (route : Option RouteRef) (s : State) : State :=
  match c, route with
  | .identify, _ => identifyDropped p s
  | .quiet, _ => startQuiet p s
  | .routeClear .., some ref => clearFailed p ref s
  | .routeEnd, some ref => handBack p ref.origin s
  | _, _ => s

/-- The entry of a failed exchange stays for another attempt or is dropped; one that has been removed is neither (R139,
R141). -/
def afterFailure (p : Pos) (s : State) : State :=
  match onLineEntry s with
  | none => s
  | some e =>
    if e.attempts < e.command.attemptLimit then
      s.withQueue (s.clc.queue.map (fun x => { x with onLine := false }))
    else dropped p e.command e.route (takeOffLine s)

/-- The work of an exchange is a probe POLL whose entry still stands in the queue. -/
def standingProbe (x : Exchange) (s : State) : Bool :=
  (match x.work with
   | .command .probePoll _ => true
   | _ => false) && (onLineEntry s).isSome

/-- An exchange ends SILENT or GARBLED: the outcome goes to IH, then the entry is settled (R132, R141). -/
def endBad (x : Exchange) (s : State) : State :=
  let probe := standingProbe x s
  let s := { s with clc := s.clc.released }
  match x.position with
  | none => takeOffLine s
  | some p =>
    let s := takeOutcome p false s
    let s := if probe then probeOutcome p false s else s
    afterFailure p s

/-- An exchange ends GOOD: its entry leaves the queue and the outcome goes to IH; `contents` then handles the reply, told
whether the entry still stood in the queue (R132, R133 step 1, R141). That the entry leaves before the outcome is handed on is
the model's choice (notes/assumptions/39.md). -/
def endGood (x : Exchange) (p : Pos) (contents : Bool → State → State) (s : State) : State :=
  let stood := (onLineEntry s).isSome
  let probe := standingProbe x s
  let s := takeOutcome p true (takeOffLine { s with clc := s.clc.released })
  let s := if probe then probeOutcome p true s else s
  contents stood s

/-- The outcome of the exchange is settled GARBLED; the line must now fall quiet (R131). -/
def garbled (x : Exchange) (s : State) : State :=
  { s with clc := { s.clc with line := .exchange { x with phase := .quieting } } }

/-- The driver is released at the end of the frame, and the exchange goes on in another phase (R131). -/
def LineController.sent (clc : LineController) (x : Exchange) (phase : Phase) : LineController :=
  { clc with line := .exchange { x with phase := phase }, driverEnable := false, txLevel := .mark }

/-- The last stop bit of the frame has been sent: an addressed exchange has its response window, the entry of a BEACON leaves
the queue, and the break of a line reset that waited for the frame begins (R131, R141, R143). -/
def frameSent (x : Exchange) (s : State) : State :=
  match x.phase, x.position with
  | .sending, some _ => { s with clc := s.clc.sent x .window }
  | .sending, none => takeOffLine { s with clc := s.clc.sent x .trailing }
  | .abandoned, _ => { s with clc := s.clc.breaking s.now }
  | _, _ => s

/-- A BEACON exchange ends 2 ms after its frame, with no outcome. Where the end of the frame has not been told by an event of
its own, it is told now (R131, R141, notes/assumptions/26.md). -/
def broadcastEnd (x : Exchange) (s : State) : State :=
  match x.phase, x.position with
  | .sending, none => finish (takeOffLine { s with clc := s.clc.released })
  | .trailing, none => finish { s with clc := s.clc.released }
  | _, _ => s

/-! ### STATUS (R133, R134) -/

/-- The number of a record counted from the reference r (R134). -/
def sequenceStep (r : Nat) (x : EventRecord) : Nat := modC ((x.sequence : Int) - r) 256

/-- Place a new record in order; one with the sequence of a record already placed is discarded (R134). -/
def placeRecord (r : Nat) (x : EventRecord) : List EventRecord → List EventRecord
  | [] => [x]
  | y :: rest =>
    if sequenceStep r x < sequenceStep r y then x :: y :: rest
    else if sequenceStep r x = sequenceStep r y then y :: rest
    else y :: placeRecord r x rest

/-- The reference of R134: the accepted-through sequence, or the one before the first record's. -/
def reference (accepted : Option Nat) (records : List EventRecord) : Nat :=
  match accepted, records with
  | some n, _ => n
  | none, x :: _ => modC ((x.sequence : Int) - 1) 256
  | none, [] => 0

/-- The new records of a reply in the order they are handed on (R134). -/
def newRecords (accepted : Option Nat) (records : List EventRecord) : List EventRecord :=
  let r := reference accepted records
  (records.filter (fun x => inRange 1 127 (sequenceStep r x))).foldl (fun kept x => placeRecord r x kept) []

/-- One new record goes to the Event Router; the flag tells whether the position has been steered all along (R23). -/
def takeRecord (p : Pos) (acc : State × Bool) (x : EventRecord) : State × Bool :=
  let s := routeRecord p x acc.1
  (s, acc.2 && steered (s.coord p).state)

/-- Step 4 of R133: each new record goes to the Event Router, and the accepted-through sequence follows the last (R134). The
flag tells whether the position was steered before the records and after each of them (R23). -/
def takeRecords (p : Pos) (records : List EventRecord) (s : State) : State × Bool :=
  let new := newRecords (s.clc.accepted.get p) records
  let r := new.foldl (takeRecord p) (s, steered (s.coord p).state)
  match new.getLast? with
  | none => r
  | some x => ({ r.1 with clc := { r.1.clc with accepted := r.1.clc.accepted.set p.val (some x.sequence) } }, r.2)

/-- Replace the last status summary of a position (R133 step 2). -/
def setSummary (p : Pos) (figures : Option StatusFigures) (s : State) : State :=
  { s with clc := { s.clc with summaries := s.clc.summaries.set p.val (some { received := s.now, figures := figures }) } }

/-- What the summary keeps of a STATUS with a known signal stage. -/
def statusFigures (reply : StatusFields) (stage : SignalStage) : StatusFigures :=
  { stage := stage, fieldLocal := bit reply.flags 0, preempting := bit reply.flags 1, unitFault := bit reply.flags 2,
    planInUse := reply.planInUse, localLength := reply.localLength }

/-- Steps 3 to 6 of R133, for a scheduled poll of a position that is still poll-eligible (R133, R144). A reply that finds the
position out of the steered states, or takes it out of them, gives no measurement: where it ends a preemption the measured
offset stays absent until the next one (R21, R23). -/
def takeStatus (p : Pos) (reply : StatusFields) (s : State) : State :=
  let s := if bit reply.flags 0 then fieldLocalSet p s else fieldLocalClear p s
  let r := takeRecords p reply.records s
  let s := judgePreempting p (bit reply.flags 1) r.1
  if r.2 then measure p reply.localPosition reply.localLength s else s

/-- A STATUS that answers a POLL, after its outcome (R133). -/
def statusContents (p : Pos) (work : Work) (reply : StatusFields) (stage : SignalStage) (s : State) : State :=
  let s := setSummary p (some (statusFigures reply stage)) s
  if work = .poll ∧ pollEligible s p then takeStatus p reply s else s

/-! ### Answers to commands (R132) -/

/-- An ACK, or a HEARTBEAT in its place, goes to the originator (R35, R87, R90, R155). -/
def acked (p : Pos) (c : LineCommand) (route : Option RouteRef) (s : State) : State :=
  match c, route with
  | .timingSet t, _ => timingAcked p t s
  | .quiet, _ => startQuiet p s
  | .routeClear .., some ref => clearAcked p ref s
  | .routeEnd, some ref => handBack p ref.origin s
  | _, _ => s

/-- A NAK to a TIMING-SET (R36, R18, R92). -/
def timingNak (p : Pos) (t : TimingSet) (reason : NakReason) (s : State) : State :=
  match reason with
  | .preempting => callLearned p .nak s
  | .localControl => fieldLocalSet p s
  | r => timingRefused p r t s

/-- A NAK goes to the originator (R36, R87, R90, R155). -/
def naked (p : Pos) (c : LineCommand) (route : Option RouteRef) (reason : NakReason) (s : State) : State :=
  match c, route with
  | .timingSet t, _ => timingNak p t reason s
  | .quiet, _ => startQuiet p s
  | .routeClear .., some ref => clearFailed p ref s
  | .routeEnd, some ref => handBack p ref.origin s
  | _, _ => s

/-- A HEARTBEAT: a GOOD outcome with no contents for a POLL, an identification for an IDENTIFY whose entry stood, an ACK for
any other command (R132, R133, R151). -/
def heartbeatContents (p : Pos) (work : Work) (stood : Bool) (s : State) : State :=
  match work with
  | .poll => setSummary p none s
  | .command .probePoll _ => setSummary p none s
  | .command .identify _ => if stood then heartbeatIdentify p s else s
  | .command c route => acked p c route s

/-- An ACK to the command of an exchange (R132). -/
def ackContents (x : Exchange) (p : Pos) (s : State) : State :=
  match x.work with
  | .command c route => acked p c route s
  | .poll => s

/-- A NAK to the command of an exchange (R132). -/
def nakContents (reason : NakReason) (x : Exchange) (p : Pos) (s : State) : State :=
  match x.work with
  | .command c route => naked p c route reason s
  | .poll => s

/-! ### Replies (R131, R132) -/

/-- What the contents of a GOOD reply do, given the exchange, its position and whether its entry still stood in the queue. -/
abbrev Contents := Exchange → Pos → Bool → State → State

/-- The contents of a STATUS; a record count above 8 or a signal stage outside its set makes the reply GARBLED (R131). -/
def statusReply (reply : StatusFields) : Option Contents :=
  match stageOf reply.stage with
  | none => none
  | some stage =>
    if reply.records.length ≤ Config.recordLimit then some (fun x p _ s => statusContents p x.work reply stage s) else none

/-- The contents of an IDENTITY, for an IDENTIFY whose entry stood (R150, R151). -/
def identityContents (reply : IdentityFields) : Contents := fun _ p stood s => if stood then identityReply p reply s else s

/-- The contents of a NAK; a reason outside its set makes the reply GARBLED (R131). -/
def nakReply (reason : Nat) : Option Contents :=
  match nakReasonOf reason with
  | none => none
  | some r => some (fun x p _ s => nakContents r x p s)

/-- The kinds of reply. -/
inductive ReplyKind where
  | status
  | identity
  | heartbeat
  | ack
  | nak
  deriving DecidableEq, Repr

/-- The reply kinds a command expects (R132). -/
def expects : Work → ReplyKind → Bool
  | _, .heartbeat => true
  | .poll, .status => true
  | .poll, _ => false
  | .command .probePoll _, .status => true
  | .command .probePoll _, _ => false
  | .command .identify _, .identity => true
  | .command .identify _, _ => false
  | .command .beacon _, _ => false
  | .command _ _, .ack => true
  | .command _ _, .nak => true
  | .command _ _, _ => false

/-- A whole reply with a right check. It has no effect while no response window is open. Otherwise its address and kind, and
the codes it holds, settle the outcome: GOOD, or GARBLED when `contents` is absent (R131, R132). -/
def onReply (kind : ReplyKind) (address : Nat) (contents : Option Contents) (s : State) :
    State :=
  match s.clc.line with
  | .exchange x =>
    match x.phase, x.position with
    | .window, some p =>
      if address = x.address ∧ expects x.work kind then
        match contents with
        | some handle => finish (endGood x p (handle x p) s)
        | none => garbled x s
      else garbled x s
    | _, _ => s
  | _ => s

/-- An event of the exchange in progress; without one, nothing happens (notes/assumptions/1.md). -/
def onExchange (handle : Exchange → State → State) (s : State) : State :=
  match s.clc.line with
  | .exchange x => handle x s
  | _ => s

/-- An event of an exchange in a given phase; in another, nothing happens (notes/assumptions/1.md). -/
def inPhase (phase : Phase) (handle : Exchange → State → State) (s : State) : State :=
  onExchange (fun x s => if x.phase = phase then handle x s else s) s

/-! ### The poll round (R135) -/

/-- The round deadline expires: eligible positions become due, and the next round begins (R135). -/
def roundExpiry (s : State) : State :=
  { s with clc := { s.clc with
      due := Vector.ofFn (fun p =>
        if pollEligible s p then some ((s.clc.due.get p).getD s.now) else s.clc.due.get p),
      roundDeadline := later s.now s.clc.pollRound } }

/-! ### Meanings -/

/-- COMMAND_FRAME_SENT: the last stop bit of a frame has been sent (R131, R141, R143). -/
def execCommandFrameSent (s : State) : Result :=
  .next (onExchange frameSent s)

/-- BROADCAST_EXCHANGE_END: a BEACON exchange ends, with no outcome (R131). -/
def execBroadcastExchangeEnd (s : State) : Result :=
  .next (onExchange broadcastEnd s)

/-- RESPONSE_WINDOW_EXPIRY: no reply has begun; the exchange ends SILENT (R131). -/
def execResponseWindowExpiry (s : State) : Result := .next (inPhase .window (fun x s => finish (endBad x s)) s)

/-- REPLY_GARBLED: a byte of the reply shows a fault; whichever it is, the outcome is GARBLED (R131). -/
def execReplyGarbled (_fault : ReplyFault) (s : State) : Result := .next (inPhase .window garbled s)

/-- REPLY_BYTE_GAP_EXPIRY: more than 2 ms between two bytes of a reply; the outcome is GARBLED (R131). -/
def execReplyByteGapExpiry (s : State) : Result := .next (inPhase .window garbled s)

/-- LINE_QUIET_EXPIRY: after a GARBLED outcome the line has been quiet for 2 ms; the exchange ends (R131). -/
def execLineQuietExpiry (s : State) : Result := .next (inPhase .quieting (fun x s => finish (endBad x s)) s)

/-- STATUS (R131, R133). -/
def execStatus (address : Nat) (reply : StatusFields) (s : State) : Result :=
  .next (onReply .status address (statusReply reply) s)

/-- IDENTITY (R151). -/
def execIdentity (address : Nat) (reply : IdentityFields) (s : State) : Result :=
  .next (onReply .identity address (some (identityContents reply)) s)

/-- HEARTBEAT (R132). -/
def execHeartbeat (address : Nat) (s : State) : Result :=
  .next (onReply .heartbeat address (some (fun x p stood s => heartbeatContents p x.work stood s)) s)

/-- ACK (R132). -/
def execAck (address : Nat) (s : State) : Result :=
  .next (onReply .ack address (some (fun x p _ s => ackContents x p s)) s)

/-- NAK (R131, R132). -/
def execNak (address : Nat) (reason : Nat) (s : State) : Result := .next (onReply .nak address (nakReply reason) s)

end Sys2Proof.Machine
end

