-- ==== Sys2Proof/Machine/TimeBase.lean ====
section
/-! DEFINITION. The Corridor Time Base (01_corridor_time_and_the_common_cycle.md), the expiries of every deadline in ds, and
the decisecond itself; the meanings of the time requests and of the timed events. -/

namespace Sys2Proof.Machine

/-! ### The cycle mark (R7, R8, R9) -/

/-- The cycle mark is due: the time elapsed since the anchor equals C (R7). -/
def markDue (s : State) : Bool := elapsed s.now s.ctb.anchor == s.ctb.cycleLength

/-- The new length: the cycle length of the active plan image, or 900 with none (R8). -/
def Selector.newLength (ps : Selector) : Nat :=
  match ps.image with
  | none => Config.defaultCycle
  | some image => image.plan.header.cycleLength

/-- C takes the new length and the anchor the mark's running time (R7, R8). -/
def beginCycle (s : State) : State :=
  { s with ctb := { s.ctb with cycleLength := s.ps.newLength, anchor := s.now } }

/-- The beacon deadline is set one interval on, and a BEACON is claimed while the beacon condition holds (R9). -/
def beaconRound (s : State) : State :=
  let s := { s with ctb := { s.ctb with beaconDeadline := later s.now s.ctb.beaconInterval } }
  if beaconCondition s then claimBeacon s else s

/-- The once-per-cycle work of every block, in the order PS, CTB, OC, PT, PM, command points at 0, beacon
(notes/assumptions/3.md). -/
def cycleMark (s : State) : State :=
  let ended := s.ctb.cycleLength
  let r := selectAtMark s
  let s := beginCycle r.1
  let s := coordAtMark r.2 (s.ctb.cycleLength != ended) s
  let s := countDown (trackAtMark r.2 s)
  beaconRound (forPositions commandPointAtMark s)

/-! ### Expiries (R2) -/

/-- Handle an event when it is due now; otherwise nothing happens (notes/assumptions/1.md). -/
def whenDue (due : State → Bool) (handle : State → State) (s : State) : State := if due s then finish (handle s) else s

/-- A deadline that may be absent expires now. -/
def expires (deadline : Option Time) (s : State) : Bool := deadline == some s.now

/-- CYCLE-MARK, when due. -/
def markEvent (s : State) : State := whenDue markDue cycleMark s

/-- Expiry of the beacon deadline (R9). -/
def beaconEvent (s : State) : State := whenDue (fun s => s.ctb.beaconDeadline == s.now) beaconRound s

/-- The command point of a position (R31). -/
def commandPointEvent (p : Pos) (s : State) : State := whenDue (fun s => commandPointDue s p) (handleCommandPoint p) s

/-- The settle stamp of a position lapses (R24). -/
def settleEvent (p : Pos) (s : State) : State :=
  whenDue (fun s => expires ((s.coord p).settle.map Settle.lapses) s)
    (fun s => s.withCoord p (fun c => { c with settle := none })) s

/-- The window of a held platoon record closes (R57). -/
def windowEvent (n : Nat) (s : State) : State :=
  match closingLink s n with
  | none => s
  | some l => finish (losePlatoon l n s)

/-- The silence deadline of an approach record expires (R71). -/
def approachEvent (p : Pos) (a : Approach) (s : State) : State :=
  whenDue (fun s => approachSilent s p a) (expireSilence p a) s

/-- The route of an origin times out (R91). -/
def routeEvent (origin : Pos) (s : State) : State :=
  match s.pm.routeFrom origin with
  | none => s
  | some r => if r.deadline = s.now then finish (dropRoute r .timeout s) else s

/-- The retry deadline of a position expires (R150, R155). -/
def retryEvent (p : Pos) (s : State) : State := whenDue (fun s => expires (s.ident p).retry s) (offerAgain p) s

/-- The re-probe deadline of a position expires (R150). -/
def reprobeEvent (p : Pos) (s : State) : State := whenDue (fun s => expires (s.ident p).reprobe s) (beginIdentification p) s

/-- The probe deadline of a position expires (R154). -/
def probeEvent (p : Pos) (s : State) : State := whenDue (fun s => expires (s.health p).probeDeadline s) (offerProbe p) s

/-- The quiet timer of a position expires (R155). -/
def quietEvent (p : Pos) (s : State) : State := whenDue (fun s => expires (s.health p).quietTimer s) (endQuiet p) s

/-- The silence deadline of the line expires (R156). -/
def silenceEvent (s : State) : State := whenDue (fun s => expires s.ih.silence s) lineReset s

/-- The line break has lasted 5 ds (R143). -/
def breakEvent (s : State) : State :=
  match s.clc.line with
  | .lineBreak ends => if ends = s.now then finish (reportIfDrained { s with clc := s.clc.released }) else s
  | _ => s

/-- The round deadline expires (R135). -/
def roundEvent (s : State) : State := whenDue (fun s => s.clc.roundDeadline == s.now) roundExpiry s

/-- The queue is reported drained (R142). -/
def drainedEvent (s : State) : State := whenDue (fun s => s.clc.drainFlag && lineEmpty s) drained s

/-! ### Resets (R176, R114) -/

/-- The part after PART-RESET has acted: power-on values but for the latched rates, the slots and the commands waiting
(R176). -/
def partReset (s : State) : State := State.resetWith s.sli.supRate s.sli.corRate s.pl.slots s.pending

/-- The reset of a PART-RESET acts: its reply has been sent whole and no library write is in flight (R176). -/
def partResetDue (s : State) : Bool := s.sli.resetPending && s.sli.replySlot.isNone && !s.pl.writing

/-- The part after a power-on reset: the pins latched, a write in flight cut off (R114, R176). -/
def powerOn (supRate corRate : Bool) (s : State) : State :=
  State.resetWith supRate corRate s.pl.slotsAfterPowerOn s.pending

/-! ### The decisecond (R1, R2, R3) -/

/-- The platoon numbers whose window closes now, link by link, oldest first. -/
def closingNumbers (s : State) : List Nat :=
  links.flatMap (fun l => ((s.link l).queue.filter (fun x => x.windowClose == s.now)).map Platoon.number)

/-- Every event that is still due in the decisecond that ends is handled before the running time moves on, since a deadline
cannot be passed over (R2, notes/assumptions/2.md). -/
def catchUp (s : State) : State :=
  let s := beaconEvent (markEvent s)
  let s := forPositions settleEvent s
  let s := (closingNumbers s).foldl (fun s n => windowEvent n s) s
  let s := forPositions (fun p s => approachEvent p .side
    (approachEvent p .outboundArterial (approachEvent p .inboundArterial s))) s
  let s := forPositions retryEvent (forPositions routeEvent s)
  let s := forPositions quietEvent (forPositions probeEvent (forPositions reprobeEvent s))
  let s := roundEvent (breakEvent (silenceEvent s))
  drainedEvent (forPositions commandPointEvent s)

/-- The time of day one ds on: after 863,999 the next value is 0 (R3). -/
def nextTimeOfDay (t : Nat) : Nat := if t + 1 ≥ Config.dayLength then 0 else t + 1

/-- Running time and time of day stand one ds after those of `clock` (R1, R3). -/
def advanceClocks (clock : TimeBase) (s : State) : State :=
  { s with ctb := { s.ctb with runningTime := clock.runningTime + 1, timeOfDay := nextTimeOfDay clock.timeOfDay } }

/-- The decisecond that ends is completed, and the clocks advance. A PART-RESET still due in it acts first, and the clocks
advance from its 0 (R1, R3, R176). -/
def tick (s : State) : State :=
  if partResetDue s then advanceClocks TimeBase.reset (partReset s) else advanceClocks s.ctb (catchUp s)

/-! ### Requests (R4, R5, R11) -/

/-- SET-TIME (R4). -/
def setTime (t : Nat) (s : State) : State × Answer :=
  if t < Config.dayLength then ({ s with ctb := { s.ctb with timeOfDay := t } }, .done .none) else (s, .badValue 0 1)

/-- The figures of GET-TIME (R5). -/
def timeReport (s : State) : TimeReport :=
  { timeOfDay := s.ctb.timeOfDay, runningTime := s.now, cyclePosition := s.cyclePosition, cycleLength := s.ctb.cycleLength,
    anchor := s.ctb.anchor, activePlan := s.ps.activeSlot, beaconInterval := s.ctb.beaconInterval,
    beaconDeadline := s.ctb.beaconDeadline }

/-- GET-TIME (R5). -/
def getTime (s : State) : State × Answer := (s, .done (.time (timeReport s)))

/-- SET-BEACON (R11). -/
def setBeacon (interval : Nat) (s : State) : State × Answer :=
  if inRange 20 300 interval then
    ({ s with ctb := { s.ctb with beaconInterval := interval, beaconDeadline := later s.now interval } }, .done .none)
  else (s, .badValue 0 1)

/-! ### Meanings -/

/-- POWER_ON_RESET (R176). -/
def execPowerOnReset (supRate corRate : Bool) (s : State) : Result := .next (powerOn supRate corRate s)

/-- DECISECOND_TICK (R1). -/
def execDecisecondTick (s : State) : Result := .next (tick s)

/-- CYCLE_MARK (R7). -/
def execCycleMark (s : State) : Result := .next (markEvent s)

/-- BEACON_DEADLINE_EXPIRY (R9). -/
def execBeaconDeadlineExpiry (s : State) : Result := .next (beaconEvent s)

/-- COMMAND_POINT (R31). -/
def execCommandPoint (p : Pos) (s : State) : Result := .next (commandPointEvent p s)

/-- SETTLE_STAMP_EXPIRY (R24). -/
def execSettleStampExpiry (p : Pos) (s : State) : Result := .next (settleEvent p s)

/-- WINDOW_CLOSE_EXPIRY (R57). -/
def execWindowCloseExpiry (n : Nat) (s : State) : Result := .next (windowEvent n s)

/-- APPROACH_SILENCE_EXPIRY (R71). -/
def execApproachSilenceExpiry (p : Pos) (a : Approach) (s : State) : Result := .next (approachEvent p a s)

/-- ROUTE_TIMEOUT (R91). -/
def execRouteTimeout (origin : Pos) (s : State) : Result := .next (routeEvent origin s)

/-- RETRY_DEADLINE_EXPIRY (R150). -/
def execRetryDeadlineExpiry (p : Pos) (s : State) : Result := .next (retryEvent p s)

/-- REPROBE_DEADLINE_EXPIRY (R150). -/
def execReprobeDeadlineExpiry (p : Pos) (s : State) : Result := .next (reprobeEvent p s)

/-- PROBE_DEADLINE_EXPIRY (R154). -/
def execProbeDeadlineExpiry (p : Pos) (s : State) : Result := .next (probeEvent p s)

/-- QUIET_TIMER_EXPIRY (R155). -/
def execQuietTimerExpiry (p : Pos) (s : State) : Result := .next (quietEvent p s)

/-- LINE_SILENCE_EXPIRY (R156). -/
def execLineSilenceExpiry (s : State) : Result := .next (silenceEvent s)

/-- LINE_BREAK_END (R143). -/
def execLineBreakEnd (s : State) : Result := .next (breakEvent s)

/-- ROUND_DEADLINE_EXPIRY (R135). -/
def execRoundDeadlineExpiry (s : State) : Result := .next (roundEvent s)

/-- QUEUE_DRAINED (R142). -/
def execQueueDrained (s : State) : Result := .next (drainedEvent s)

/-- PART_RESET_ACTS (R176). -/
def execPartResetActs (s : State) : Result := .next (if partResetDue s then partReset s else s)

/-- SET_TIME (R4). -/
def execSetTime (b : Body Nat) (s : State) : Result := .next (onRequest .setTime b setTime s)

/-- GET_TIME (R5). -/
def execGetTime (b : Body Unit) (s : State) : Result := .next (onRequest .getTime b (fun _ => getTime) s)

/-- SET_BEACON (R11). -/
def execSetBeacon (b : Body Nat) (s : State) : Result := .next (onRequest .setBeacon b setBeacon s)

end Sys2Proof.Machine
end

