-- ==== Sys2Proof/Machine/SupervisoryLine.lean ====
section
/-! DEFINITION. The Supervisory Line Interface (11_the_supervisory_line.md): the receiver, frames it cannot take, part modes and
part-level requests; completions of the library; and the requests of the other blocks that no file before has given. -/

namespace Sys2Proof.Machine

/-! ### The receiver (R169) -/

/-- The lead byte of a supervisory frame. -/
def leadByte : Byte := 0xC3

/-- What a byte makes of the receiver: it goes on, it abandons the frame, or it completes a frame. -/
inductive Received where
  | going (r : Receiver)
  | abandoned
  | complete (kind : Byte) (body : List Byte) (check : List Byte)
  deriving DecidableEq, Repr

/-- The receiver takes one byte (R169). -/
def Receiver.take (r : Receiver) (b : Byte) : Received :=
  match r.state with
  | .hunt => .going (if b = leadByte then { Receiver.hunt with state := .length } else r)
  | .length =>
    if b.toNat ≤ Config.supervisoryBodyLimit then .going { r with state := .kind, length := b.toNat } else .abandoned
  | .kind => .going { r with state := if r.length = 0 then .check else .body, kind := b }
  | .body =>
    let body := r.body ++ [b]
    .going { r with body := body, state := if body.length ≥ r.length then .check else .body }
  | .check =>
    if r.check.isEmpty then .going { r with check := [b] } else .complete r.kind r.body (r.check ++ [b])

/-- The receiver after bytes of which none completes a frame; a frame abandoned on the way leaves it in HUNT. -/
def Receiver.takeAll : Receiver → List Byte → Receiver
  | r, [] => r
  | r, b :: rest =>
    match r.take b with
    | .going r' => r'.takeAll rest
    | .abandoned => Receiver.hunt.takeAll rest
    | .complete .. => Receiver.hunt.takeAll rest

/-- Replace the receiver. -/
def State.withReceiver (s : State) (r : Receiver) : State := { s with sli := { s.sli with receiver := r } }

/-- More than 50 ms between two bytes: the partial frame in the receiver is discarded; one in HUNT has none (R169). -/
def receiverGap (r : Receiver) : Receiver := if r.state = .hunt then r else Receiver.hunt

/-- A length byte above 250 in state LENGTH abandons the frame (R169). -/
def receiverAbandon (r : Receiver) : Receiver := if r.state = .length then Receiver.hunt else r

/-! ### Completions of the library (R112, R113, R127) -/

/-- A commit completes (R112). -/
def commitDone (s : State) : State :=
  match s.pl.write with
  | .committing slot plan =>
    let s := finishWrite slot (.valid plan) s
    let s := raiseNotice (.commitDone slot plan.header (entryPositions plan.entries)) s
    { s with ps := s.ps.commitDone slot }
  | _ => s

/-- An erase completes; it changes no PS state (R113, R127). -/
def eraseDone (s : State) : State :=
  match s.pl.write with
  | .erasing slot => raiseNotice (.eraseDone slot) (finishWrite slot .empty s)
  | _ => s

/-! ### The transmitter (R170, R171) -/

/-- The frame being sent has been sent whole: a reply empties the reply slot, a short answer leaves its queue (R170). -/
def Supervisory.sent (sli : Supervisory) : Supervisory :=
  match sli.sending with
  | none => sli
  | some (.reply _) => { sli with sending := none, replySlot := none }
  | some (.shortAnswer _) => { sli with sending := none, shortAnswers := sli.shortAnswers.tail }
  | some (.notice _) => { sli with sending := none }

/-! ### Part modes and part-level requests (R173 to R178) -/

/-- Some position is configured. -/
def anyConfigured (s : State) : Bool := positions.any (fun p => (s.config.get p).isSome)

/-- GO-LIVE taken: the mode, the poll round with its deadline, the due times of R135, and the roll call (R174). -/
def goLiveNow (pollRound : Nat) (s : State) : State :=
  let s := { s with sli := { s.sli with mode := .live } }
  let s := { s with clc := { s.clc with
      pollRound := pollRound, roundDeadline := later s.now pollRound,
      due := Vector.ofFn (fun p => if pollEligible s p then some s.now else s.clc.due.get p) } }
  settleLine (rollCall s)

/-- GO-LIVE (R174). -/
def goLive (pollRound : Nat) (s : State) : State × Answer :=
  if s.isLive then (s, .wrongMode)
  else if s.sli.draining then (s, .busy)
  else if ¬ anyConfigured s then (s, .wrongMode)
  else if ¬ inRange 5 20 pollRound then (s, .badValue 0 1)
  else (goLiveNow pollRound s, .done .none)

/-- GO-SETUP taken: CLC sets its drain flag as the mode changes, then every block acts (R142, R175). -/
def goSetupNow (s : State) : State :=
  let s := { s with sli := { s.sli with mode := .setup, draining := true }, clc := { s.clc with drainFlag := true } }
  let s := { s with ps := s.ps.toSetup }
  let s := forPositions coordSetupAt s
  let s := clearWatch (flushPool (releasePriority s))
  let s := withdraw (fun e => e.command.isRouteClear) (identifySetup s)
  settleLine (reportIfDrained (dropBeacon s))

/-- GO-SETUP (R175). -/
def goSetup (s : State) : State × Answer := inMode .live (fun s => (goSetupNow s, .done .none)) s

/-- PART-RESET (R176). -/
def partResetRequest (s : State) : State × Answer :=
  ({ s with sli := { s.sli with resetPending := true } }, .done .none)

/-- COORD-RESTART taken (R177, R41, R60, R80, R101, R129). -/
def coordRestartNow (s : State) : State :=
  let s := forPositions coordRestartAt s
  let s := flushPool s
  let s := { s with pt := { s.pt with errorBase := none } }
  let s := priorityRestart (clearWatch s)
  settleLine { s with ps := s.ps.restart }

/-- COORD-RESTART (R177). -/
def coordRestart (s : State) : State × Answer := inMode .live (fun s => (coordRestartNow s, .done .none)) s

/-- What GET-PART-STATUS gives of a position (R178). -/
def standingOf (s : State) (p : Pos) : PositionStanding :=
  { configured := (s.config.get p).isSome, identification := (s.ident p).state, health := (s.health p).state,
    coordination := (s.coord p).state }

/-- The figures of GET-PART-STATUS (R178). -/
def partReport (s : State) : PartReport :=
  { mode := s.sli.mode, draining := s.sli.draining, supRate := s.sli.supRate, corRate := s.sli.corRate,
    runningTime := s.now, timeOfDay := s.ctb.timeOfDay, activeSlot := s.ps.activeSlot, selector := s.ps.mode,
    write := s.pl.write, stagingOpen := s.pl.staging.isSome, line := lineCondition s.clc.line,
    queued := s.clc.queue.length, positions := positions.map (standingOf s), lineResets := s.ih.lineResets,
    notices := s.sli.notices.length, overrun := s.sli.overrun, unanswered := s.sli.unanswered,
    enabled := s.sli.enabled }

/-- GET-PART-STATUS (R178). -/
def getPartStatus (s : State) : State × Answer := (s, .done (.part (partReport s)))

/-- SET-NOTICE-MASK (R173). -/
def setNoticeMask (field : Nat) (s : State) : State × Answer :=
  match enableSetOf field with
  | none => (s, .badValue 0 1)
  | some kinds => ({ s with sli := { s.sli with enabled := kinds } }, .done .none)

/-! ### Positions (R146, R147, R148, R154, R155) -/

/-- Another configured position satisfies `same`. -/
def otherConfigured (s : State) (p : Pos) (same : PositionConfig → Bool) : Bool :=
  positions.any (fun q => q != p && (match s.config.get q with
    | none => false
    | some cfg => same cfg))

/-- The first failing field of SET-POSITION by range, fields 1 to 6 (R146 step 3). -/
def positionFault (x : PositionFields) : Option Nat :=
  firstBad [(1, (posOf x.position).isSome), (2, inRange 1 30 x.address), (3, inRange 1 65535 x.site),
            (4, inRange 1 15 x.permittedModes), (5, (recoveryOf x.recovery).isSome), (6, x.routeLength ≤ 3)]

/-- Steps 3 and 4 of R146: the field that fails, or the position with its configuration. -/
def readPosition (x : PositionFields) (s : State) : Nat ⊕ (Pos × PositionConfig) :=
  match positionFault x, posOf x.position, recoveryOf x.recovery with
  | none, some p, some recovery =>
    if otherConfigured s p (fun cfg => cfg.address == x.address) then .inl 2
    else if otherConfigured s p (fun cfg => cfg.site == x.site) then .inl 3
    else
      .inr (p, { address := x.address, site := x.site, permittedModes := x.permittedModes, recovery := recovery,
                 routeLength := x.routeLength })
  | some field, _, _ => .inl field
  | none, _, _ => .inl 1

/-- Replace the configuration of a position. -/
def State.withConfig (s : State) (p : Pos) (cfg : Option PositionConfig) : State :=
  { s with config := s.config.set p.val cfg }

/-- SET-POSITION (R146). -/
def setPosition (x : PositionFields) : State → State × Answer :=
  inMode .setup (fun s =>
    if s.clc.drainFlag then (s, .busy)
    else
      match readPosition x s with
      | .inl field => (s, .badValue 0 field)
      | .inr (p, cfg) => (s.withConfig p (some cfg), .done .none))

/-- Identification and health fields of a position at their values after power-on reset (R147). -/
def clearIdent (p : Pos) (s : State) : State :=
  { s with ih := { s.ih with ident := s.ih.ident.set p.val Ident.reset, wasAbsent := s.ih.wasAbsent.set p.val false,
                             health := s.ih.health.set p.val Health.reset } }

/-- CLEAR-POSITION (R147). -/
def clearPosition (position : Nat) : State → State × Answer :=
  inMode .setup (fun s =>
    if s.clc.drainFlag then (s, .busy)
    else
      match posOf position with
      | none => (s, .badValue 0 1)
      | some p =>
        if (s.config.get p).isNone then (s, .noSuch) else (clearIdent p (s.withConfig p none), .done .none))

/-- The figures of GET-POSITION (R148). -/
def positionReport (s : State) (p : Pos) : PositionReport :=
  { config := s.config.get p, ident := s.ident p, health := s.health p, coord := s.coord p, limits := s.oc.limits,
    accepted := s.clc.accepted.get p, summary := s.clc.summaries.get p }

/-- GET-POSITION (R148). -/
def getPosition (position : Nat) (s : State) : State × Answer :=
  match posOf position with
  | none => (s, .badValue 0 1)
  | some p => (s, .done (.position (positionReport s p)))

/-- RE-IDENTIFY taken: probes stop, and the QUIET is offered (R155). -/
def reIdentifyNow (p : Pos) (s : State) : State :=
  let s := s.withIdent p (fun i => { i with byRequest := true, reprobe := none })
  let s := s.withHealth p (fun h => { h with probeDeadline := none, probes := 0, stage := .quieting })
  settleLine (offerQuiet p s)

/-- RE-IDENTIFY (R155). -/
def reIdentify (position : Nat) : State → State × Answer :=
  inMode .live (fun s =>
    match posOf position with
    | none => (s, .badValue 0 1)
    | some p =>
      if (s.config.get p).isNone then (s, .noSuch)
      else if (s.ident p).state = .probing ∨ (s.health p).stage ≠ .none then (s, .inProgress)
      else (reIdentifyNow p s, .accepted))

/-- REJOIN (R154, R37). -/
def rejoin (position : Nat) : State → State × Answer :=
  inMode .live (fun s =>
    match posOf position with
    | none => (s, .badValue 0 1)
    | some p =>
      let h := s.health p
      if (s.config.get p).isNone then (s, .noSuch)
      else if h.state ≠ .cutOff then (clearRefusing p s, .done .none)
      else if h.probeDeadline.isSome ∨ h.stage ≠ .none then (s, .inProgress)
      else
        (clearRefusing p (s.withHealth p (fun h => { h with probeDeadline := some (later s.now 50) })), .accepted))

/-! ### Links (R44, R45, R46, R64) -/

/-- Segment and direction, the first two fields of SET-LINK: the field that fails, or the link (R44, R45, R64). -/
def readLink (segment direction : Nat) : Nat ⊕ Link :=
  match segmentOf segment, directionOf direction with
  | none, _ => .inl 1
  | some _, none => .inl 2
  | some k, some d => .inr { segment := k, direction := d }

/-- The first failing field 3 to 6 of SET-LINK (R44). -/
def linkFault (x : LinkFields) : Option Nat :=
  firstBad [(3, inRange 50 5000 x.distance), (4, inRange 20 90 x.speed), (5, x.lead ≤ 200), (6, inRange 1 8 x.depth)]

/-- The link record as SET-LINK writes it (R44). -/
def LinkRecord.written (r : LinkRecord) (x : LinkFields) : LinkRecord :=
  let r := { r with distance := x.distance, speed := x.speed, lead := x.lead, depth := x.depth, lost := 0, tracked := true }
  { r with estimate := designTravel r }

/-- The oldest records above the depth limit are removed as DISPLACED (R44, R49). -/
def trimQueue (l : Link) (s : State) : State :=
  let r := s.link l
  freeRecords (r.queue.length - r.depth)
    (s.withLink l (fun r => { r with queue := r.queue.drop (r.queue.length - r.depth) }))

/-- SET-LINK (R44). -/
def setLink (x : LinkFields) (s : State) : State × Answer :=
  match readLink x.segment x.direction with
  | .inl field => (s, .badValue 0 field)
  | .inr l =>
    match linkFault x with
    | some field => (s, .badValue 0 field)
    | none =>
      let wasTracked := (s.link l).tracked
      let s := s.withLink l (fun r => r.written x)
      let s := if wasTracked then s else noteTracking l s
      (trimQueue l s, .done .none)

/-- GET-LINK (R45). -/
def getLink (x : LinkName) (s : State) : State × Answer :=
  match readLink x.segment x.direction with
  | .inl field => (s, .badValue 0 field)
  | .inr l => (s, .done (.link { s.link l with queue := [] } (designTravel (s.link l)) (s.link l).queue.length))

/-- GET-PLATOONS (R64). -/
def getPlatoons (x : LinkName) (s : State) : State × Answer :=
  match readLink x.segment x.direction with
  | .inl field => (s, .badValue 0 field)
  | .inr l => (s, .done (.platoons s.pt.freeCount s.pt.poolEmptyRaised (s.link l).queue))

/-- The first failing field of SET-SLACK (R46). -/
def slackFault (x : SlackFields) : Option Nat :=
  firstBad [(1, x.early ≤ 200), (2, x.late ≤ 200), (3, inRange 1 50 x.minimumSize)]

/-- SET-SLACK (R46). -/
def setSlack (x : SlackFields) (s : State) : State × Answer :=
  match slackFault x with
  | some field => (s, .badValue 0 field)
  | none =>
    ({ s with pt := { s.pt with earlySlack := x.early, lateSlack := x.late, minimumSize := x.minimumSize } }, .done .none)

/-! ### Transition limits (R34) -/

/-- The first failing field of SET-TRANSITION-LIMITS (R34). -/
def limitFault (x : LimitFields) : Option Nat :=
  firstBad [(1, inRange 1 30 x.lengthen), (2, inRange 1 30 x.shorten), (3, x.tolerance ≤ 100), (4, x.trimLimit ≤ 200),
            (5, x.sideLow ≤ 100), (6, inRange 1 100 x.sideRange)]

/-- The limits that the fields of a SET-TRANSITION-LIMITS hold. -/
def limitsOf (x : LimitFields) : TransitionLimits :=
  { lengthen := x.lengthen, shorten := x.shorten, tolerance := x.tolerance, trimLimit := x.trimLimit,
    sideLow := x.sideLow, sideRange := x.sideRange }

/-- Clamp the trim of a position into the range of the trim limit (R34). -/
def clampTrim (p : Pos) (s : State) : State :=
  withTrim p (clampInt (-(s.oc.limits.trimLimit : Int)) s.oc.limits.trimLimit (s.coord p).trim) s

/-- SET-TRANSITION-LIMITS (R34). -/
def setTransitionLimits (x : LimitFields) (s : State) : State × Answer :=
  match limitFault x with
  | some field => (s, .badValue 0 field)
  | none => (forPositions clampTrim { s with oc := { s.oc with limits := limitsOf x } }, .done .none)

/-! ### Queue limits and GET-QUEUE (R73, R76) -/

/-- The first failing field of SET-QUEUE-LIMITS (R73). -/
def queueLimitFault (x : QueueLimitFields) : Option Nat :=
  firstBad [(1, x.approachClass ≤ 1), (2, x.exponent ≤ 4), (3, x.buildingOn ≤ 100),
            (4, inRange x.buildingOn 100 x.blockedOn), (5, x.hysteresis ≤ x.buildingOn)]

/-- SET-QUEUE-LIMITS; the class is coded ARTERIAL 0, SIDE 1 (R73). -/
def setQueueLimits (x : QueueLimitFields) (s : State) : State × Answer :=
  match queueLimitFault x with
  | some field => (s, .badValue 0 field)
  | none =>
    let limits : QueueLimits :=
      { exponent := x.exponent, buildingOn := x.buildingOn, blockedOn := x.blockedOn, hysteresis := x.hysteresis }
    (if x.approachClass = 0 then { s with qw := { s.qw with arterialLimits := limits } }
     else { s with qw := { s.qw with sideLimits := limits } }, .done .none)

/-- The figures of GET-QUEUE (R76). -/
def queueReport (s : State) (p : Pos) : QueueReport :=
  { approaches := s.qw.approaches.get p, overlays := s.qw.overlays p, gridlock := s.qw.gridlock.get p,
    arterialLimits := s.qw.arterialLimits, sideLimits := s.qw.sideLimits }

/-- The latched worst state of a record becomes its present state (R76). -/
def ApproachRecord.relatched (r : ApproachRecord) : ApproachRecord := { r with worst := r.state }

/-- The latched worst states of a position are set to the present states (R76). -/
def relatch (p : Pos) (s : State) : State :=
  { s with qw := { s.qw with approaches := update s.qw.approaches p (fun x =>
      { inbound := x.inbound.relatched, outbound := x.outbound.relatched, side := x.side.relatched }) } }

/-- GET-QUEUE (R76). -/
def getQueue (position : Nat) (s : State) : State × Answer :=
  match posOf position with
  | none => (s, .badValue 0 1)
  | some p => (relatch p s, .done (.queue (queueReport s p)))

/-! ### Priority requests (R91, R99, R100) -/

/-- The first failing field of SET-PRIORITY-POLICY (R99). -/
def policyFault (x : PolicyFields) : Option Nat :=
  firstBad [(1, inRange 300 3000 x.routeTimeout), (2, x.extensionMax ≤ 200), (3, inRange 1 15 x.recovery)]

/-- SET-PRIORITY-POLICY (R99). -/
def setPriorityPolicy (x : PolicyFields) (s : State) : State × Answer :=
  match policyFault x with
  | some field => (s, .badValue 0 field)
  | none =>
    ({ s with pm := { s.pm with policy :=
        { routeTimeout := x.routeTimeout, extensionMax := x.extensionMax, recovery := x.recovery } } }, .done .none)

/-- The figures of GET-PREEMPTION, the routes in order of origin (R100). -/
def preemptionReport (s : State) : PreemptionReport :=
  { policy := s.pm.policy,
    positions := positions.map (fun p => (s.owner p, s.pm.releasePending p, s.budget p)),
    routes := positions.filterMap (fun p => s.pm.routeFrom p) }

/-- GET-PREEMPTION (R100). -/
def getPreemption (s : State) : State × Answer := (s, .done (.preemption (preemptionReport s)))

/-- CANCEL-ROUTE (R91). -/
def cancelRoute (origin : Nat) (s : State) : State × Answer :=
  match posOf origin with
  | none => (s, .badValue 0 1)
  | some p =>
    match s.pm.routeFrom p with
    | none => (s, .noSuch)
    | some r => (settleLine (dropRoute r .cancelled s), .done .none)

/-! ### Meanings: events of the line, the library and the transmitter -/

/-- COMMIT_COMPLETE (R112). -/
def execCommitComplete (s : State) : Result := .next (transmitterRun (commitDone s))

/-- ERASE_COMPLETE (R113). -/
def execEraseComplete (s : State) : Result := .next (transmitterRun (eraseDone s))

/-- SUP_RX_GAP_EXPIRY: the bytes received since the last command, then a gap of more than 50 ms (R169). -/
def execSupRxGapExpiry (received : List Byte) (s : State) : Result :=
  .next (s.withReceiver (receiverGap (s.sli.receiver.takeAll received)))

/-- SUP_RX_FRAME_ABANDONED: the bytes received since the last command, then a length byte above 250 (R169). -/
def execSupRxFrameAbandoned (received : List Byte) (s : State) : Result :=
  .next (s.withReceiver (receiverAbandon (s.sli.receiver.takeAll received)))

/-- FRAME_ERROR (R169, R170). -/
def execFrameError (s : State) : Result := .next (onFrame .frameError (placeReply .frameError) s)

/-- UNKNOWN_KIND (R169, R170). -/
def execUnknownKind (kind : Nat) (s : State) : Result :=
  .next (onFrame (.busyUnknown kind) (placeReply (.unknownKind kind)) s)

/-- TRANSMIT_FRAME_DONE (R171). -/
def execTransmitFrameDone (s : State) : Result := .next (transmitterRun { s with sli := s.sli.sent })

/-! ### Meanings: requests -/

/-- GO_LIVE (R174). -/
def execGoLive (b : Body Nat) (s : State) : Result := .next (onRequest .goLive b goLive s)

/-- GO_SETUP (R175). -/
def execGoSetup (b : Body Unit) (s : State) : Result := .next (onRequest .goSetup b (fun _ => goSetup) s)

/-- PART_RESET (R176). -/
def execPartReset (b : Body Unit) (s : State) : Result := .next (onRequest .partReset b (fun _ => partResetRequest) s)

/-- COORD_RESTART (R177). -/
def execCoordRestart (b : Body Unit) (s : State) : Result := .next (onRequest .coordRestart b (fun _ => coordRestart) s)

/-- GET_PART_STATUS (R178). -/
def execGetPartStatus (b : Body Unit) (s : State) : Result := .next (onRequest .getPartStatus b (fun _ => getPartStatus) s)

/-- SET_NOTICE_MASK (R173). -/
def execSetNoticeMask (b : Body Nat) (s : State) : Result := .next (onRequest .setNoticeMask b setNoticeMask s)

/-- SET_POSITION (R146). -/
def execSetPosition (b : Body PositionFields) (s : State) : Result := .next (onRequest .setPosition b setPosition s)

/-- CLEAR_POSITION (R147). -/
def execClearPosition (b : Body Nat) (s : State) : Result := .next (onRequest .clearPosition b clearPosition s)

/-- GET_POSITION (R148). -/
def execGetPosition (b : Body Nat) (s : State) : Result := .next (onRequest .getPosition b getPosition s)

/-- RE_IDENTIFY (R155). -/
def execReIdentify (b : Body Nat) (s : State) : Result := .next (onRequest .reIdentify b reIdentify s)

/-- REJOIN (R154). -/
def execRejoin (b : Body Nat) (s : State) : Result := .next (onRequest .rejoin b rejoin s)

/-- SET_LINK (R44). -/
def execSetLink (b : Body LinkFields) (s : State) : Result := .next (onRequest .setLink b setLink s)

/-- GET_LINK (R45). -/
def execGetLink (b : Body LinkName) (s : State) : Result := .next (onRequest .getLink b getLink s)

/-- GET_PLATOONS (R64). -/
def execGetPlatoons (b : Body LinkName) (s : State) : Result := .next (onRequest .getPlatoons b getPlatoons s)

/-- SET_SLACK (R46). -/
def execSetSlack (b : Body SlackFields) (s : State) : Result := .next (onRequest .setSlack b setSlack s)

/-- SET_TRANSITION_LIMITS (R34). -/
def execSetTransitionLimits (b : Body LimitFields) (s : State) : Result :=
  .next (onRequest .setTransitionLimits b setTransitionLimits s)

/-- SET_QUEUE_LIMITS (R73). -/
def execSetQueueLimits (b : Body QueueLimitFields) (s : State) : Result :=
  .next (onRequest .setQueueLimits b setQueueLimits s)

/-- GET_QUEUE (R76). -/
def execGetQueue (b : Body Nat) (s : State) : Result := .next (onRequest .getQueue b getQueue s)

/-- SET_PRIORITY_POLICY (R99). -/
def execSetPriorityPolicy (b : Body PolicyFields) (s : State) : Result :=
  .next (onRequest .setPriorityPolicy b setPriorityPolicy s)

/-- GET_PREEMPTION (R100). -/
def execGetPreemption (b : Body Unit) (s : State) : Result := .next (onRequest .getPreemption b (fun _ => getPreemption) s)

/-- CANCEL_ROUTE (R91). -/
def execCancelRoute (b : Body Nat) (s : State) : Result := .next (onRequest .cancelRoute b cancelRoute s)

end Sys2Proof.Machine
end

