-- ==== Sys2Proof/Machine/Dispatch.lean ====
section
/-! DEFINITION. The meaning of every command: one arm per row of spec/opcode_table.json. -/

namespace Sys2Proof.Machine

/-- The effect of a command on everything but the queue of waiting commands. -/
def exec (i : Instr) (s : State) : Host.Outcome State Fault Refusal :=
  match i with
  | .powerOnReset supRate corRate => Sys2Proof.Machine.execPowerOnReset supRate corRate s
  | .decisecondTick => Sys2Proof.Machine.execDecisecondTick s
  | .cycleMark => Sys2Proof.Machine.execCycleMark s
  | .beaconDeadlineExpiry => Sys2Proof.Machine.execBeaconDeadlineExpiry s
  | .commandPoint position => Sys2Proof.Machine.execCommandPoint position s
  | .settleStampExpiry position => Sys2Proof.Machine.execSettleStampExpiry position s
  | .windowCloseExpiry platoon => Sys2Proof.Machine.execWindowCloseExpiry platoon s
  | .approachSilenceExpiry position approach => Sys2Proof.Machine.execApproachSilenceExpiry position approach s
  | .routeTimeout origin => Sys2Proof.Machine.execRouteTimeout origin s
  | .retryDeadlineExpiry position => Sys2Proof.Machine.execRetryDeadlineExpiry position s
  | .reprobeDeadlineExpiry position => Sys2Proof.Machine.execReprobeDeadlineExpiry position s
  | .probeDeadlineExpiry position => Sys2Proof.Machine.execProbeDeadlineExpiry position s
  | .quietTimerExpiry position => Sys2Proof.Machine.execQuietTimerExpiry position s
  | .lineSilenceExpiry => Sys2Proof.Machine.execLineSilenceExpiry s
  | .lineBreakEnd => Sys2Proof.Machine.execLineBreakEnd s
  | .roundDeadlineExpiry => Sys2Proof.Machine.execRoundDeadlineExpiry s
  | .commandFrameSent => Sys2Proof.Machine.execCommandFrameSent s
  | .broadcastExchangeEnd => Sys2Proof.Machine.execBroadcastExchangeEnd s
  | .responseWindowExpiry => Sys2Proof.Machine.execResponseWindowExpiry s
  | .replyGarbled fault => Sys2Proof.Machine.execReplyGarbled fault s
  | .replyByteGapExpiry => Sys2Proof.Machine.execReplyByteGapExpiry s
  | .lineQuietExpiry => Sys2Proof.Machine.execLineQuietExpiry s
  | .status address reply => Sys2Proof.Machine.execStatus address reply s
  | .identity address reply => Sys2Proof.Machine.execIdentity address reply s
  | .heartbeat address => Sys2Proof.Machine.execHeartbeat address s
  | .ack address => Sys2Proof.Machine.execAck address s
  | .nak address reason => Sys2Proof.Machine.execNak address reason s
  | .queueDrained => Sys2Proof.Machine.execQueueDrained s
  | .commitComplete => Sys2Proof.Machine.execCommitComplete s
  | .eraseComplete => Sys2Proof.Machine.execEraseComplete s
  | .supRxGapExpiry received => Sys2Proof.Machine.execSupRxGapExpiry received s
  | .frameError => Sys2Proof.Machine.execFrameError s
  | .unknownKind kind => Sys2Proof.Machine.execUnknownKind kind s
  | .transmitFrameDone => Sys2Proof.Machine.execTransmitFrameDone s
  | .partResetActs => Sys2Proof.Machine.execPartResetActs s
  | .goLive body => Sys2Proof.Machine.execGoLive body s
  | .goSetup body => Sys2Proof.Machine.execGoSetup body s
  | .partReset body => Sys2Proof.Machine.execPartReset body s
  | .coordRestart body => Sys2Proof.Machine.execCoordRestart body s
  | .getPartStatus body => Sys2Proof.Machine.execGetPartStatus body s
  | .setNoticeMask body => Sys2Proof.Machine.execSetNoticeMask body s
  | .setTime body => Sys2Proof.Machine.execSetTime body s
  | .getTime body => Sys2Proof.Machine.execGetTime body s
  | .setBeacon body => Sys2Proof.Machine.execSetBeacon body s
  | .setPosition body => Sys2Proof.Machine.execSetPosition body s
  | .clearPosition body => Sys2Proof.Machine.execClearPosition body s
  | .getPosition body => Sys2Proof.Machine.execGetPosition body s
  | .reIdentify body => Sys2Proof.Machine.execReIdentify body s
  | .rejoin body => Sys2Proof.Machine.execRejoin body s
  | .setLink body => Sys2Proof.Machine.execSetLink body s
  | .getLink body => Sys2Proof.Machine.execGetLink body s
  | .getPlatoons body => Sys2Proof.Machine.execGetPlatoons body s
  | .setSlack body => Sys2Proof.Machine.execSetSlack body s
  | .setTransitionLimits body => Sys2Proof.Machine.execSetTransitionLimits body s
  | .setRule body => Sys2Proof.Machine.execSetRule body s
  | .clearRule body => Sys2Proof.Machine.execClearRule body s
  | .getRuleRead body => Sys2Proof.Machine.execGetRuleRead body s
  | .getRuleReadAndZero body => Sys2Proof.Machine.execGetRuleReadAndZero body s
  | .stageOpenBlank body => Sys2Proof.Machine.execStageOpenBlank body s
  | .stageOpenCopy body => Sys2Proof.Machine.execStageOpenCopy body s
  | .stageHeader body => Sys2Proof.Machine.execStageHeader body s
  | .stageSeek body => Sys2Proof.Machine.execStageSeek body s
  | .stageEntryWrite body => Sys2Proof.Machine.execStageEntryWrite body s
  | .stageEntryClear body => Sys2Proof.Machine.execStageEntryClear body s
  | .stageRead body => Sys2Proof.Machine.execStageRead body s
  | .stageDiscard body => Sys2Proof.Machine.execStageDiscard body s
  | .commitPlan body => Sys2Proof.Machine.execCommitPlan body s
  | .erasePlan body => Sys2Proof.Machine.execErasePlan body s
  | .getSlot body => Sys2Proof.Machine.execGetSlot body s
  | .setSelectModeFree body => Sys2Proof.Machine.execSetSelectModeFree body s
  | .setSelectModePinned body => Sys2Proof.Machine.execSetSelectModePinned body s
  | .setSelectModeResponsive body => Sys2Proof.Machine.execSetSelectModeResponsive body s
  | .setSelectEntryWrite body => Sys2Proof.Machine.execSetSelectEntryWrite body s
  | .setSelectEntryClear body => Sys2Proof.Machine.execSetSelectEntryClear body s
  | .getSelection body => Sys2Proof.Machine.execGetSelection body s
  | .setQueueLimits body => Sys2Proof.Machine.execSetQueueLimits body s
  | .getQueue body => Sys2Proof.Machine.execGetQueue body s
  | .setPriorityPolicy body => Sys2Proof.Machine.execSetPriorityPolicy body s
  | .getPreemption body => Sys2Proof.Machine.execGetPreemption body s
  | .cancelRoute body => Sys2Proof.Machine.execCancelRoute body s
  | .supRxFrameAbandoned received => Sys2Proof.Machine.execSupRxFrameAbandoned received s

end Sys2Proof.Machine
end

