-- ==== Sys2Proof/Machine/Frames.lean ====
section
/-! DEFINITION. What the frames of both lines share (11_the_supervisory_line.md 11.6): the check, multi-byte fields, and
bodies as lists of fields. -/

namespace Sys2Proof.Machine

/-! ### The check -/

/-- One bit of the CRC: shift left, and take in the polynomial 0x1021 when a one falls out. -/
def crcBit (crc : BitVec 16) : BitVec 16 := if crc.msb then (crc <<< 1) ^^^ 0x1021 else crc <<< 1

/-- One byte of the CRC, most significant bit first. -/
def crcByte (crc : BitVec 16) (b : Byte) : BitVec 16 :=
  crcBit (crcBit (crcBit (crcBit (crcBit (crcBit (crcBit (crcBit (crc ^^^ (b.setWidth 16 <<< 8)))))))))

/-- CRC-16, polynomial 0x1021, initial value 0xFFFF, no final inversion. -/
def crc16 (bytes : List Byte) : BitVec 16 := bytes.foldl crcByte 0xFFFF

/-! ### Fields -/

/-- The value of a field, most significant byte first. -/
def fieldValue (bytes : List Byte) : Nat := bytes.foldl (fun n b => n * 256 + b.toNat) 0

/-- The bytes of a field of a given width, most significant byte first. -/
def fieldBytes : Nat → Nat → List Byte
  | 0, _ => []
  | w + 1, n => BitVec.ofNat 8 (n / 256 ^ w) :: fieldBytes w n

/-- The two bytes of a check. -/
def checkBytes (crc : BitVec 16) : List Byte := fieldBytes 2 crc.toNat

/-- A field: its width in bytes and its value. -/
structure Field where
  width : Nat
  value : Nat
  deriving DecidableEq, Repr

/-- The bytes of a body. -/
def bodyBytes (fields : List Field) : List Byte := fields.flatMap (fun f => fieldBytes f.width f.value)

/-- Read a body as fields of the given widths; none when its length is not their sum. -/
def readFields : List Nat → List Byte → Option (List Nat)
  | [], [] => some []
  | [], _ :: _ => none
  | w :: rest, bytes =>
    if bytes.length < w then none
    else (readFields rest (bytes.drop w)).map (fun values => fieldValue (bytes.take w) :: values)

/-- A one-byte field. -/
def byteField (n : Nat) : Field := { width := 1, value := n }

/-- A two-byte field. -/
def wordField (n : Nat) : Field := { width := 2, value := n }

/-- A four-byte field: a running time or the time of day. -/
def timeField (n : Nat) : Field := { width := 4, value := n }

/-- A presence byte, then the field when it is present. -/
def optional {α : Type} (fields : α → List Field) : Option α → List Field
  | none => [byteField 0]
  | some x => byteField 1 :: fields x

/-- A list is preceded by a count byte. -/
def listed {α : Type} (fields : α → List Field) (xs : List α) : List Field :=
  byteField xs.length :: xs.flatMap fields

/-! ### Codes of enumerated values: from 0 in the order their table or rule lists them -/

/-- INBOUND 0, OUTBOUND 1. -/
def directionCode : Direction → Nat
  | .inbound => 0
  | .outbound => 1

/-- INBOUND 0, OUTBOUND 1, NONE 2. -/
def eventDirectionCode : EventDirection → Nat
  | .inbound => 0
  | .outbound => 1
  | .none => 2

/-- The nine kinds of an event record, 0 to 8. -/
def recordKindCode : RecordKind → Nat
  | .greenGroup => 0
  | .arrival => 1
  | .occupancy => 2
  | .count => 3
  | .actuation => 4
  | .preemptCall => 5
  | .preemptClear => 6
  | .transitCall => 7
  | .unitFault => 8

/-- DENY reasons, in the order of the PRIORITY-ANSWER layout. -/
def denyCode : DenyReason → Nat
  | .notEligible => 0
  | .budget => 1
  | .overlay => 2
  | .preempted => 3

/-- Reasons of a NAK, in the order of R132. -/
def nakCode : NakReason → Nat
  | .belowMinimum => 0
  | .pedService => 1
  | .preempting => 2
  | .localControl => 3
  | .badPlan => 4

end Sys2Proof.Machine
end

