-- ==== Sys2Proof/Machine/CorridorFrames.lean ====
section
/-! DEFINITION. The frames of the Corridor Line in bytes (11_the_supervisory_line.md 11.6): command frames as the part sends
them, and replies as it reads them. -/

namespace Sys2Proof.Machine

/-- A corridor frame: lead byte, address, kind, length, body, check over bytes 1 to 3 + length. -/
def corridorFrame (address kind : Nat) (body : List Byte) : List Byte :=
  let checked := BitVec.ofNat 8 address :: BitVec.ofNat 8 kind :: BitVec.ofNat 8 body.length :: body
  0x5A :: checked ++ checkBytes (crc16 checked)

/-- Kind byte of a command frame. -/
def LineFrame.kind : LineFrame → Nat
  | .poll _ => 0x01
  | .identify => 0x02
  | .timingSet _ => 0x03
  | .beacon .. => 0x04
  | .routeClear .. => 0x05
  | .routeEnd => 0x06
  | .priorityAnswer _ => 0x07
  | .quiet => 0x08
  | .runLocal => 0x09

/-- Body of a command frame; nothing follows a presence byte of 0 (notes/assumptions/34.md). -/
def LineFrame.body : LineFrame → List Field
  | .poll accepted => optional (fun n => [byteField n]) accepted
  | .timingSet t =>
    [byteField t.planNumber, wordField t.cycleLength, wordField t.nextCycle] ++ optional (fun g => [wordField g]) t.mainGreen
  | .beacon position length plan => [wordField position, wordField length, byteField plan]
  | .routeClear d hold => [byteField (directionCode d), wordField hold]
  | .priorityAnswer (.grant extension) => [byteField 0, byteField extension]
  | .priorityAnswer (.deny reason) => [byteField 1, byteField (denyCode reason)]
  | _ => []

/-- The bytes of a command frame to an address. -/
def LineFrame.bytes (address : Nat) (f : LineFrame) : List Byte := corridorFrame address f.kind (bodyBytes f.body)

/-- The bytes that an exchange sends. -/
def Exchange.bytes (x : Exchange) : List Byte := x.frame.bytes x.address

/-- The widths of an event record. -/
def recordWidths : List Nat := [1, 1, 1, 1, 2, 2, 1]

/-- Read one event record. -/
def readEventRecord (bytes : List Byte) : Option EventRecord :=
  match readFields recordWidths bytes with
  | some [sequence, kind, direction, detector, value, extra, age] =>
    some { sequence := sequence, kind := kind, direction := direction, detector := detector, value := value, extra := extra,
           age := age }
  | _ => none

/-- Read n event records of 9 bytes each, with nothing after them. -/
def readEventRecords : Nat → List Byte → Option (List EventRecord)
  | 0, bytes => if bytes.isEmpty then some [] else none
  | n + 1, bytes =>
    match readEventRecord (bytes.take 9), readEventRecords n (bytes.drop 9) with
    | some r, some rest => some (r :: rest)
    | _, _ => none

/-- Read the body of a STATUS; none when its length is not 8 plus 9 times a record count of at most 8 (R131). -/
def readStatus (body : List Byte) : Option StatusFields :=
  match readFields [2, 2, 1, 1, 1, 1] (body.take 8) with
  | some [position, length, stage, flags, plan, count] =>
    if count > Config.recordLimit then none
    else
      (readEventRecords count (body.drop 8)).map (fun records =>
        { localPosition := position, localLength := length, stage := stage, flags := flags, planInUse := plan,
          records := records })
  | _ => none

/-- Read the body of a reply of a given kind from an address (R131). -/
def readReply (address kind : Nat) (body : List Byte) : Instr :=
  match kind with
  | 0x21 =>
    match readStatus body with
    | some reply => if (stageOf reply.stage).isSome then .status address reply else .replyGarbled .codeOutsideSet
    | none => .replyGarbled .bodyLength
  | 0x22 =>
    match readFields [2, 1, 1] body with
    | some [site, abilities, detectors] =>
      .identity address { site := site, abilities := abilities, detectors := detectors }
    | _ => .replyGarbled .bodyLength
  | 0x23 => if body.isEmpty then .heartbeat address else .replyGarbled .bodyLength
  | 0x24 => if body.isEmpty then .ack address else .replyGarbled .bodyLength
  | 0x25 =>
    match readFields [1] body with
    | some [reason] => if (nakReasonOf reason).isSome then .nak address reason else .replyGarbled .codeOutsideSet
    | _ => .replyGarbled .bodyLength
  | _ => .replyGarbled .kindNotExpected

/-- The command that a reply makes of its bytes, received to their end within a response window: a reply, or the fault that
they show (R131). That the address and the kind are those of the exchange is judged when the command is run. -/
def commandOfReply (bytes : List Byte) : Instr :=
  match bytes with
  | lead :: address :: kind :: length :: rest =>
    if lead ≠ 0x5A then .replyGarbled .leadByte
    else if length.toNat > Config.corridorBodyLimit then .replyGarbled .lengthAbove80
    else if rest.length ≠ length.toNat + 2 then .replyGarbled .bodyLength
    else
      let body := rest.take length.toNat
      if rest.drop length.toNat ≠ checkBytes (crc16 (address :: kind :: length :: body)) then .replyGarbled .checkWrong
      else readReply address.toNat kind.toNat body
  | lead :: _ => if lead ≠ 0x5A then .replyGarbled .leadByte else .replyByteGapExpiry
  | [] => .responseWindowExpiry

/-! ### Replies as the units send them -/

/-- The fields of an event record. -/
def recordBody (r : EventRecord) : List Field :=
  [byteField r.sequence, byteField r.kind, byteField r.direction, byteField r.detector, wordField r.value,
   wordField r.extra, byteField r.age]

/-- The fields of a STATUS body. -/
def statusBody (x : StatusFields) : List Field :=
  [wordField x.localPosition, wordField x.localLength, byteField x.stage, byteField x.flags, byteField x.planInUse,
   byteField x.records.length] ++ x.records.flatMap recordBody

/-- The bytes of a reply command; none for a command that is no reply. -/
def replyBytes : Instr → Option (List Byte)
  | .status address reply => some (corridorFrame address 0x21 (bodyBytes (statusBody reply)))
  | .identity address reply =>
    some (corridorFrame address 0x22
      (bodyBytes [wordField reply.site, byteField reply.abilities, byteField reply.detectors]))
  | .heartbeat address => some (corridorFrame address 0x23 [])
  | .ack address => some (corridorFrame address 0x24 [])
  | .nak address reason => some (corridorFrame address 0x25 (bodyBytes [byteField reason]))
  | _ => none

end Sys2Proof.Machine
end

