-- ==== Sys2Proof/Machine/RequestFrames.lean ====
section
/-! DEFINITION. The request frames of the Supervisory Line in bytes (11_the_supervisory_line.md 11.5 and 11.6): codes, body
layouts, the command that a complete frame makes, and the frame that a request command comes from. -/

namespace Sys2Proof.Machine

/-- Code of a request kind (section 11.5). -/
def requestCode : RequestKind → Nat
  | .goLive => 0x01
  | .goSetup => 0x02
  | .partReset => 0x03
  | .coordRestart => 0x04
  | .getPartStatus => 0x05
  | .setNoticeMask => 0x06
  | .setTime => 0x08
  | .getTime => 0x09
  | .setBeacon => 0x0A
  | .setPosition => 0x0C
  | .clearPosition => 0x0D
  | .getPosition => 0x0E
  | .reIdentify => 0x0F
  | .rejoin => 0x10
  | .setLink => 0x12
  | .getLink => 0x13
  | .getPlatoons => 0x14
  | .setSlack => 0x15
  | .setTransitionLimits => 0x16
  | .setRule => 0x18
  | .clearRule => 0x19
  | .getRule => 0x1A
  | .stageOpen => 0x1C
  | .stageHeader => 0x1D
  | .stageSeek => 0x1E
  | .stageEntry => 0x1F
  | .stageRead => 0x20
  | .stageDiscard => 0x21
  | .commitPlan => 0x22
  | .erasePlan => 0x23
  | .getSlot => 0x24
  | .setSelectMode => 0x26
  | .setSelectEntry => 0x27
  | .getSelection => 0x28
  | .setQueueLimits => 0x2A
  | .getQueue => 0x2B
  | .setPriorityPolicy => 0x2C
  | .getPreemption => 0x2D
  | .cancelRoute => 0x2E

/-- The request kinds in the order of their codes. -/
def requestKinds : List RequestKind :=
  [.goLive, .goSetup, .partReset, .coordRestart, .getPartStatus, .setNoticeMask, .setTime, .getTime, .setBeacon, .setPosition,
   .clearPosition, .getPosition, .reIdentify, .rejoin, .setLink, .getLink, .getPlatoons, .setSlack, .setTransitionLimits,
   .setRule, .clearRule, .getRule, .stageOpen, .stageHeader, .stageSeek, .stageEntry, .stageRead, .stageDiscard, .commitPlan,
   .erasePlan, .getSlot, .setSelectMode, .setSelectEntry, .getSelection, .setQueueLimits, .getQueue, .setPriorityPolicy,
   .getPreemption, .cancelRoute]

/-- The request kind of a code. -/
def requestOfCode (code : Nat) : Option RequestKind := requestKinds.find? (fun k => requestCode k == code)

/-! ### Bodies -/

/-- A body with the layout of `widths`, its figures read by `make`. -/
def readBody {α : Type} (widths : List Nat) (make : List Nat → Option α) (body : List Byte) : Body α :=
  match (readFields widths body).bind make with
  | some x => .fields x
  | none => .wrongLength body.length

/-- A body without fields. -/
def noFields (body : List Byte) : Body Unit := readBody [] (fun _ => some ()) body

/-- The one figure of a body. -/
def one : List Nat → Option Nat
  | [n] => some n
  | _ => none

/-- A body of one byte. -/
def byteBody (body : List Byte) : Body Nat := readBody [1] one body

/-- A body of two bytes that hold one figure. -/
def wordBody (body : List Byte) : Body Nat := readBody [2] one body

/-- SET-POSITION. -/
def positionFields : List Nat → Option PositionFields
  | [position, address, site, modes, recovery, route] =>
    some { position := position, address := address, site := site, permittedModes := modes, recovery := recovery,
           routeLength := route }
  | _ => none

/-- SET-LINK. -/
def linkFields : List Nat → Option LinkFields
  | [segment, direction, distance, speed, lead, depth] =>
    some { segment := segment, direction := direction, distance := distance, speed := speed, lead := lead, depth := depth }
  | _ => none

/-- GET-LINK and GET-PLATOONS. -/
def linkName : List Nat → Option LinkName
  | [segment, direction] => some { segment := segment, direction := direction }
  | _ => none

/-- SET-SLACK. -/
def slackFields : List Nat → Option SlackFields
  | [early, late, size] => some { early := early, late := late, minimumSize := size }
  | _ => none

/-- SET-TRANSITION-LIMITS. -/
def limitFields : List Nat → Option LimitFields
  | [lengthen, shorten, tolerance, trim, sideLow, sideRange] =>
    some { lengthen := lengthen, shorten := shorten, tolerance := tolerance, trimLimit := trim, sideLow := sideLow,
           sideRange := sideRange }
  | _ => none

/-- SET-RULE. -/
def ruleFields : List Nat → Option RuleFields
  | [index, kind, direction, low, high, positions, destinations, tag] =>
    some { index := index, matchKind := kind, matchDirection := direction, detectorLow := low, detectorHigh := high,
           positionSet := positions, destinations := destinations, tag := tag }
  | _ => none

/-- GET-RULE. -/
def ruleQuery : List Nat → Option RuleQuery
  | [index, action] => some { index := index, action := action }
  | _ => none

/-- STAGE-OPEN without a source slot. -/
def openBlankFields : List Nat → Option OpenBlankFields
  | [target, source] => some { target := target, source := source }
  | _ => none

/-- STAGE-OPEN with source COPY; the source code itself is dropped. -/
def openCopyFields : List Nat → Option OpenCopyFields
  | [target, _, slot] => some { target := target, sourceSlot := slot }
  | _ => none

/-- STAGE-HEADER. -/
def headerFields : List Nat → Option HeaderFields
  | [length, wave] => some { cycleLength := length, wave := wave }
  | _ => none

/-- STAGE-SEEK. -/
def seekFields : List Nat → Option SeekFields
  | [position, mode] => some { position := position, mode := mode }
  | _ => none

/-- STAGE-ENTRY WRITE; the operation code itself is dropped. -/
def entryFields : List Nat → Option EntryFields
  | [_, offset, main, minMain, maxMain, side, lost, adapt] =>
    some { offset := offset, mainGreen := main, minMain := minMain, maxMain := maxMain, sideMin := side, lostTime := lost,
           adapt := adapt }
  | _ => none

/-- SET-SELECT-ENTRY WRITE; the operation code itself is dropped. -/
def selectFields : List Nat → Option SelectFields
  | [index, _, slot, minTotal, maxTotal, minShare, maxShare] =>
    some { index := index, slot := slot, minTotal := minTotal, maxTotal := maxTotal, minShare := minShare,
           maxShare := maxShare }
  | _ => none

/-- SET-SELECT-ENTRY without entry fields. -/
def selectClearFields : List Nat → Option SelectClearFields
  | [index, operation] => some { index := index, operation := operation }
  | _ => none

/-- SET-QUEUE-LIMITS. -/
def queueLimitFields : List Nat → Option QueueLimitFields
  | [approachClass, exponent, buildingOn, blockedOn, hysteresis] =>
    some { approachClass := approachClass, exponent := exponent, buildingOn := buildingOn, blockedOn := blockedOn,
           hysteresis := hysteresis }
  | _ => none

/-- SET-PRIORITY-POLICY. -/
def policyFields : List Nat → Option PolicyFields
  | [timeout, extension, recovery] => some { routeTimeout := timeout, extensionMax := extension, recovery := recovery }
  | _ => none

/-- The second figure of two; the first, a code already read, is dropped. -/
def second : List Nat → Option Nat
  | [_, n] => some n
  | _ => none

/-! ### Requests whose layout follows from a code in the body; a code outside its set is judged before the length
(notes/assumptions/21.md) -/

/-- STAGE-OPEN: target, source, and with COPY the source slot. -/
def readStageOpen (body : List Byte) : Instr :=
  match body with
  | target :: source :: _ =>
    if source = 0 then .stageOpenCopy (readBody [1, 1, 1] openCopyFields body)
    else if source = 1 then .stageOpenBlank (readBody [1, 1] openBlankFields body)
    else .stageOpenBlank (.fields { target := target.toNat, source := source.toNat })
  | _ => .stageOpenBlank (.wrongLength body.length)

/-- STAGE-ENTRY: operation, and with WRITE the seven entry fields. -/
def readStageEntry (body : List Byte) : Instr :=
  match body with
  | operation :: _ =>
    if operation = 0 then .stageEntryWrite (readBody [1, 2, 2, 2, 2, 2, 2, 1] entryFields body)
    else if operation = 1 then .stageEntryClear (byteBody body)
    else .stageEntryClear (.fields operation.toNat)
  | [] => .stageEntryClear (.wrongLength 0)

/-- SET-SELECT-MODE: mode, and a second field with PINNED and RESPONSIVE. -/
def readSelectMode (body : List Byte) : Instr :=
  match body with
  | mode :: _ =>
    if mode = 0 then .setSelectModeFree (byteBody body)
    else if mode = 1 then .setSelectModePinned (readBody [1, 1] second body)
    else if mode = 2 then .setSelectModeResponsive (readBody [1, 1] second body)
    else .setSelectModeFree (.fields mode.toNat)
  | [] => .setSelectModeFree (.wrongLength 0)

/-- SET-SELECT-ENTRY: index, operation, and with WRITE the five entry fields. -/
def readSelectEntry (body : List Byte) : Instr :=
  match body with
  | index :: operation :: _ =>
    if operation = 0 then .setSelectEntryWrite (readBody [1, 1, 1, 2, 2, 1, 1] selectFields body)
    else if operation = 1 then .setSelectEntryClear (readBody [1, 1] selectClearFields body)
    else .setSelectEntryClear (.fields { index := index.toNat, operation := operation.toNat })
  | _ => .setSelectEntryClear (.wrongLength body.length)

/-- GET-RULE: index and action; READ-AND-ZERO is 1. -/
def readGetRule (body : List Byte) : Instr :=
  match body with
  | [index, action] =>
    if action = 1 then .getRuleReadAndZero (.fields index.toNat)
    else .getRuleRead (.fields { index := index.toNat, action := action.toNat })
  | _ => .getRuleRead (.wrongLength body.length)

/-- The command of a request frame of a given kind. A field that the size lines of section 11.6 do not name, such as the rule
index and the tag of SET-RULE (R165), is one byte: a choice of the model (notes/assumptions/35.md). -/
def readRequest (k : RequestKind) (body : List Byte) : Instr :=
  match k with
  | .goLive => .goLive (wordBody body)
  | .goSetup => .goSetup (noFields body)
  | .partReset => .partReset (noFields body)
  | .coordRestart => .coordRestart (noFields body)
  | .getPartStatus => .getPartStatus (noFields body)
  | .setNoticeMask => .setNoticeMask (readBody [3] one body)
  | .setTime => .setTime (readBody [4] one body)
  | .getTime => .getTime (noFields body)
  | .setBeacon => .setBeacon (wordBody body)
  | .setPosition => .setPosition (readBody [1, 1, 2, 1, 1, 1] positionFields body)
  | .clearPosition => .clearPosition (byteBody body)
  | .getPosition => .getPosition (byteBody body)
  | .reIdentify => .reIdentify (byteBody body)
  | .rejoin => .rejoin (byteBody body)
  | .setLink => .setLink (readBody [1, 1, 2, 1, 2, 1] linkFields body)
  | .getLink => .getLink (readBody [1, 1] linkName body)
  | .getPlatoons => .getPlatoons (readBody [1, 1] linkName body)
  | .setSlack => .setSlack (readBody [2, 2, 1] slackFields body)
  | .setTransitionLimits => .setTransitionLimits (readBody [1, 1, 2, 2, 1, 1] limitFields body)
  | .setRule => .setRule (readBody [1, 1, 1, 1, 1, 2, 1, 1] ruleFields body)
  | .clearRule => .clearRule (byteBody body)
  | .getRule => readGetRule body
  | .stageOpen => readStageOpen body
  | .stageHeader => .stageHeader (readBody [2, 1] headerFields body)
  | .stageSeek => .stageSeek (readBody [1, 1] seekFields body)
  | .stageEntry => readStageEntry body
  | .stageRead => .stageRead (noFields body)
  | .stageDiscard => .stageDiscard (noFields body)
  | .commitPlan => .commitPlan (noFields body)
  | .erasePlan => .erasePlan (byteBody body)
  | .getSlot => .getSlot (byteBody body)
  | .setSelectMode => readSelectMode body
  | .setSelectEntry => readSelectEntry body
  | .getSelection => .getSelection (noFields body)
  | .setQueueLimits => .setQueueLimits (readBody [1, 1, 1, 1, 1] queueLimitFields body)
  | .getQueue => .getQueue (byteBody body)
  | .setPriorityPolicy => .setPriorityPolicy (readBody [2, 2, 1] policyFields body)
  | .getPreemption => .getPreemption (noFields body)
  | .cancelRoute => .cancelRoute (byteBody body)

/-! ### Frames -/

/-- The check of a supervisory frame, over the length byte, the kind byte and the body (R169). -/
def frameCheck (kind : Byte) (body : List Byte) : List Byte :=
  checkBytes (crc16 (BitVec.ofNat 8 body.length :: kind :: body))

/-- A supervisory frame (11.6). -/
def supervisoryFrame (kind : Nat) (body : List Byte) : List Byte :=
  let kind := BitVec.ofNat 8 kind
  leadByte :: BitVec.ofNat 8 body.length :: kind :: body ++ frameCheck kind body

/-- The command that a complete frame makes (R169). -/
def commandOfFrame (kind : Byte) (body check : List Byte) : Instr :=
  if check ≠ frameCheck kind body then .frameError
  else
    match requestOfCode kind.toNat with
    | none => .unknownKind kind.toNat
    | some k => readRequest k body

/-- The receiver takes a byte of SUP-RX: the receiver after it, and the command of the frame that it completes, if any
(R169). -/
def receiveByte (r : Receiver) (b : Byte) : Receiver × Option Instr :=
  match r.take b with
  | .going r' => (r', none)
  | .abandoned => (Receiver.hunt, none)
  | .complete kind body check => (Receiver.hunt, some (commandOfFrame kind body check))

/-- The commands of the frames that a run of bytes completes, oldest first (R169). -/
def receiveBytes : Receiver → List Byte → List Instr
  | _, [] => []
  | r, b :: rest =>
    match receiveByte r b with
    | (r', none) => receiveBytes r' rest
    | (r', some c) => c :: receiveBytes r' rest

/-! ### Requests as the host sends them -/

/-- Kind and body of the frame of a request command whose body has its right length; none for any other command. -/
def requestFields : Instr → Option (RequestKind × List Field)
  | .goLive (.fields n) => some (.goLive, [wordField n])
  | .goSetup (.fields _) => some (.goSetup, [])
  | .partReset (.fields _) => some (.partReset, [])
  | .coordRestart (.fields _) => some (.coordRestart, [])
  | .getPartStatus (.fields _) => some (.getPartStatus, [])
  | .setNoticeMask (.fields n) => some (.setNoticeMask, [{ width := 3, value := n }])
  | .setTime (.fields n) => some (.setTime, [timeField n])
  | .getTime (.fields _) => some (.getTime, [])
  | .setBeacon (.fields n) => some (.setBeacon, [wordField n])
  | .setPosition (.fields x) =>
    some (.setPosition, [byteField x.position, byteField x.address, wordField x.site, byteField x.permittedModes,
      byteField x.recovery, byteField x.routeLength])
  | .clearPosition (.fields n) => some (.clearPosition, [byteField n])
  | .getPosition (.fields n) => some (.getPosition, [byteField n])
  | .reIdentify (.fields n) => some (.reIdentify, [byteField n])
  | .rejoin (.fields n) => some (.rejoin, [byteField n])
  | .setLink (.fields x) =>
    some (.setLink, [byteField x.segment, byteField x.direction, wordField x.distance, byteField x.speed, wordField x.lead,
      byteField x.depth])
  | .getLink (.fields x) => some (.getLink, [byteField x.segment, byteField x.direction])
  | .getPlatoons (.fields x) => some (.getPlatoons, [byteField x.segment, byteField x.direction])
  | .setSlack (.fields x) => some (.setSlack, [wordField x.early, wordField x.late, byteField x.minimumSize])
  | .setTransitionLimits (.fields x) =>
    some (.setTransitionLimits, [byteField x.lengthen, byteField x.shorten, wordField x.tolerance, wordField x.trimLimit,
      byteField x.sideLow, byteField x.sideRange])
  | .setRule (.fields x) =>
    some (.setRule, [byteField x.index, byteField x.matchKind, byteField x.matchDirection, byteField x.detectorLow,
      byteField x.detectorHigh, wordField x.positionSet, byteField x.destinations, byteField x.tag])
  | .clearRule (.fields n) => some (.clearRule, [byteField n])
  | .getRuleRead (.fields x) => some (.getRule, [byteField x.index, byteField x.action])
  | .getRuleReadAndZero (.fields n) => some (.getRule, [byteField n, byteField 1])
  | .stageOpenBlank (.fields x) => some (.stageOpen, [byteField x.target, byteField x.source])
  | .stageOpenCopy (.fields x) => some (.stageOpen, [byteField x.target, byteField 0, byteField x.sourceSlot])
  | .stageHeader (.fields x) => some (.stageHeader, [wordField x.cycleLength, byteField x.wave])
  | .stageSeek (.fields x) => some (.stageSeek, [byteField x.position, byteField x.mode])
  | .stageEntryWrite (.fields x) =>
    some (.stageEntry, [byteField 0, wordField x.offset, wordField x.mainGreen, wordField x.minMain, wordField x.maxMain,
      wordField x.sideMin, wordField x.lostTime, byteField x.adapt])
  | .stageEntryClear (.fields n) => some (.stageEntry, [byteField n])
  | .stageRead (.fields _) => some (.stageRead, [])
  | .stageDiscard (.fields _) => some (.stageDiscard, [])
  | .commitPlan (.fields _) => some (.commitPlan, [])
  | .erasePlan (.fields n) => some (.erasePlan, [byteField n])
  | .getSlot (.fields n) => some (.getSlot, [byteField n])
  | .setSelectModeFree (.fields n) => some (.setSelectMode, [byteField n])
  | .setSelectModePinned (.fields n) => some (.setSelectMode, [byteField 1, byteField n])
  | .setSelectModeResponsive (.fields n) => some (.setSelectMode, [byteField 2, byteField n])
  | .setSelectEntryWrite (.fields x) =>
    some (.setSelectEntry, [byteField x.index, byteField 0, byteField x.slot, wordField x.minTotal, wordField x.maxTotal,
      byteField x.minShare, byteField x.maxShare])
  | .setSelectEntryClear (.fields x) => some (.setSelectEntry, [byteField x.index, byteField x.operation])
  | .getSelection (.fields _) => some (.getSelection, [])
  | .setQueueLimits (.fields x) =>
    some (.setQueueLimits, [byteField x.approachClass, byteField x.exponent, byteField x.buildingOn, byteField x.blockedOn,
      byteField x.hysteresis])
  | .getQueue (.fields n) => some (.getQueue, [byteField n])
  | .setPriorityPolicy (.fields x) =>
    some (.setPriorityPolicy, [wordField x.routeTimeout, wordField x.extensionMax, byteField x.recovery])
  | .getPreemption (.fields _) => some (.getPreemption, [])
  | .cancelRoute (.fields n) => some (.cancelRoute, [byteField n])
  | _ => none

/-- The bytes of the frame of a request command. -/
def requestBytes (i : Instr) : Option (List Byte) :=
  (requestFields i).map (fun x => supervisoryFrame (requestCode x.1) (bodyBytes x.2))

end Sys2Proof.Machine
end

