-- ==== Sys2Proof/Safety.lean ====
section
/-! DEFINITION. What claims about the part speak of: the forms its stores keep, the receiving of a request and its answer,
and what the end of a handling leaves as it was. -/

namespace Sys2Proof.Machine

/-! ### Forms that every step keeps -/

/-- No store holds more than its capacity: 32 notices (R172), 16 short answers (R170), 24 queue entries (R138), 6 routes
(section 5.1). -/
structure Bounded (s : State) : Prop where
  notices : s.sli.notices.length ≤ Config.noticeCapacity
  shortAnswers : s.sli.shortAnswers.length ≤ Config.shortAnswerCapacity
  queue : s.clc.queue.length ≤ Config.queueCapacity
  routes : s.pm.routes.length ≤ Config.routeCapacity

/-- The Link Command Queue is ordered by class, highest first (R136). -/
def QueueInOrder (s : State) : Prop := s.clc.queue.Pairwise (fun a b => b.rank ≤ a.rank)

/-- A slot holds a valid plan or none (R103, section 6.2). -/
def slotSound : Slot → Prop
  | .valid plan => planValid plan = true
  | _ => True

/-- What the staging record holds lies in its ranges, field by field; whether it makes a plan is tested at the commit (R108,
R110, R111). -/
def Staging.inRanges (x : Staging) : Prop :=
  (∀ h, x.header = some h → inRange 400 2400 h.cycleLength = true) ∧
    ∀ p e, x.entries.get p = some e → entryInRange e = true

/-- Every plan that a slot, a commit in flight or the active plan image holds is valid, and the staged fields are in range
(R103). -/
structure PlansValid (s : State) : Prop where
  slots : ∀ i : SlotIx, slotSound (s.pl.slots.get i)
  commit : ∀ slot plan, s.pl.write = .committing slot plan → planValid plan = true
  image : ∀ image, s.ps.image = some image → planValid image.plan = true
  staging : ∀ x, s.pl.staging = some x → x.inRanges

/-- The platoon records held on all links. -/
def heldPlatoons (s : State) : Nat := (links.map (fun l => (s.link l).queue.length)).sum

/-- Free and held platoon records are 64 together (R47). -/
def PoolWhole (s : State) : Prop := s.pt.freeCount + heldPlatoons s = Config.poolSize

/-- COR-DE is high and COR-TX carries a frame just while a frame is sent; it is high with COR-TX at space through a line break;
otherwise COR-DE is low with COR-TX at mark (R131, R142, R143). -/
def PinsFollowLine (s : State) : Prop :=
  match s.clc.line with
  | .idle => s.clc.driverEnable = false ∧ s.clc.txLevel = .mark
  | .lineBreak _ => s.clc.driverEnable = true ∧ s.clc.txLevel = .space
  | .exchange x =>
    match x.phase with
    | .sending => s.clc.driverEnable = true ∧ s.clc.txLevel = .frame
    | .abandoned => s.clc.driverEnable = true ∧ s.clc.txLevel = .frame
    | _ => s.clc.driverEnable = false ∧ s.clc.txLevel = .mark

/-- No two configured positions share a line address or a site number (R146). -/
def ConfigDistinct (s : State) : Prop :=
  ∀ p q a b, s.config.get p = some a → s.config.get q = some b → p ≠ q → a.address ≠ b.address ∧ a.site ≠ b.site

/-- C is the cycle length of the active plan image, 900 with none, and no more than C has passed since the anchor (R6). -/
def CycleSound (s : State) : Prop :=
  s.ctb.cycleLength = s.ps.newLength ∧ elapsed s.now s.ctb.anchor ≤ s.ctb.cycleLength

/-! ### Requests and their answers (11.2) -/

/-- A frame that completes is taken: no reset is pending, and the reply slot and the short-answer queue are empty (R169,
R170). -/
structure Ready (s : State) : Prop where
  noReset : s.sli.resetPending = false
  slotEmpty : s.sli.replySlot = none
  noShort : s.sli.shortAnswers = []

/-- The reply stands in the reply slot; the transmitter sends it when it was idle (R170, R171). -/
def State.answeredWith (s : State) (r : Reply) : State :=
  { s with sli := { s.sli with receiver := Receiver.hunt, replySlot := some r,
                               sending := some (s.sli.sending.getD (.reply r)) } }

/-- A request has been answered. -/
def State.answered (s : State) (kind : RequestKind) (a : Answer) : State := s.answeredWith (.request kind a)

/-- The wrong length of a body, if its length is wrong. -/
def wrongLength {α : Type} : Body α → Option Nat
  | .fields _ => none
  | .wrongLength n => some n

/-- The request kind of a command that is a request frame, with its wrong length, if its length is wrong (11.5). -/
def requestOf : Instr → Option (RequestKind × Option Nat)
  | .goLive b => some (.goLive, wrongLength b)
  | .goSetup b => some (.goSetup, wrongLength b)
  | .partReset b => some (.partReset, wrongLength b)
  | .coordRestart b => some (.coordRestart, wrongLength b)
  | .getPartStatus b => some (.getPartStatus, wrongLength b)
  | .setNoticeMask b => some (.setNoticeMask, wrongLength b)
  | .setTime b => some (.setTime, wrongLength b)
  | .getTime b => some (.getTime, wrongLength b)
  | .setBeacon b => some (.setBeacon, wrongLength b)
  | .setPosition b => some (.setPosition, wrongLength b)
  | .clearPosition b => some (.clearPosition, wrongLength b)
  | .getPosition b => some (.getPosition, wrongLength b)
  | .reIdentify b => some (.reIdentify, wrongLength b)
  | .rejoin b => some (.rejoin, wrongLength b)
  | .setLink b => some (.setLink, wrongLength b)
  | .getLink b => some (.getLink, wrongLength b)
  | .getPlatoons b => some (.getPlatoons, wrongLength b)
  | .setSlack b => some (.setSlack, wrongLength b)
  | .setTransitionLimits b => some (.setTransitionLimits, wrongLength b)
  | .setRule b => some (.setRule, wrongLength b)
  | .clearRule b => some (.clearRule, wrongLength b)
  | .getRuleRead b => some (.getRule, wrongLength b)
  | .getRuleReadAndZero b => some (.getRule, wrongLength b)
  | .stageOpenBlank b => some (.stageOpen, wrongLength b)
  | .stageOpenCopy b => some (.stageOpen, wrongLength b)
  | .stageHeader b => some (.stageHeader, wrongLength b)
  | .stageSeek b => some (.stageSeek, wrongLength b)
  | .stageEntryWrite b => some (.stageEntry, wrongLength b)
  | .stageEntryClear b => some (.stageEntry, wrongLength b)
  | .stageRead b => some (.stageRead, wrongLength b)
  | .stageDiscard b => some (.stageDiscard, wrongLength b)
  | .commitPlan b => some (.commitPlan, wrongLength b)
  | .erasePlan b => some (.erasePlan, wrongLength b)
  | .getSlot b => some (.getSlot, wrongLength b)
  | .setSelectModeFree b => some (.setSelectMode, wrongLength b)
  | .setSelectModePinned b => some (.setSelectMode, wrongLength b)
  | .setSelectModeResponsive b => some (.setSelectMode, wrongLength b)
  | .setSelectEntryWrite b => some (.setSelectEntry, wrongLength b)
  | .setSelectEntryClear b => some (.setSelectEntry, wrongLength b)
  | .getSelection b => some (.getSelection, wrongLength b)
  | .setQueueLimits b => some (.setQueueLimits, wrongLength b)
  | .getQueue b => some (.getQueue, wrongLength b)
  | .setPriorityPolicy b => some (.setPriorityPolicy, wrongLength b)
  | .getPreemption b => some (.getPreemption, wrongLength b)
  | .cancelRoute b => some (.cancelRoute, wrongLength b)
  | _ => none

/-- The one part mode a request kind is taken in; none when it is taken in both (11.5). -/
def takenIn : RequestKind → Option PartMode
  | .goLive => some .setup
  | .goSetup => some .live
  | .coordRestart => some .live
  | .setPosition => some .setup
  | .clearPosition => some .setup
  | .reIdentify => some .live
  | .rejoin => some .live
  | .setRule => some .setup
  | .clearRule => some .setup
  | _ => none

/-- An answer that says the request was not taken up (R170). -/
def Answer.refuses : Answer → Bool
  | .done _ => false
  | .accepted => false
  | _ => true

/-! ### The end of a handling -/

/-- From `s`, the effect of a command, to `t`, the state after the line has settled and the transmitter has looked for work:
what may have changed is the line with its pins, the queue, the due times, the silence deadline, the frame being sent, the
notices and the overrun count (R10, R135, R140, R156, R171). -/
structure Settles (s t : State) : Prop where
  pending : t.pending = s.pending
  ctb : t.ctb = s.ctb
  oc : t.oc = s.oc
  pt : t.pt = s.pt
  qw : t.qw = s.qw
  pm : t.pm = s.pm
  pl : t.pl = s.pl
  ps : t.ps = s.ps
  er : t.er = s.er
  config : t.config = s.config
  ih : { t.ih with silence := none } = { s.ih with silence := none }
  clc : { t.clc with queue := [], line := .idle, driverEnable := false, txLevel := .mark, due := s.clc.due } =
    { s.clc with queue := [], line := .idle, driverEnable := false, txLevel := .mark }
  sli : { t.sli with sending := none, notices := [], overrun := 0 } =
    { s.sli with sending := none, notices := [], overrun := 0 }

/-- What the handling of an event leaves as it was, whatever the event brings about in the blocks: the commands waiting, the
clocks and the cycle, the library, the configuration, the rule table, every setting the host has written, the receiver, the
reply slot and the short answers. -/
structure LeavesStores (s t : State) : Prop where
  pending : t.pending = s.pending
  ctb : t.ctb = s.ctb
  pl : t.pl = s.pl
  config : t.config = s.config
  rules : t.er.rules = s.er.rules
  image : t.ps.image = s.ps.image
  table : t.ps.table = s.ps.table
  limits : t.oc.limits = s.oc.limits
  policy : t.pm.policy = s.pm.policy
  arterialLimits : t.qw.arterialLimits = s.qw.arterialLimits
  sideLimits : t.qw.sideLimits = s.qw.sideLimits
  earlySlack : t.pt.earlySlack = s.pt.earlySlack
  lateSlack : t.pt.lateSlack = s.pt.lateSlack
  minimumSize : t.pt.minimumSize = s.pt.minimumSize
  pollRound : t.clc.pollRound = s.clc.pollRound
  sli : { t.sli with draining := false, sending := none, notices := [], overrun := 0 } =
    { s.sli with draining := false, sending := none, notices := [], overrun := 0 }

/-- The line is taken, so that the arbiter does not choose now (R140). -/
def lineTaken (s : State) : Prop := s.clc.line ≠ .idle

/-- The exchange in progress is an addressed one, at position `p`, whose reply is awaited. -/
def awaiting (s : State) (x : Exchange) (p : Pos) : Prop :=
  s.clc.line = .exchange x ∧ x.phase = .window ∧ x.position = some p

/-- A RUN-LOCAL offered for position `p` finds a place in the Link Command Queue, also behind the other offers of a handling
that makes `n` of them: the part is LIVE, the position is configured, no QUIET stands for it, and `n` places are free (R16, R137,
R138). -/
def runLocalFits (s : State) (p : Pos) (n : Nat) : Prop :=
  s.sli.mode = .live ∧ s.config.get p ≠ none ∧ s.clc.queue.length + n ≤ Config.queueCapacity ∧
    ∀ e ∈ s.clc.queue, e.position = some p → e.command ≠ .quiet

/-- A RUN-LOCAL for position `p` stands in the queue (R16). -/
def runLocalQueued (s : State) (p : Pos) : Prop := ∃ e ∈ s.clc.queue, e.position = some p ∧ e.command = .runLocal

/-! ### Reports of a unit (R133, R134, R160, R162) -/

/-- A scheduled poll of position `p`, which is poll-eligible, waits for its reply, and a GOOD outcome does not cut it off. -/
structure Polled (s : State) (x : Exchange) (p : Pos) : Prop where
  awaits : awaiting s x p
  poll : x.work = .poll
  eligible : pollEligible s p = true
  score : (s.health p).score < 160

/-- The STATUS answers the poll and carries one record, which is new: its number is 1 to 127 above the last accepted, if one
was (R134). -/
structure Reports (s : State) (x : Exchange) (p : Pos) (reply : StatusFields) (r : EventRecord) : Prop where
  polled : Polled s x p
  stage : (stageOf reply.stage).isSome = true
  one : reply.records = [r]
  new : ∀ n, s.clc.accepted.get p = some n → inRange 1 127 (sequenceStep n r) = true

/-- The record is well formed, with direction `d`, and the table delivers it by `rule` (R160, R162). -/
def deliveredBy (s : State) (p : Pos) (r : EventRecord) (d : EventDirection) (rule : Rule) : Prop :=
  eventDirectionOf r.direction = some d ∧ inRange 1 32 r.detector = true ∧
    ∃ kind i, recordKindOf r.kind = some kind ∧ fixedRoute kind = false ∧
      s.er.firstMatch p { kind := kind, direction := d, record := r } = some (i, rule)

/-- The record is well formed, of the kind on the fixed route, with direction `d` (R160, R161). -/
def fixedRecord (r : EventRecord) (kind : RecordKind) (d : EventDirection) : Prop :=
  eventDirectionOf r.direction = some d ∧ inRange 1 32 r.detector = true ∧ recordKindOf r.kind = some kind ∧
    fixedRoute kind = true

/-! ### Notices (R172) -/

/-- The notices are offered in order, and the transmitter then looks for work: nothing else happens on the SLI. -/
def Raises (s t : State) (bodies : List NoticeBody) : Prop :=
  t.sli = (bodies.foldl (fun sli body => sli.offered s.ctb.timeOfDay body) s.sli).transmit s.ctb.timeOfDay

end Sys2Proof.Machine
end

