-- ==== Sys2Proof/WellFormed.lean ====
section
/-! DEFINITION. Which commands can come in: every figure fits the bytes its layout gives it (11_the_supervisory_line.md 11.6),
a code that belongs to another row does not stand in this one, and a wrong length is wrong. -/

namespace Sys2Proof

/-- Fits one byte. -/
def fitsByte (n : Nat) : Bool := n < 256

/-- Fits two bytes. -/
def fitsWord (n : Nat) : Bool := n < 65536

/-- A body whose fields pass `ok`, or whose length is none that the layout of `length` bytes takes, at least `least` bytes
having told the row. -/
def bodyOk {α : Type} (ok : α → Bool) (length least : Nat) : Body α → Bool
  | .fields x => ok x
  | .wrongLength n => n != length && least ≤ n && n ≤ 250

/-- A body without fields. -/
def emptyOk (b : Body Unit) : Bool := bodyOk (fun _ => true) 0 0 b

/-- A body of one byte. -/
def byteOk (b : Body Nat) : Bool := bodyOk fitsByte 1 0 b

/-- The request codes of section 11.5. -/
def requestCodes : List Nat :=
  [0x01, 0x02, 0x03, 0x04, 0x05, 0x06, 0x08, 0x09, 0x0A, 0x0C, 0x0D, 0x0E, 0x0F, 0x10, 0x12, 0x13, 0x14, 0x15, 0x16, 0x18,
   0x19, 0x1A, 0x1C, 0x1D, 0x1E, 0x1F, 0x20, 0x21, 0x22, 0x23, 0x24, 0x26, 0x27, 0x28, 0x2A, 0x2B, 0x2C, 0x2D, 0x2E]

/-- An event record fits its 9 bytes. -/
def recordOk (r : EventRecord) : Bool :=
  fitsByte r.sequence && fitsByte r.kind && fitsByte r.direction && fitsByte r.detector && fitsWord r.value
    && fitsWord r.extra && fitsByte r.age

/-- A STATUS fits its layout, with at most 8 records. -/
def statusOk (x : StatusFields) : Bool :=
  fitsWord x.localPosition && fitsWord x.localLength && fitsByte x.stage && fitsByte x.flags && fitsByte x.planInUse
    && x.records.length ≤ 8 && x.records.all recordOk

/-- A command is well formed. -/
def wellFormed : Instr → Bool
  | .windowCloseExpiry n => 1 ≤ n && n ≤ 65535
  | .status address reply => fitsByte address && statusOk reply
  | .identity address x => fitsByte address && fitsWord x.site && fitsByte x.abilities && fitsByte x.detectors
  | .heartbeat address => fitsByte address
  | .ack address => fitsByte address
  | .nak address reason => fitsByte address && fitsByte reason
  | .unknownKind kind => fitsByte kind && !requestCodes.contains kind
  | .goLive b => bodyOk fitsWord 2 0 b
  | .goSetup b => emptyOk b
  | .partReset b => emptyOk b
  | .coordRestart b => emptyOk b
  | .getPartStatus b => emptyOk b
  | .setNoticeMask b => bodyOk (fun n => n < 2 ^ 24) 3 0 b
  | .setTime b => bodyOk (fun n => n < 2 ^ 32) 4 0 b
  | .getTime b => emptyOk b
  | .setBeacon b => bodyOk fitsWord 2 0 b
  | .setPosition b =>
    bodyOk (fun x => fitsByte x.position && fitsByte x.address && fitsWord x.site && fitsByte x.permittedModes
      && fitsByte x.recovery && fitsByte x.routeLength) 7 0 b
  | .clearPosition b => byteOk b
  | .getPosition b => byteOk b
  | .reIdentify b => byteOk b
  | .rejoin b => byteOk b
  | .setLink b =>
    bodyOk (fun x => fitsByte x.segment && fitsByte x.direction && fitsWord x.distance && fitsByte x.speed && fitsWord x.lead
      && fitsByte x.depth) 8 0 b
  | .getLink b => bodyOk (fun x => fitsByte x.segment && fitsByte x.direction) 2 0 b
  | .getPlatoons b => bodyOk (fun x => fitsByte x.segment && fitsByte x.direction) 2 0 b
  | .setSlack b => bodyOk (fun x => fitsWord x.early && fitsWord x.late && fitsByte x.minimumSize) 5 0 b
  | .setTransitionLimits b =>
    bodyOk (fun x => fitsByte x.lengthen && fitsByte x.shorten && fitsWord x.tolerance && fitsWord x.trimLimit
      && fitsByte x.sideLow && fitsByte x.sideRange) 8 0 b
  | .setRule b =>
    bodyOk (fun x => fitsByte x.index && fitsByte x.matchKind && fitsByte x.matchDirection && fitsByte x.detectorLow
      && fitsByte x.detectorHigh && fitsWord x.positionSet && fitsByte x.destinations && fitsByte x.tag) 9 0 b
  | .clearRule b => byteOk b
  | .getRuleRead b => bodyOk (fun x => fitsByte x.index && fitsByte x.action && x.action != 1) 2 0 b
  | .getRuleReadAndZero b => bodyOk fitsByte 2 2 b
  | .stageOpenBlank b => bodyOk (fun x => fitsByte x.target && fitsByte x.source && x.source != 0) 2 0 b
  | .stageOpenCopy b => bodyOk (fun x => fitsByte x.target && fitsByte x.sourceSlot) 3 2 b
  | .stageHeader b => bodyOk (fun x => fitsWord x.cycleLength && fitsByte x.wave) 3 0 b
  | .stageSeek b => bodyOk (fun x => fitsByte x.position && fitsByte x.mode) 2 0 b
  | .stageEntryWrite b =>
    bodyOk (fun x => fitsWord x.offset && fitsWord x.mainGreen && fitsWord x.minMain && fitsWord x.maxMain
      && fitsWord x.sideMin && fitsWord x.lostTime && fitsByte x.adapt) 14 1 b
  | .stageEntryClear b => bodyOk (fun n => fitsByte n && n != 0) 1 0 b
  | .stageRead b => emptyOk b
  | .stageDiscard b => emptyOk b
  | .commitPlan b => emptyOk b
  | .erasePlan b => byteOk b
  | .getSlot b => byteOk b
  | .setSelectModeFree b => bodyOk (fun n => fitsByte n && n != 1 && n != 2) 1 0 b
  | .setSelectModePinned b => bodyOk fitsByte 2 1 b
  | .setSelectModeResponsive b => bodyOk fitsByte 2 1 b
  | .setSelectEntryWrite b =>
    bodyOk (fun x => fitsByte x.index && fitsByte x.slot && fitsWord x.minTotal && fitsWord x.maxTotal && fitsByte x.minShare
      && fitsByte x.maxShare) 9 2 b
  | .setSelectEntryClear b => bodyOk (fun x => fitsByte x.index && fitsByte x.operation && x.operation != 0) 2 0 b
  | .getSelection b => emptyOk b
  | .setQueueLimits b =>
    bodyOk (fun x => fitsByte x.approachClass && fitsByte x.exponent && fitsByte x.buildingOn && fitsByte x.blockedOn
      && fitsByte x.hysteresis) 5 0 b
  | .getQueue b => byteOk b
  | .setPriorityPolicy b => bodyOk (fun x => fitsWord x.routeTimeout && fitsWord x.extensionMax && fitsByte x.recovery) 5 0 b
  | .getPreemption b => emptyOk b
  | .cancelRoute b => byteOk b
  | _ => true

end Sys2Proof
end

