-- ==== Sys2Proof/Certificates/Slice0/Obligations.lean ====
section
/-! DEFINITION. What is to be proved of the part: one statement per obligation of OBLIGATIONS.json. -/

open Sys2Proof Sys2Proof.Machine

/-! ### The queue of commands and the resets -/

/-- A step takes the command at the front of the queue and runs it on the state with the queue's rest. With no command waiting
the part idles, which is the model's choice (notes/assumptions/24.md). -/
def Obligations.StepRunsFrontCommand : Prop :=
  (∀ (c : Instr) (rest : List Instr) (s : State),
    step { s with pending := c :: rest } = exec c { s with pending := rest }) ∧
  ∀ s : State, s.pending = [] → step s = .next s

/-- Every command, in every state, answers a next state and leaves the queue of commands as it was. That no command faults or
is refused (notes/assumptions/25.md), that an event which is not due is answered too (notes/assumptions/1.md), and that a reset
keeps the commands that wait (notes/assumptions/24.md) are the model's choices. -/
def Obligations.EveryCommandAnswersNext : Prop :=
  ∀ (c : Instr) (s : State), ∃ t, exec c s = .next t ∧ t.pending = s.pending

/-- After a power-on reset or a PART-RESET every field of every block stands at its reset value. The rate pins are those
latched; the value of State.reset for them is the model's choice (notes/assumptions/9.md). The model's own fields stand at its
own values: no GOOD exchange and no position ABSENT before its identification (notes/assumptions/28.md), and the routes counted
from 0 (notes/assumptions/11.md). The queue of commands is kept (notes/assumptions/24.md). -/
def Obligations.ResetValues : Prop :=
  ∀ (supRate corRate : Bool) (slots : Vector Slot 24) (pending : List Instr),
    let s := State.resetWith supRate corRate slots pending
    s.ctb = { runningTime := 0, timeOfDay := 0, cycleLength := 900, anchor := 0, beaconInterval := 100,
              beaconDeadline := 100 } ∧
      s.oc.limits = { lengthen := 20, shorten := 12, tolerance := 20, trimLimit := 80, sideLow := 20, sideRange := 40 } ∧
      (∀ p, s.coord p = { state := .unseen, target := none, trim := 0, measured := none, settle := none, refusals := 0,
                          fieldLocal := false, grant := none, commanded := false }) ∧
      (∀ l, s.link l = { distance := 400, speed := 50, estimate := 288, lead := 50, depth := 4, tracked := true, lost := 0,
                         queue := [] }) ∧
      (s.pt.freeCount = 64 ∧ s.pt.nextNumber = 1 ∧ s.pt.poolEmptyRaised = false ∧ s.pt.earlySlack = 30 ∧
        s.pt.lateSlack = 50 ∧ s.pt.minimumSize = 6 ∧ s.pt.errorBase = none ∧
        ∀ p, s.pt.accumulators.get p = { sum := 0, count := 0 }) ∧
      (∀ p a, s.approach p a = { state := .unknown, worst := .unknown, heard := none }) ∧
      (∀ p, s.qw.gridlock.get p = { cross := false, chainInbound := false, chainOutbound := false }) ∧
      s.qw.arterialLimits = { exponent := 2, buildingOn := 30, blockedOn := 60, hysteresis := 10 } ∧
      s.qw.sideLimits = { exponent := 2, buildingOn := 35, blockedOn := 70, hysteresis := 10 } ∧
      (∀ p, s.owner p = .none ∧ s.budget p = 0) ∧ s.pm.routes = [] ∧
      s.pm.policy = { routeTimeout := 1200, extensionMax := 100, recovery := 3 } ∧
      (s.pl.slots = slots ∧ s.pl.write = .idle ∧ s.pl.staging = none) ∧
      (s.ps.mode = .free ∧ s.ps.requested = none ∧ s.ps.image = none ∧ s.ps.pendingPlan = none ∧ s.ps.deferrals = 0 ∧
        s.ps.previousCandidate = none ∧ s.ps.persistenceCount = 0 ∧ s.ps.persistenceSetting = 4 ∧
        s.ps.inboundAccumulator = 0 ∧ s.ps.outboundAccumulator = 0 ∧ s.ps.inboundFlow = 0 ∧ s.ps.outboundFlow = 0 ∧
        ∀ i, s.ps.table.get i = none) ∧
      (s.clc.queue = [] ∧ s.clc.line = .idle ∧ s.clc.driverEnable = false ∧ s.clc.txLevel = .mark ∧
        s.clc.drainFlag = false ∧ s.clc.pollRound = 10 ∧ s.clc.roundDeadline = 10 ∧
        ∀ p, s.clc.due.get p = none ∧ s.clc.accepted.get p = none ∧ s.clc.summaries.get p = none) ∧
      (∀ p, s.ident p = { state := .unknown, site := none, abilities := none, detectors := none, mode := none,
                          basic := none, retry := none, reprobe := none, byRequest := false } ∧
        s.health p = { score := 0, failures := 0, state := .sound, probes := 0, probeDeadline := none,
                       quietTimer := none, stage := .none }) ∧
      (s.ih.silence = none ∧ s.ih.lineResets = 0 ∧ s.ih.lastGood = none ∧ (∀ p, s.ih.wasAbsent.get p = false) ∧
        s.pm.nextSerial = 0) ∧
      ((∀ i, s.er.rules.get i = none ∧ s.er.hits.get i = 0) ∧ s.er.fixedCount = 0 ∧ s.er.noMatch = 0) ∧
      (s.sli.mode = .setup ∧ s.sli.draining = false ∧ s.sli.receiver.state = .hunt ∧ s.sli.replySlot = none ∧
        s.sli.shortAnswers = [] ∧ s.sli.unanswered = 0 ∧ s.sli.notices = [] ∧ s.sli.enabled = NoticeKind.all ∧
        s.sli.overrun = 0 ∧ s.sli.resetPending = false ∧ s.sli.sending = none) ∧
      (∀ p, s.config.get p = none) ∧ s.sli.supRate = supRate ∧ s.sli.corRate = corRate ∧ s.pending = pending

/-- A power-on reset latches the rate pins and sets every block to its reset value; the slot of a write in flight is left
DAMAGED and every other slot as it was. PART-RESET is answered DONE in either mode and makes reset pending yes; the reset acts
once the reply slot is empty and no library write is in flight, keeping the latched rates and the slots, and not before. That
PART_RESET_ACTS changes nothing when it is not due (notes/assumptions/1.md), and that both resets keep the queue of commands
(notes/assumptions/24.md), are the model's choices. -/
def Obligations.ResetsAct : Prop :=
  (∀ (supRate corRate : Bool) (s : State), ∃ slots,
    exec (.powerOnReset supRate corRate) s = .next (State.resetWith supRate corRate slots s.pending) ∧
      (∀ i plan, s.pl.write = .committing i plan → slots.get i = .damaged) ∧
      (∀ i, s.pl.write = .erasing i → slots.get i = .damaged) ∧
      ∀ i, (∀ plan, s.pl.write ≠ .committing i plan) → s.pl.write ≠ .erasing i → slots.get i = s.pl.slots.get i) ∧
  (∀ s, Ready s →
    exec (.partReset (.fields ())) s =
      .next (({ s with sli := { s.sli with resetPending := true } } : State).answered .partReset (.done .none))) ∧
  (∀ s, s.sli.resetPending = true → s.sli.replySlot = none → s.pl.write = .idle →
    exec .partResetActs s = .next (State.resetWith s.sli.supRate s.sli.corRate s.pl.slots s.pending)) ∧
  ∀ s, (s.sli.resetPending = false ∨ s.sli.replySlot ≠ none ∨ s.pl.write ≠ .idle) → exec .partResetActs s = .next s

/-! ### Requests in general (11.2) -/

/-- A frame that is not taken changes no state. While reset pending is yes it is discarded without any answer. While a reply is
owed, a request is answered BUSY, a frame of no request kind BUSY with its kind, and a frame whose check is wrong FRAME-ERROR,
each through the short-answer queue; when that queue holds 16 the frame is discarded and counted. The transmitter, if idle,
sends the reply, or else the oldest short answer. -/
def Obligations.FramesNotTaken : Prop :=
  (∀ (c : Instr) (s : State),
    ((requestOf c).isSome = true ∨ c = .frameError ∨ ∃ kind, c = .unknownKind kind) → s.sli.resetPending = true →
    exec c s = .next { s with sli := { s.sli with receiver := Receiver.hunt } }) ∧
  ∀ (c : Instr) (short : Reply) (s : State),
    ((∃ k n, requestOf c = some (k, n) ∧ short = .request k .busy) ∨ (c = .frameError ∧ short = .frameError) ∨
      ∃ kind, c = .unknownKind kind ∧ short = .busyUnknown kind) →
    s.sli.resetPending = false → (s.sli.replySlot ≠ none ∨ s.sli.shortAnswers ≠ []) →
    let queue := s.sli.shortAnswers ++ [short]
    (s.sli.shortAnswers.length < 16 →
      exec c s = .next { s with sli := { s.sli with
        receiver := Receiver.hunt, shortAnswers := queue,
        sending := some (s.sli.sending.getD
          (match s.sli.replySlot with
           | some r => .reply r
           | none => .shortAnswer (queue.headD short))) } }) ∧
    (s.sli.shortAnswers.length = 16 →
      exec c s = .next { s with sli := { s.sli with
        receiver := Receiver.hunt, unanswered := min 65535 (s.sli.unanswered + 1),
        sending := some (s.sli.sending.getD
          (match s.sli.replySlot with
           | some r => .reply r
           | none => .shortAnswer (s.sli.shortAnswers.headD short))) } })

/-- A request whose body has the wrong length is answered BAD-VALUE naming position 0 and field 0, a frame whose check is
wrong FRAME-ERROR, and a frame of no request kind UNKNOWN-KIND with its kind; none changes any other state. A partial frame
that is discarded after a gap, or abandoned at a length byte above 250, draws no answer and leaves the receiver in HUNT. That a
wrong length is judged before the part mode (notes/assumptions/7.md), and that the two events carry the bytes received before
them (notes/assumptions/8.md), are the model's choices. -/
def Obligations.FaultyFramesAnswered : Prop :=
  (∀ (c : Instr) (k : RequestKind) (n : Nat) (s : State), requestOf c = some (k, some n) → Ready s →
    exec c s = .next (s.answered k (.badValue 0 0))) ∧
  (∀ s, Ready s → exec .frameError s = .next (s.answeredWith .frameError)) ∧
  (∀ kind s, Ready s → exec (.unknownKind kind) s = .next (s.answeredWith (.unknownKind kind))) ∧
  ∀ (received : List Byte) (s : State),
    let r := s.sli.receiver.takeAll received
    (r.state ≠ .hunt →
      exec (.supRxGapExpiry received) s = .next { s with sli := { s.sli with receiver := Receiver.hunt } }) ∧
    (r.state = .length →
      exec (.supRxFrameAbandoned received) s = .next { s with sli := { s.sli with receiver := Receiver.hunt } })

/-- A request taken in one part mode is answered WRONG-MODE in the other, whatever its fields hold, and changes nothing. -/
def Obligations.WrongModeAnswered : Prop :=
  ∀ (c : Instr) (k : RequestKind) (m : PartMode) (s : State), requestOf c = some (k, none) → takenIn k = some m →
    s.sli.mode ≠ m → Ready s → exec c s = .next (s.answered k .wrongMode)

/-- Every request that is taken is answered in its own handling, and a reply other than DONE or ACCEPTED changes no state. -/
def Obligations.EveryTakenRequestAnswered : Prop :=
  ∀ (c : Instr) (k : RequestKind) (s : State), requestOf c = some (k, none) → Ready s →
    ∃ t a, exec c s = .next t ∧ t.sli.replySlot = some (.request k a) ∧ (a.refuses = true → t = s.answered k a)

/-- The host's frame of a request, byte for byte, makes the receiver take that request and no other. The rows of one request
kind told apart by their code (notes/assumptions/21.md), fields of one operation alone without presence bytes
(notes/assumptions/34.md), and one byte for a field that no size line names (notes/assumptions/35.md), are the model's reading
of the layouts. -/
def Obligations.RequestFramesReadBack : Prop :=
  ∀ (c : Instr) (bytes : List Byte), wellFormed c = true → requestBytes c = some bytes →
    receiveBytes Receiver.hunt bytes = [c]

/-! ### Corridor time (01) -/

/-- At every decisecond running time and time of day go up by one, each with its wrap. The library, the configuration, the
rule table, the selection table, the rates and the settings stay: the beacon interval, the transition limits, the priority
policy, the queue limits, the slacks and the minimum size, the poll round, the notice enables, distance, speed, lead and
depth of every link, and the persistence setting while no mode is requested. What events still due in the decisecond do is
the model's choice (notes/assumptions/2.md). -/
def Obligations.TickAdvancesClocks : Prop :=
  ∀ s : State, (s.sli.resetPending = false ∨ s.sli.replySlot ≠ none ∨ s.pl.write ≠ .idle) →
    ∃ t, exec .decisecondTick s = .next t ∧ t.now = s.now + 1 ∧
      t.ctb.timeOfDay = (if s.ctb.timeOfDay + 1 ≥ 864000 then 0 else s.ctb.timeOfDay + 1) ∧
      t.ctb.beaconInterval = s.ctb.beaconInterval ∧ t.pl = s.pl ∧ t.config = s.config ∧ t.er.rules = s.er.rules ∧
      t.oc.limits = s.oc.limits ∧ t.pm.policy = s.pm.policy ∧ t.qw.arterialLimits = s.qw.arterialLimits ∧
      t.qw.sideLimits = s.qw.sideLimits ∧ t.pt.earlySlack = s.pt.earlySlack ∧ t.pt.lateSlack = s.pt.lateSlack ∧
      t.pt.minimumSize = s.pt.minimumSize ∧ t.ps.table = s.ps.table ∧ t.clc.pollRound = s.clc.pollRound ∧
      (∀ l, (t.link l).distance = (s.link l).distance ∧ (t.link l).speed = (s.link l).speed ∧
        (t.link l).lead = (s.link l).lead ∧ (t.link l).depth = (s.link l).depth) ∧
      (s.ps.requested = none → t.ps.persistenceSetting = s.ps.persistenceSetting) ∧
      t.sli.supRate = s.sli.supRate ∧ t.sli.corRate = s.sli.corRate ∧ t.sli.mode = s.sli.mode ∧ t.sli.replySlot = s.sli.replySlot ∧
      t.sli.enabled = s.sli.enabled

/-- A CYCLE-MARK that is due sets the anchor to its running time, C to the length of the image (900 with none), and the
beacon deadline one interval on; it closes the demand of the ended cycle and counts every budget down. The plan pending then
takes effect when its slot is VALID and no write is in flight; while one is, the image stays. The beacon deadline
expires: it is set one interval on, and a BEACON is claimed while the beacon condition holds, taking the place of one that is
queued; while it does not hold, no BEACON stands in the queue. A mark that is not due changes nothing, which is the model's
choice (notes/assumptions/1.md). -/
def Obligations.CycleMarkAndBeaconDeadline : Prop :=
  (∀ s : State, elapsed s.now s.ctb.anchor = s.ctb.cycleLength →
    ∃ t, exec .cycleMark s = .next t ∧
      t.ctb = { s.ctb with anchor := s.now, beaconDeadline := later s.now s.ctb.beaconInterval,
                           cycleLength := (t.ps.image.elim 900 (fun i => i.plan.header.cycleLength)) } ∧
      t.ps.inboundFlow = moveToward s.ps.inboundFlow (min 9999 (s.ps.inboundAccumulator * 36000 / s.ctb.cycleLength)) 4 ∧
      t.ps.outboundFlow = moveToward s.ps.outboundFlow (min 9999 (s.ps.outboundAccumulator * 36000 / s.ctb.cycleLength)) 4 ∧
      t.ps.inboundAccumulator = 0 ∧ t.ps.outboundAccumulator = 0 ∧ (∀ p, t.budget p = s.budget p - 1) ∧
      t.pl = s.pl ∧ t.config = s.config ∧ t.er = s.er ∧ t.oc.limits = s.oc.limits ∧ t.pm.policy = s.pm.policy ∧
      t.sli.mode = s.sli.mode ∧ t.sli.replySlot = s.sli.replySlot) ∧
  (∀ s : State, elapsed s.now s.ctb.anchor ≠ s.ctb.cycleLength → exec .cycleMark s = .next s) ∧
  (∀ s : State, elapsed s.now s.ctb.anchor = s.ctb.cycleLength →
    (∀ slot cause plan, s.ps.pendingPlan = some { slot := slot, cause := cause } → s.pl.write = .idle →
      s.pl.slots.get slot = .valid plan →
      ∃ t, exec .cycleMark s = .next t ∧ t.ps.image = some { slot := slot, plan := plan } ∧
        t.ctb.cycleLength = plan.header.cycleLength) ∧
    (s.pl.write ≠ .idle →
      ∃ t, exec .cycleMark s = .next t ∧ t.ps.image = s.ps.image)) ∧
  ∀ s : State, s.ctb.beaconDeadline = s.now →
    let s' : State := { s with ctb := { s.ctb with beaconDeadline := later s.now s.ctb.beaconInterval } }
    (beaconCondition s = false →
      ∃ t, exec .beaconDeadlineExpiry s = .next t ∧ Settles s' t ∧ (∀ e ∈ t.clc.queue, e.command ≠ .beacon) ∧
        (lineTaken s → t.clc.queue = s.clc.queue.filter (fun e => e.command != .beacon))) ∧
    (beaconCondition s = true → lineTaken s → s.clc.queue.length < 24 →
      ∃ t, exec .beaconDeadlineExpiry s = .next t ∧ Settles s' t ∧ t.clc.line = s.clc.line ∧
        t.clc.queue = joinQueue
          { command := .beacon, address := 0, position := none, route := none, joined := s.now, attempts := 0,
            onLine := false }
          (s.clc.queue.filter (fun e => e.command != .beacon)))


/-- A CYCLE-MARK that is due, at a position: when no plan is pending and no mode requested, the image and the mode stand. In
FREE every coordinated position goes LOCAL with reason FREE, and a RUN-LOCAL is queued for it where it finds a place.
Otherwise a LOCAL position that waits for a mark enters SEEKING when every condition of R15 holds, with its target from the
image and its trim, and else takes the reason NOT-IN-PLAN or AWAITING-MARK. The trim of an IDENTIFIED position of mode FULL
with two errors or more moves by the trim step, and every accumulator is emptied. -/
def Obligations.MarkExaminesThePositions : Prop :=
  ∀ (p : Pos) (s : State), elapsed s.now s.ctb.anchor = s.ctb.cycleLength → s.ps.pendingPlan = none → s.ps.requested = none →
    s.ctb.cycleLength = s.ps.newLength →
    let c := s.coord p
    let waits := ∃ reason, c.state = .inLocal reason ∧ (reason = .awaitingMark ∨ reason = .free ∨ reason = .notInPlan)
    let may := s.sli.mode = .live ∧ (s.health p).state ≠ .cutOff ∧ (s.health p).quietTimer = none ∧ c.fieldLocal = false ∧
      ((s.ident p).mode = some .full ∨ (s.ident p).mode = some .timed ∨ (s.ident p).mode = some .paced) ∧ s.owner p = .none
    let errors := s.pt.accumulators.get p
    let refined := (s.ident p).state = .identified ∧ (s.ident p).mode = some .full
    let step : Int := if 2 ≤ errors.count then Int.tdiv errors.sum (2 * errors.count) else 0
    let limit : Int := s.oc.limits.trimLimit
    ∃ t, exec .cycleMark s = .next t ∧ t.ps.image = s.ps.image ∧ t.ps.mode = s.ps.mode ∧
      t.ctb.cycleLength = s.ctb.cycleLength ∧
      (s.ps.mode = .free →
        (coordinated c.state = true ∨ waits → (t.coord p).state = .inLocal .free ∧
          (coordinated c.state = true →
            (t.coord p).measured = none ∧ (t.coord p).settle = none ∧ (t.coord p).grant = none ∧
              (runLocalFits s p 12 → runLocalQueued t p))) ∧
        (t.coord p).refusals = c.refusals ∧ (t.coord p).commanded = false) ∧
      (s.ps.mode ≠ .free → waits →
        (∀ e, s.imageEntry p = some e → may →
          (t.coord p).state = .seeking .lengthen ∧ (t.coord p).refusals = 0 ∧ (t.coord p).measured = none ∧
            (t.coord p).target = some (targetOf e (t.coord p).trim s.ctb.cycleLength) ∧
            ((t.coord p).commanded = true ↔ ∃ x, (t.coord p).target = some x ∧ x.commandPoint = 0)) ∧
        (∀ e, s.imageEntry p = some e → ¬ may → (t.coord p).state = .inLocal .awaitingMark) ∧
        (s.imageEntry p = none → (t.coord p).state = .inLocal .notInPlan)) ∧
      (s.ps.mode ≠ .free → ¬ waits → steered c.state = false → (t.coord p).state = c.state ∧ (t.coord p).commanded = false) ∧
      (s.ps.mode ≠ .free → steered c.state = true → ¬ refined → (∀ x, c.target = some x → x.commandPoint ≠ 0) →
        t.coord p = { c with commanded := false }) ∧
      (-limit ≤ c.trim → c.trim ≤ limit →
        (t.coord p).trim = if refined then max (-limit) (min limit (c.trim + step)) else c.trim) ∧
      (t.pt.accumulators.get p = { sum := 0, count := 0 }) ∧ t.pt.errorBase = s.pt.errorBase ∧ t.er = s.er ∧
      (∀ q, { t.ident q with retry := none } = { s.ident q with retry := none }) ∧ t.config = s.config

/-- A plan takes effect at a CYCLE-MARK: every trim is 0 and every pending grant absent, every target comes from the new
image, and the error base is the mark. A coordinated position without an entry goes LOCAL with reason NOT-IN-PLAN, and a
RUN-LOCAL is queued for it where it finds a place. With another C every steered position is SEEKING, LENGTHEN, unmeasured and
without a settle stamp; with the same C a SEEKING position keeps its measurement. A refusal count of 4 becomes 0. The queued
TIMING-SETs are those of this mark's own command points. -/
def Obligations.PlanTakesEffectAtTheMark : Prop :=
  ∀ (slot : SlotIx) (cause : PlanCause) (plan : Plan) (s : State), elapsed s.now s.ctb.anchor = s.ctb.cycleLength →
    s.ps.pendingPlan = some { slot := slot, cause := cause } → s.pl.write = .idle → s.pl.slots.get slot = .valid plan →
    s.ps.requested = none → s.ps.mode ≠ .free →
    let cycle := plan.header.cycleLength
    let target (p : Pos) : Option Target := (plan.entries.get p).map (fun e => targetOf e 0 cycle)
    ∃ t, exec .cycleMark s = .next t ∧ t.ps.image = some { slot := slot, plan := plan } ∧ t.ctb.cycleLength = cycle ∧
      (∀ p, (t.coord p).trim = 0 ∧ (t.coord p).grant = none ∧ (t.coord p).target = target p) ∧
      (∀ p, (s.coord p).refusals = 4 → (t.coord p).refusals = 0) ∧
      (∀ p, coordinated (s.coord p).state = true → plan.entries.get p = none →
        (t.coord p).state = .inLocal .notInPlan ∧ (t.coord p).measured = none ∧ (t.coord p).settle = none ∧
          (runLocalFits s p 13 → runLocalQueued t p)) ∧
      (∀ p, (s.coord p).state = .preempted → plan.entries.get p ≠ none → (t.coord p).state = .preempted) ∧
      (∀ p, steered (s.coord p).state = true → plan.entries.get p ≠ none → cycle ≠ s.ctb.cycleLength →
        (t.coord p).state = .seeking .lengthen ∧ (t.coord p).measured = none ∧ (t.coord p).settle = none) ∧
      (∀ p way, (s.coord p).state = .seeking way → plan.entries.get p ≠ none → cycle = s.ctb.cycleLength →
        (∀ x, target p = some x → x.commandPoint ≠ 0) → (s.coord p).refusals < 4 →
        t.coord p = { s.coord p with trim := 0, grant := none, target := target p, commanded := false }) ∧
      (∀ p, (s.coord p).state = .inStep → plan.entries.get p ≠ none → cycle = s.ctb.cycleLength →
        steered (t.coord p).state = true ∧ ((s.coord p).target = target p → (t.coord p).state = .inStep)) ∧
      (∀ e ∈ t.clc.queue, e.command.isTimingSet = true → ∃ p, e.position = some p ∧ (t.coord p).commanded = true) ∧
      t.pt.errorBase = some s.now ∧ (∀ p, t.pt.accumulators.get p = { sum := 0, count := 0 }) ∧ t.er = s.er ∧
      (∀ q, { t.ident q with retry := none } = { s.ident q with retry := none }) ∧ t.config = s.config

/-- The Plan Selector at a CYCLE-MARK. The requested mode becomes the selector mode with the effects of R124, on a plan that
stands deferred too: a PIN replaces it, a RELOAD of the pinned active slot is kept, and RESPONSIVE from another mode drops it
and forgets the candidate. A pin taken up from FREE is loaded at once, or deferred while a write is in flight. In RESPONSIVE
mode the first entry that fits the flows just closed and whose slot is VALID is the candidate, which becomes pending, with
cause DEMAND, when it has been seen through the persistence setting, replacing a pending plan of another slot; a DEMAND is
withdrawn when the candidate is the active slot, and from FREE a setting of 1 loads the candidate at once. A pending plan
whose slot is not VALID is abandoned and the image stays; while a write is in flight it is deferred. -/
def Obligations.SelectorActsAtTheMark : Prop :=
  ∀ s : State, elapsed s.now s.ctb.anchor = s.ctb.cycleLength → ∃ t, exec .cycleMark s = .next t ∧
    t.ps.requested = none ∧ t.ps.table = s.ps.table ∧
    (s.ps.requested = some .free →
      t.ps.mode = .free ∧ t.ps.pendingPlan = none ∧ t.ps.deferrals = 0 ∧ t.ps.previousCandidate = none ∧
        t.ps.persistenceCount = 0) ∧
    (∀ slot, s.ps.requested = some (.pinned slot) → t.ps.mode = .pinned slot) ∧
    (∀ slot plan, s.ps.requested = some (.pinned slot) → s.ps.mode = .free → s.ps.pendingPlan = none → s.pl.write = .idle →
      s.pl.slots.get slot = .valid plan →
      t.ps.image = some { slot := slot, plan := plan } ∧ t.ps.pendingPlan = none ∧ t.ps.deferrals = 0) ∧
    (∀ slot, s.ps.requested = some (.pinned slot) → s.ps.mode = .free → s.ps.pendingPlan = none → s.pl.write ≠ .idle →
      t.ps.image = s.ps.image ∧ t.ps.pendingPlan = some { slot := slot, cause := .pin } ∧ t.ps.deferrals = 1) ∧
    (∀ slot, s.ps.requested = some (.pinned slot) → s.ps.mode ≠ .free → (s.ps.pendingPlan = none ∨ s.pl.write ≠ .idle) →
      let active := s.ps.image.map ActiveImage.slot = some slot
      let reload := s.ps.pendingPlan = some { slot := slot, cause := .reload }
      t.ps.image = s.ps.image ∧ t.ps.previousCandidate = none ∧ t.ps.persistenceCount = 0 ∧
        (¬ active → t.ps.pendingPlan = some { slot := slot, cause := .pin } ∧ t.ps.deferrals = 0) ∧
        (active → ¬ reload → t.ps.pendingPlan = none ∧ t.ps.deferrals = 0) ∧
        (active → reload → t.ps.pendingPlan = s.ps.pendingPlan ∧ t.ps.deferrals = min 255 (s.ps.deferrals + 1))) ∧
    (∀ n, s.ps.requested = some (.responsive n) → t.ps.mode = .responsive ∧ t.ps.persistenceSetting = n) ∧
    (s.ps.requested = none → t.ps.mode = s.ps.mode ∧ t.ps.persistenceSetting = s.ps.persistenceSetting) ∧
    (∀ x, s.ps.pendingPlan = some x → s.pl.write = .idle → (∀ plan, s.pl.slots.get x.slot ≠ .valid plan) →
      s.ps.requested = none → s.ps.mode ≠ .responsive →
      t.ps.image = s.ps.image ∧ t.ps.pendingPlan = none ∧ t.ps.deferrals = 0 ∧ t.ps.previousCandidate = none ∧
        t.ps.persistenceCount = 0) ∧
    (∀ x, s.ps.pendingPlan = some x → s.pl.write ≠ .idle → s.ps.requested = none → s.ps.mode ≠ .responsive →
      t.ps.image = s.ps.image ∧ t.ps.pendingPlan = some x ∧ t.ps.deferrals = min 255 (s.ps.deferrals + 1) ∧
        t.ps.previousCandidate = s.ps.previousCandidate ∧ t.ps.persistenceCount = s.ps.persistenceCount) ∧
    ((s.ps.requested = none ∧ s.ps.mode = .responsive) ∨ (∃ n, s.ps.requested = some (.responsive n)) →
      (s.ps.pendingPlan = none ∨ s.pl.write ≠ .idle) →
      let setting := t.ps.persistenceSetting
      let total := t.ps.inboundFlow + t.ps.outboundFlow
      let share := if total = 0 then 0 else t.ps.inboundFlow * 100 / total
      let fitting (i : SelectIx) (slot : SlotIx) : Prop := ∃ e, s.ps.table.get i = some e ∧ e.slot = slot ∧
        (∃ plan, s.pl.slots.get slot = .valid plan) ∧ e.minTotal ≤ total ∧ total ≤ e.maxTotal ∧ e.minShare ≤ share ∧
        share ≤ e.maxShare
      let chosen (i : SelectIx) (slot : SlotIx) : Prop := fitting i slot ∧ ∀ j other, j < i → ¬ fitting j other
      let active (slot : SlotIx) : Prop := s.ps.image.map ActiveImage.slot = some slot
      let follows := s.ps.mode = .responsive
      let standing := if follows then s.ps.pendingPlan else none
      let waited := if follows then (if s.ps.pendingPlan = none then s.ps.deferrals else min 255 (s.ps.deferrals + 1)) else 0
      let seen := if follows then s.ps.previousCandidate else none
      (s.ps.mode = .free → s.ps.pendingPlan = none → s.pl.write = .idle → setting ≤ 1 →
        ∀ i slot plan, chosen i slot → ¬ active slot → s.pl.slots.get slot = .valid plan →
          t.ps.image = some { slot := slot, plan := plan } ∧ t.ps.pendingPlan = none ∧ t.ps.deferrals = 0) ∧
      ((s.ps.mode = .free → 1 < setting) →
        let kept := t.ps.pendingPlan = standing ∧ t.ps.deferrals = waited
        t.ps.image = s.ps.image ∧
        ((∀ i slot, ¬ fitting i slot) → kept ∧ t.ps.previousCandidate = none ∧ t.ps.persistenceCount = 0) ∧
        ∀ i slot, chosen i slot →
          t.ps.previousCandidate = some slot ∧
          (active slot →
            t.ps.persistenceCount = 0 ∧
            (standing.map PendingPlan.cause = some .demand → t.ps.pendingPlan = none ∧ t.ps.deferrals = 0) ∧
            (standing.map PendingPlan.cause ≠ some .demand → kept)) ∧
          (¬ active slot →
            let count := if seen = some slot then s.ps.persistenceCount + 1 else 1
            (count < setting → kept ∧ t.ps.persistenceCount = count) ∧
            (setting ≤ count →
              t.ps.persistenceCount = 0 ∧
              (standing.map PendingPlan.slot = some slot → kept) ∧
              (standing.map PendingPlan.slot ≠ some slot →
                t.ps.pendingPlan = some { slot := slot, cause := .demand } ∧ t.ps.deferrals = 0)))))

/-- SET-TIME sets the time of day and nothing else, and the next decisecond advances the clock from the new value. SET-BEACON
sets the interval, and the deadline one new interval on. A value out of range changes nothing. A power-on reset and PART-RESET
set interval and deadline to 100; COORD-RESTART, a line reset, GO-LIVE and GO-SETUP leave both. -/
def Obligations.TimeAndBeaconSet : Prop :=
  (∀ (v : Nat) (s : State), Ready s →
     (v ≤ 863999 →
       ∃ t, t = ({ s with ctb := { s.ctb with timeOfDay := v } } : State).answered .setTime (.done .none) ∧
         exec (.setTime (.fields v)) s = .next t ∧
         ∃ u, exec .decisecondTick t = .next u ∧ u.ctb.timeOfDay = (if v = 863999 then 0 else v + 1)) ∧
     (864000 ≤ v → exec (.setTime (.fields v)) s = .next (s.answered .setTime (.badValue 0 1)))) ∧
  (∀ (v : Nat) (s : State), Ready s →
    (20 ≤ v ∧ v ≤ 300 →
      exec (.setBeacon (.fields v)) s = .next
        (({ s with ctb := { s.ctb with beaconInterval := v, beaconDeadline := later s.now v } } : State).answered
          .setBeacon (.done .none))) ∧
    (¬ (20 ≤ v ∧ v ≤ 300) → exec (.setBeacon (.fields v)) s = .next (s.answered .setBeacon (.badValue 0 1)))) ∧
  (∀ (supRate corRate : Bool) (s : State), ∃ t, exec (.powerOnReset supRate corRate) s = .next t ∧
    t.ctb.beaconInterval = 100 ∧ t.ctb.beaconDeadline = 100) ∧
  (∀ s : State, s.sli.resetPending = true → s.sli.replySlot = none → s.pl.write = .idle →
    ∃ t, exec .partResetActs s = .next t ∧ t.ctb.beaconInterval = 100 ∧ t.ctb.beaconDeadline = 100) ∧
  ∀ (c : Instr) (n : Nat) (s : State),
    c = .coordRestart (.fields ()) ∨ c = .lineSilenceExpiry ∨ c = .goLive (.fields n) ∨ c = .goSetup (.fields ()) →
    ∃ t, exec c s = .next t ∧ t.ctb.beaconInterval = s.ctb.beaconInterval ∧ t.ctb.beaconDeadline = s.ctb.beaconDeadline


/-! ### Offset coordination (02) -/

/-- A command point is handled: with `a` as R32 gives it, the TIMING-SET carries the slot, C and C + a, and the main green of
R27, R28 and R33, and is offered to the queue: it joins as the youngest of its class, in place of one queued for the position,
and a full queue settles the offer as OffersToTheQueue says. The main green is the base, the overlay over it and the
grant over both, clamped to min main and max main and then to what side minimum and lost time leave of the next cycle; so it
lies between min main and max main of the entry, and leaves both within the next cycle. -/
def Obligations.CommandPointBuildsTimingSet : Prop :=
  (∀ (p : Pos) (s : State) (slot : SlotIx) (plan : Plan) (e : PlanEntry) (target : Target) (cfg : PositionConfig),
    commandPointDue s p = true → s.ps.image = some { slot := slot, plan := plan } → plan.entries.get p = some e →
    (s.coord p).target = some target → s.config.get p = some cfg → s.ps.mode ≠ .free → lineTaken s →
    let cycle := s.ctb.cycleLength
    let lmax := s.oc.limits.lengthen * cycle / 100
    let smax := s.oc.limits.shorten * cycle / 100
    let room := cycle - (e.minMain + e.sideMin + e.lostTime)
    let builds (a : Int) : Prop :=
      ∃ t figures, exec (.commandPoint p) s = .next t ∧ figures.planNumber = slot.val + 1 ∧ figures.cycleLength = cycle ∧
        (figures.nextCycle : Int) = (cycle : Int) + a ∧
        figures.mainGreen = (timingFor s p slot e a).mainGreen ∧
        (let entry : QueueEntry :=
          { command := .timingSet figures, address := cfg.address, position := some p, route := none, joined := s.now,
            attempts := 0, onLine := false }
         t.clc.queue = (offerEntry entry s).1.clc.queue ∧
          (s.clc.queue.length < 24 → t.ih.ident = s.ih.ident ∧
            t.clc.queue = joinQueue entry
              (s.clc.queue.filter (fun x => !(x.command.isTimingSet && x.position == some p))))) ∧
        (t.coord p).commanded = true ∧ (t.coord p).grant = none ∧ (t.coord p).trim = (s.coord p).trim ∧
        (t.coord p).target = (s.coord p).target ∧ (∀ q, q ≠ p → t.coord q = s.coord q) ∧ t.pt = s.pt ∧ t.qw = s.qw ∧
        t.pm = s.pm ∧ t.ps = s.ps ∧ t.er = s.er ∧ t.ih.health = s.ih.health ∧ LeavesStores s t
    ((s.coord p).state = .inStep → builds 0) ∧
    (∀ way, (s.coord p).state = .seeking way →
      ((s.coord p).measured = none → builds 0) ∧
      ∀ m, (s.coord p).measured = some m →
        (cycle < elapsed s.now m.time → builds 0) ∧
        (elapsed s.now m.time ≤ cycle →
          let d := modC ((target.offset : Int) - m.offset) cycle
          let lengthens := room = 0 ∨ ceilDiv d lmax ≤ ceilDiv (cycle - d) smax
          (lengthens → builds (min d lmax : Nat)) ∧
          (¬ lengthens → builds (-((min (min (cycle - d) smax) room : Nat) : Int)))))) ∧
  (∀ (s : State) (p : Pos) (slot : SlotIx) (e : PlanEntry) (a : Int), e.minMain ≤ e.maxMain →
    let side := (s.approach p .side).heard
    let low := s.oc.limits.sideLow
    let range := s.oc.limits.sideRange
    let base := match side with
      | none => e.mainGreen
      | some h =>
        if e.adapt = true ∧ ((s.ident p).mode = some .full ∨ (s.ident p).mode = some .timed) then
          (if h.smoothed ≤ low then e.maxMain else if low + range ≤ h.smoothed then e.minMain
            else e.minMain + (e.maxMain - e.minMain) * (low + range - h.smoothed) / range)
        else e.mainGreen
    let overlaid := if (s.qw.overlays p).flush = true then e.maxMain
      else if (s.qw.overlays p).gate = true ∨ (s.qw.overlays p).sideRelief = true then e.minMain else base
    let target := match (s.coord p).grant with
      | none => overlaid
      | some extension => min (overlaid + extension) e.maxMain
    (timingFor s p slot e a).mainGreen =
      if (s.ident p).mode = some .paced then none
      else some (min (max e.minMain (min target e.maxMain))
        ((s.ctb.cycleLength : Int) + a - e.lostTime - e.sideMin).toNat)) ∧
  ∀ (s : State) (p : Pos) (slot : SlotIx) (e : PlanEntry) (a : Int) (g : Nat),
    e.minMain ≤ e.mainGreen → e.mainGreen ≤ e.maxMain → e.maxMain + e.sideMin + e.lostTime ≤ s.ctb.cycleLength →
    -(room e s.ctb.cycleLength : Int) ≤ a → (timingFor s p slot e a).mainGreen = some g →
    e.minMain ≤ g ∧ g ≤ e.maxMain ∧ (g : Int) + e.sideMin + e.lostTime ≤ (s.ctb.cycleLength : Int) + a

/-- A STATUS without records or flags measures a steered position, and its state follows the measurement: SEEKING enters
IN-STEP within the tolerance, IN-STEP leaves it beyond the tolerance by more than 10. One with another local cycle length, or a
position beyond it, takes the measurement away and IN-STEP to SEEKING; one whose cycle began before the settle stamp leaves it. A
position that the STATUS finds in LOCAL, UNSEEN or PREEMPTED is not measured. -/
def Obligations.StatusMeasuresTheOffset : Prop :=
  (∀ (p : Pos) (x : Exchange) (address localPosition plan : Nat) (stage : SignalStage) (code : Nat) (target : Target)
    (s : State),
    awaiting s x p → x.work = .poll → address = x.address → stageOf code = some stage → pollEligible s p = true →
    s.owner p = .none → (s.health p).score < 160 → (s.coord p).target = some target → localPosition < s.ctb.cycleLength →
    (∀ stamp, (s.coord p).settle = some stamp → before stamp.stamp (earlier s.now localPosition) = true) →
    steered (s.coord p).state = true →
    let offset := modC ((s.cyclePosition : Int) - localPosition) s.ctb.cycleLength
    let diff := (wrapHalf ((target.offset : Int) - offset) s.ctb.cycleLength).natAbs
    ∃ t, exec (.status address { localPosition := localPosition, localLength := s.ctb.cycleLength, stage := code, flags := 0,
                                 planInUse := plan, records := [] }) s = .next t ∧
      (t.coord p).measured = some { offset := offset, time := s.now } ∧ (t.coord p).settle = none ∧
      (t.coord p).target = (s.coord p).target ∧ (t.coord p).trim = (s.coord p).trim ∧
      (∀ way, (s.coord p).state = .seeking way → ((t.coord p).state = .inStep ↔ diff ≤ s.oc.limits.tolerance)) ∧
      ((s.coord p).state = .inStep → ((t.coord p).state = .inStep ↔ diff ≤ s.oc.limits.tolerance + 10)) ∧
      steered (t.coord p).state = true ∧ (∀ q, q ≠ p → t.coord q = s.coord q) ∧ t.pt = s.pt ∧ t.qw = s.qw ∧ t.pm = s.pm ∧
      t.er = s.er ∧ LeavesStores s t) ∧
  (∀ (p : Pos) (x : Exchange) (reply : StatusFields) (s : State),
    Polled s x p → (stageOf reply.stage).isSome = true → reply.records = [] → reply.flags = 0 → s.owner p = .none →
    steered (s.coord p).state = true →
    let fits := reply.localLength = s.ctb.cycleLength ∧ reply.localPosition < reply.localLength
    ∃ t, exec (.status x.address reply) s = .next t ∧
      (¬ fits → (t.coord p).measured = none ∧ (t.coord p).settle = (s.coord p).settle ∧
        (t.coord p).state = (if (s.coord p).state = .inStep then .seeking .lengthen else (s.coord p).state)) ∧
      (fits → ∀ stamp, (s.coord p).settle = some stamp →
        before stamp.stamp (earlier s.now reply.localPosition) = false →
        t.coord p = { s.coord p with fieldLocal := false }) ∧
      (∀ q, q ≠ p → t.coord q = s.coord q) ∧ t.pt = s.pt ∧ t.qw = s.qw ∧ t.pm = s.pm ∧ t.er = s.er ∧ LeavesStores s t) ∧
  ∀ (p : Pos) (x : Exchange) (reply : StatusFields) (s : State),
    Polled s x p → (stageOf reply.stage).isSome = true → reply.records = [] → steered (s.coord p).state = false →
    ∃ t, exec (.status x.address reply) s = .next t ∧
      ((s.coord p).measured = none → (t.coord p).measured = none) ∧ LeavesStores s t

/-- The flags of a STATUS without records. FIELD-LOCAL set takes a coordinated position to LOCAL, its TIMING-SET being
withdrawn and a RUN-LOCAL queued where it finds a place, and a LOCAL one that waits for a mark to the reason FIELD-LOCAL;
clear, it gives FIELD-LOCAL up for AWAITING-MARK. PREEMPTING set gives a position without an owner a local call and preempts
it; clear, it ends a local call: the position takes up SEEKING with its target from the image as it stands and without a
measurement, or LOCAL, with a RUN-LOCAL, where the image has no entry for it. -/
def Obligations.StatusFlagsActed : Prop :=
  ∀ (p : Pos) (x : Exchange) (reply : StatusFields) (s : State),
    Polled s x p → (stageOf reply.stage).isSome = true → reply.records = [] →
    ∃ t, exec (.status x.address reply) s = .next t ∧
      (∀ q, q ≠ p → (∀ r ∈ s.pm.routes, ∀ m ∈ r.members, m.position ≠ q) → t.coord q = s.coord q ∧ t.owner q = s.owner q) ∧
      (bit reply.flags 0 = true →
        (t.coord p).fieldLocal = true ∧
        (coordinated (s.coord p).state = true →
          t.coord p = { s.coord p with
            state := .inLocal .fieldLocal, measured := none, settle := none, grant := none, commanded := false,
            fieldLocal := true } ∧
          (∀ e ∈ t.clc.queue, e.position = some p → e.command.isTimingSet = false) ∧
          (runLocalFits s p 1 → s.pm.routeFrom p = none → runLocalQueued t p)) ∧
        (∀ reason, (s.coord p).state = .inLocal reason →
          (t.coord p).state = .inLocal
            (if reason = .awaitingMark ∨ reason = .free ∨ reason = .notInPlan then .fieldLocal else reason))) ∧
      (bit reply.flags 0 = false →
        (t.coord p).fieldLocal = false ∧
        ∀ reason, (s.coord p).state = .inLocal reason →
          (t.coord p).state = .inLocal (if reason = .fieldLocal then .awaitingMark else reason)) ∧
      (bit reply.flags 1 = true →
        (s.owner p ≠ .none → t.pm = s.pm) ∧
        (s.owner p = .none →
          t.pm = { s.pm with owners := s.pm.owners.set p.val (.localCall .none) } ∧
          (bit reply.flags 0 = false → steered (s.coord p).state = true →
            t.coord p = { s.coord p with
              state := .preempted, measured := none, settle := none, grant := none, commanded := false,
              fieldLocal := false } ∧
            ∀ e ∈ t.clc.queue, e.position = some p → e.command.isTimingSet = false))) ∧
      (bit reply.flags 1 = false →
        ((∀ d, s.owner p ≠ .localCall d) → t.pm = s.pm) ∧
        (∀ d, s.owner p = .localCall d → t.owner p = .none ∧
          t.pm.routes = s.pm.routes.filter (fun r => r.ref.origin != p) ∧
          (bit reply.flags 0 = false → (s.coord p).state = .preempted →
            (∀ e, s.imageEntry p = some e →
              t.coord p = { s.coord p with
                state := .seeking .lengthen, measured := none, commanded := false, fieldLocal := false,
                target := some (targetOf e (s.coord p).trim s.ctb.cycleLength) }) ∧
            (s.imageEntry p = none → (t.coord p).state = .inLocal .notInPlan ∧ (t.coord p).measured = none ∧
              (runLocalFits s p 1 → s.pm.routeFrom p = none → runLocalQueued t p))))) ∧
      t.pt = s.pt ∧ t.qw = s.qw ∧ t.er = s.er ∧ t.ps = s.ps ∧ LeavesStores s t

/-- The answers to a TIMING-SET. An ACK, or a HEARTBEAT in its place, makes the refusal count 0; with a next-cycle length
other than the cycle length, a steered position takes the settle stamp and its measurement becomes absent. A NAK of a counted
reason raises the refusal count by one, to 4 at most; at 4 a coordinated position goes LOCAL with reason REFUSING. A NAK
PREEMPTING gives a position without an owner a local call and preempts it; a NAK LOCAL-CONTROL sets the field-local flag and
takes the position to LOCAL, or its reason to FIELD-LOCAL. With REFUSING and FIELD-LOCAL a RUN-LOCAL is queued where it finds
a place. The settle stamp becomes absent 3 × C after it was set, and nothing else of the position changes. That NAK
PREEMPTING acts in SETUP too is the model's reading (notes/assumptions/12.md). -/
def Obligations.TimingSetAnswered : Prop :=
  (∀ (p : Pos) (x : Exchange) (figures : TimingSet) (route : Option RouteRef) (c : Instr) (s : State),
     awaiting s x p → x.work = .command (.timingSet figures) route → (s.health p).score < 160 →
     c = .ack x.address ∨ c = .heartbeat x.address →
     ∃ t, exec c s = .next t ∧
       (figures.nextCycle ≠ figures.cycleLength ∧ steered (s.coord p).state = true →
         t.coord p = { s.coord p with
           refusals := 0, measured := none,
           settle := some { stamp := s.now, lapses := later s.now (3 * s.ctb.cycleLength) } }) ∧
       (¬ (figures.nextCycle ≠ figures.cycleLength ∧ steered (s.coord p).state = true) →
         t.coord p = { s.coord p with refusals := 0 }) ∧
       (∀ q, q ≠ p → t.coord q = s.coord q) ∧ t.pt = s.pt ∧ t.qw = s.qw ∧ t.pm = s.pm ∧ t.er = s.er ∧ LeavesStores s t) ∧
  (∀ (p : Pos) (x : Exchange) (figures : TimingSet) (route : Option RouteRef) (code : Nat) (reason : NakReason) (s : State),
    awaiting s x p → x.work = .command (.timingSet figures) route → (s.health p).score < 160 →
    nakReasonOf code = some reason → reason ≠ .preempting → reason ≠ .localControl →
    ∃ t, exec (.nak x.address code) s = .next t ∧ (t.coord p).refusals = min 4 ((s.coord p).refusals + 1) ∧
      (3 ≤ (s.coord p).refusals → coordinated (s.coord p).state = true →
        (t.coord p).state = .inLocal .refusing ∧ (runLocalFits s p 1 → runLocalQueued t p)) ∧
      ((s.coord p).refusals < 3 ∨ coordinated (s.coord p).state = false →
        t.coord p = { s.coord p with refusals := min 4 ((s.coord p).refusals + 1) }) ∧
      (∀ q, q ≠ p → t.coord q = s.coord q) ∧ t.pt = s.pt ∧ t.qw = s.qw ∧ t.pm = s.pm ∧ t.er = s.er ∧ LeavesStores s t) ∧
  (∀ (p : Pos) (x : Exchange) (figures : TimingSet) (route : Option RouteRef) (s : State),
    awaiting s x p → x.work = .command (.timingSet figures) route → (s.health p).score < 160 →
    ∃ t, exec (.nak x.address 2) s = .next t ∧
      (s.owner p ≠ .none → t.pm = s.pm ∧ t.oc = s.oc) ∧
      (s.owner p = .none →
        t.pm = { s.pm with owners := s.pm.owners.set p.val (.localCall .none) } ∧
        (steered (s.coord p).state = false → t.oc = s.oc) ∧
        (steered (s.coord p).state = true →
          t.coord p = { s.coord p with
            state := .preempted, measured := none, settle := none, grant := none, commanded := false })) ∧
      (∀ q, q ≠ p → t.coord q = s.coord q) ∧ t.pt = s.pt ∧ t.qw = s.qw ∧ t.er = s.er ∧ LeavesStores s t) ∧
  (∀ (p : Pos) (x : Exchange) (figures : TimingSet) (route : Option RouteRef) (s : State),
    awaiting s x p → x.work = .command (.timingSet figures) route → (s.health p).score < 160 →
    ∃ t, exec (.nak x.address 3) s = .next t ∧
      (coordinated (s.coord p).state = true →
        t.coord p = { s.coord p with
          state := .inLocal .fieldLocal, measured := none, settle := none, grant := none, commanded := false,
          fieldLocal := true } ∧ (runLocalFits s p 1 → runLocalQueued t p)) ∧
      (∀ reason, (s.coord p).state = .inLocal reason →
        t.coord p = { s.coord p with
          state := .inLocal (if reason = .awaitingMark ∨ reason = .free ∨ reason = .notInPlan then .fieldLocal else reason),
          fieldLocal := true }) ∧
      ((s.coord p).state = .unseen → t.coord p = { s.coord p with fieldLocal := true }) ∧
      (∀ q, q ≠ p → t.coord q = s.coord q) ∧ t.pt = s.pt ∧ t.qw = s.qw ∧ t.pm = s.pm ∧ t.er = s.er ∧ LeavesStores s t) ∧
  ∀ (p : Pos) (s : State) (x : Settle), (s.coord p).settle = some x → x.lapses = s.now →
    ∃ t, exec (.settleStampExpiry p) s = .next t ∧ Settles (s.withCoord p (fun c => { c with settle := none })) t

/-! ### Platoons and links (03) -/

/-- SET-LINK writes the link record, sets the travel estimate to the new design travel time, re-arms the tracking, and takes
the oldest records above the new depth out of the queue. GET-LINK and GET-PLATOONS give what stands in the link record and its
queue, or name the field out of range, and change no state. A window close expires: the record leaves its queue as LOST, the free
count rises, and the link's consecutive-lost count rises by one, to 3 at most; at 3 the link is UNTRACKED. -/
def Obligations.LinksWrittenReportedAndLost : Prop :=
  (∀ (x : LinkFields) (s : State), Ready s →
    let ok := (50 ≤ x.distance ∧ x.distance ≤ 5000) ∧ (20 ≤ x.speed ∧ x.speed ≤ 90) ∧ x.lead ≤ 200 ∧
      (1 ≤ x.depth ∧ x.depth ≤ 8)
    let field := if x.segment = 0 ∨ 11 < x.segment then 1 else if 1 < x.direction then 2
      else if x.distance < 50 ∨ 5000 < x.distance then 3 else if x.speed < 20 ∨ 90 < x.speed then 4
      else if 200 < x.lead then 5 else 6
    (∀ (k : Segment) (d : Direction), ok → x.segment = k.val + 1 →
      x.direction = (match d with | .inbound => 0 | .outbound => 1) →
      let l : Link := { segment := k, direction := d }
      let q := (s.link l).queue
      ∃ t, exec (.setLink (.fields x)) s = .next t ∧
        t.link l = { distance := x.distance, speed := x.speed,
                     estimate := max 50 (min 1200 (x.distance * 36 / x.speed)), lead := x.lead, depth := x.depth,
                     tracked := true, lost := 0, queue := q.drop (q.length - x.depth) } ∧
        t.pt.freeCount = s.pt.freeCount + (q.length - x.depth) ∧ (∀ m, m ≠ l → t.link m = s.link m) ∧
        t.sli.replySlot = some (.request .setLink (.done .none)) ∧ t.ctb = s.ctb ∧ t.oc = s.oc ∧ t.qw = s.qw ∧
        t.pm = s.pm ∧ t.pl = s.pl ∧ t.ps = s.ps ∧ t.clc = s.clc ∧ t.ih = s.ih ∧ t.er = s.er ∧ t.config = s.config) ∧
    (¬ (ok ∧ 1 ≤ x.segment ∧ x.segment ≤ 11 ∧ x.direction ≤ 1) →
      exec (.setLink (.fields x)) s = .next (s.answered .setLink (.badValue 0 field)))) ∧
  (∀ (k : Segment) (d : Direction) (s : State), Ready s →
    let x : LinkName := { segment := k.val + 1, direction := (match d with | .inbound => 0 | .outbound => 1) }
    let r := s.link { segment := k, direction := d }
    exec (.getLink (.fields x)) s = .next (s.answered .getLink (.done (.link { r with queue := [] }
      (max 50 (min 1200 (r.distance * 36 / r.speed))) r.queue.length))) ∧
    exec (.getPlatoons (.fields x)) s =
      .next (s.answered .getPlatoons (.done (.platoons s.pt.freeCount s.pt.poolEmptyRaised r.queue)))) ∧
  (∀ (x : LinkName) (s : State), Ready s →
    ((x.segment = 0 ∨ 11 < x.segment) →
      exec (.getLink (.fields x)) s = .next (s.answered .getLink (.badValue 0 1)) ∧
      exec (.getPlatoons (.fields x)) s = .next (s.answered .getPlatoons (.badValue 0 1))) ∧
    (1 ≤ x.segment → x.segment ≤ 11 → 1 < x.direction →
      exec (.getLink (.fields x)) s = .next (s.answered .getLink (.badValue 0 2)) ∧
      exec (.getPlatoons (.fields x)) s = .next (s.answered .getPlatoons (.badValue 0 2)))) ∧
  ∀ (n : Nat) (l : Link) (s : State), closingLink s n = some l →
    ∃ t, exec (.windowCloseExpiry n) s = .next t ∧
      t.link l = { s.link l with
        queue := (s.link l).queue.eraseP (fun x => x.number == n), lost := min 3 ((s.link l).lost + 1),
        tracked := (s.link l).tracked && decide ((s.link l).lost + 1 < 3) } ∧
      (t.link l).queue.length + 1 = (s.link l).queue.length ∧ t.pt.freeCount = s.pt.freeCount + 1 ∧
      (∀ m, m ≠ l → t.link m = s.link m) ∧ t.oc = s.oc ∧ t.qw = s.qw ∧ t.pm = s.pm ∧ t.ps = s.ps ∧ t.er = s.er ∧
      LeavesStores s t

/-! ### Queue Watch (04) -/

/-- GET-QUEUE gives the records, overlays, conditions and limits as they stand, or names a field out of range and changes
nothing; the latched worst states then become the present states, and nothing else changes. -/
def Obligations.GetQueueReportsAndRelatches : Prop :=
  (∀ (p : Pos) (s : State), Ready s →
    ∃ t : State, exec (.getQueue (.fields (p.val + 1))) s = .next (t.answered .getQueue (.done (.queue
        { approaches := s.qw.approaches.get p, overlays := s.qw.overlays p, gridlock := s.qw.gridlock.get p,
          arterialLimits := s.qw.arterialLimits, sideLimits := s.qw.sideLimits }))) ∧
      t = { s with qw := { s.qw with approaches := t.qw.approaches } } ∧
      (∀ a, t.approach p a = { s.approach p a with worst := (s.approach p a).state }) ∧
      ∀ q a, q ≠ p → t.approach q a = s.approach q a) ∧
  ∀ (n : Nat) (s : State), Ready s → (n = 0 ∨ 12 < n) →
    exec (.getQueue (.fields n)) s = .next (s.answered .getQueue (.badValue 0 1))

/-! ### Priority (05) -/

/-- A route's timeout and CANCEL-ROUTE end the route: it leaves the table, every other route stays, and the origin keeps its
owner. A member whose ROUTE-CLEAR has not been sent is released at once and the ROUTE-CLEAR removed; every other member keeps its
owner, release pending, and a ROUTE-END is queued for it. CANCEL-ROUTE names a field out of range and answers NO-SUCH for an
origin without a route. An ACK to a ROUTE-CLEAR makes the member HELD, and a NAK takes it out of the list with owner NONE; the
answer to a ROUTE-END, of either kind, hands back a position that is still release pending from that origin, and no other. -/
def Obligations.RouteEndsAndItsAnswers : Prop :=
  (∀ (p : Pos) (r : Route) (s : State), s.pm.routeFrom p = some r → (∀ m ∈ r.members, m.position ≠ p) →
    let unsent (q : Pos) : Prop := ∃ e ∈ s.clc.queue, e.position = some q ∧ e.command.isRouteClear = true ∧ e.attempts = 0
    let membersEnded (t : State) : Prop :=
      (r.members.map Member.position).Nodup → s.clc.queue.length + r.members.length ≤ 24 →
      (s.sli.mode = .live ∨ s.clc.drainFlag = true) →
      (∀ m ∈ r.members, s.owner m.position = .route p ∧ s.config.get m.position ≠ none) →
      ∀ m ∈ r.members,
        (∀ e ∈ t.clc.queue, e.position = some m.position → e.command.isRouteClear = false) ∧
        (unsent m.position → t.owner m.position = .none) ∧
        (¬ unsent m.position → t.owner m.position = .route p ∧
          ∃ e ∈ t.clc.queue, e.command = .routeEnd ∧ e.position = some m.position ∧ e.route = some r.ref)
    (r.deadline = s.now →
      ∃ t, exec (.routeTimeout p) s = .next t ∧ t.pm.routes = s.pm.routes.filter (fun x => x.ref.origin != p) ∧
        t.owner p = s.owner p ∧ membersEnded t ∧ (∀ q, t.budget q = s.budget q) ∧ t.pt = s.pt ∧ t.qw = s.qw ∧
        t.ps = s.ps ∧ t.er = s.er ∧ LeavesStores s t) ∧
    (Ready s →
      ∃ t, exec (.cancelRoute (.fields (p.val + 1))) s = .next t ∧
        t.pm.routes = s.pm.routes.filter (fun x => x.ref.origin != p) ∧ t.owner p = s.owner p ∧ membersEnded t ∧
        (∀ q, t.budget q = s.budget q) ∧ t.sli.replySlot = some (.request .cancelRoute (.done .none)) ∧ t.ctb = s.ctb ∧
        t.pt = s.pt ∧ t.qw = s.qw ∧ t.pl = s.pl ∧ t.ps = s.ps ∧ t.er = s.er ∧ t.config = s.config)) ∧
  (∀ (n : Nat) (s : State), Ready s →
    ((n = 0 ∨ 12 < n) → exec (.cancelRoute (.fields n)) s = .next (s.answered .cancelRoute (.badValue 0 1))) ∧
    (∀ p : Pos, n = p.val + 1 → s.pm.routeFrom p = none →
      exec (.cancelRoute (.fields n)) s = .next (s.answered .cancelRoute .noSuch))) ∧
  (∀ (p : Pos) (x : Exchange) (d : Direction) (hold : Nat) (ref : RouteRef) (s : State),
    awaiting s x p → x.work = .command (.routeClear d hold) (some ref) → (s.health p).score < 160 →
    let member := ∃ r ∈ s.pm.routes, r.ref = ref ∧ ∃ m ∈ r.members, m.position = p
    (∀ c : Instr, c = .ack x.address ∨ c = .heartbeat x.address →
      ∃ t, exec c s = .next t ∧ t.oc = s.oc ∧ t.pt = s.pt ∧ t.qw = s.qw ∧ t.er = s.er ∧ LeavesStores s t ∧
        t.pm = { s.pm with routes := s.pm.routes.map (fun r =>
          if r.ref = ref then
            { r with members := r.members.map (fun m => if m.position = p then { m with held := true } else m) }
          else r) }) ∧
    ∀ code, code ≤ 4 →
      ∃ t, exec (.nak x.address code) s = .next t ∧ (∀ q, q ≠ p → t.coord q = s.coord q) ∧ t.pt = s.pt ∧ t.qw = s.qw ∧
        t.er = s.er ∧ LeavesStores s t ∧ (¬ member → t.pm = s.pm ∧ t.oc = s.oc) ∧
        (member → t.pm = { s.pm with
          owners := s.pm.owners.set p.val .none,
          routes := s.pm.routes.map (fun r => { r with members := r.members.filter (fun m => m.position != p) }) })) ∧
  ∀ (p : Pos) (x : Exchange) (ref : RouteRef) (s : State),
    awaiting s x p → x.work = .command .routeEnd (some ref) → (s.health p).score < 160 →
    ∀ c : Instr, c = .ack x.address ∨ c = .heartbeat x.address ∨ (∃ code, code ≤ 4 ∧ c = .nak x.address code) →
      ∃ t, exec c s = .next t ∧ (∀ q, q ≠ p → t.coord q = s.coord q) ∧ t.pt = s.pt ∧ t.qw = s.qw ∧ t.er = s.er ∧
        LeavesStores s t ∧
        let pending := s.owner p = .route ref.origin ∧ ∀ r ∈ s.pm.routes, ∀ m ∈ r.members, m.position ≠ p
        (¬ pending → t.pm = s.pm ∧ t.oc = s.oc) ∧
        (pending → t.pm = { s.pm with owners := s.pm.owners.set p.val .none } ∧
          ((s.coord p).state = .preempted → ∀ e, s.imageEntry p = some e →
            t.coord p = { s.coord p with
              state := .seeking .lengthen, measured := none, commanded := false,
              target := some (targetOf e (s.coord p).trim s.ctb.cycleLength) }))

/-! ### Settings and reports -/

/-- SET-SLACK, SET-QUEUE-LIMITS and SET-PRIORITY-POLICY take all their settings, or name the first failing field and take
none; so does SET-TRANSITION-LIMITS with its six limits, which clamps every trim into the new range. SET-NOTICE-MASK takes a set
of the 19 kinds that holds OVERRUN, and no other; the queued notices stay. -/
def Obligations.SettingsTakeAllOrNone : Prop :=
  (∀ (x : SlackFields) (s : State), Ready s →
    let ok := x.early ≤ 200 ∧ x.late ≤ 200 ∧ 1 ≤ x.minimumSize ∧ x.minimumSize ≤ 50
    let field := if 200 < x.early then 1 else if 200 < x.late then 2 else 3
    (ok → exec (.setSlack (.fields x)) s = .next (({ s with pt := { s.pt with
        earlySlack := x.early, lateSlack := x.late, minimumSize := x.minimumSize } } : State).answered
          .setSlack (.done .none))) ∧
    (¬ ok → exec (.setSlack (.fields x)) s = .next (s.answered .setSlack (.badValue 0 field)))) ∧
  (∀ (x : QueueLimitFields) (s : State), Ready s →
    let limits : QueueLimits :=
      { exponent := x.exponent, buildingOn := x.buildingOn, blockedOn := x.blockedOn, hysteresis := x.hysteresis }
    let ok := x.exponent ≤ 4 ∧ x.buildingOn ≤ 100 ∧ x.buildingOn ≤ x.blockedOn ∧ x.blockedOn ≤ 100 ∧
      x.hysteresis ≤ x.buildingOn
    let field := if 4 < x.exponent then 2 else if 100 < x.buildingOn then 3
      else if x.blockedOn < x.buildingOn ∨ 100 < x.blockedOn then 4 else 5
    (ok → x.approachClass = 0 →
      exec (.setQueueLimits (.fields x)) s =
        .next (({ s with qw := { s.qw with arterialLimits := limits } } : State).answered .setQueueLimits (.done .none))) ∧
    (ok → x.approachClass = 1 →
      exec (.setQueueLimits (.fields x)) s =
        .next (({ s with qw := { s.qw with sideLimits := limits } } : State).answered .setQueueLimits (.done .none))) ∧
    (1 < x.approachClass → exec (.setQueueLimits (.fields x)) s = .next (s.answered .setQueueLimits (.badValue 0 1))) ∧
    (x.approachClass ≤ 1 → ¬ ok →
      exec (.setQueueLimits (.fields x)) s = .next (s.answered .setQueueLimits (.badValue 0 field)))) ∧
  (∀ (x : PolicyFields) (s : State), Ready s →
    let ok := (300 ≤ x.routeTimeout ∧ x.routeTimeout ≤ 3000) ∧ x.extensionMax ≤ 200 ∧ 1 ≤ x.recovery ∧ x.recovery ≤ 15
    let field := if ¬ (300 ≤ x.routeTimeout ∧ x.routeTimeout ≤ 3000) then 1 else if 200 < x.extensionMax then 2 else 3
    (ok → exec (.setPriorityPolicy (.fields x)) s = .next (({ s with pm := { s.pm with policy :=
        { routeTimeout := x.routeTimeout, extensionMax := x.extensionMax, recovery := x.recovery } } } : State).answered
          .setPriorityPolicy (.done .none))) ∧
    (¬ ok → exec (.setPriorityPolicy (.fields x)) s = .next (s.answered .setPriorityPolicy (.badValue 0 field)))) ∧
  (∀ (x : LimitFields) (s : State), Ready s →
    let ok := (1 ≤ x.lengthen ∧ x.lengthen ≤ 30) ∧ (1 ≤ x.shorten ∧ x.shorten ≤ 30) ∧ x.tolerance ≤ 100 ∧
      x.trimLimit ≤ 200 ∧ x.sideLow ≤ 100 ∧ (1 ≤ x.sideRange ∧ x.sideRange ≤ 100)
    let field := if x.lengthen = 0 ∨ 30 < x.lengthen then 1 else if x.shorten = 0 ∨ 30 < x.shorten then 2
      else if 100 < x.tolerance then 3 else if 200 < x.trimLimit then 4 else if 100 < x.sideLow then 5 else 6
    (ok → ∃ t, exec (.setTransitionLimits (.fields x)) s = .next t ∧
      t.oc.limits = { lengthen := x.lengthen, shorten := x.shorten, tolerance := x.tolerance, trimLimit := x.trimLimit,
                      sideLow := x.sideLow, sideRange := x.sideRange } ∧
      (∀ p, (t.coord p).trim = max (-(x.trimLimit : Int)) (min (x.trimLimit : Int) (s.coord p).trim)) ∧
      t.sli.replySlot = some (.request .setTransitionLimits (.done .none)) ∧ t.ctb = s.ctb ∧ t.pt = s.pt ∧ t.qw = s.qw ∧
      t.pm = s.pm ∧ t.pl = s.pl ∧ t.ps = s.ps ∧ t.clc = s.clc ∧ t.ih = s.ih ∧ t.er = s.er ∧ t.config = s.config) ∧
    (¬ ok →
      exec (.setTransitionLimits (.fields x)) s = .next (s.answered .setTransitionLimits (.badValue 0 field)))) ∧
  ∀ (field : Nat) (s : State), Ready s →
    (field < 2 ^ 19 → bit field 18 = true →
      ∃ kinds, exec (.setNoticeMask (.fields field)) s =
          .next (({ s with sli := { s.sli with enabled := kinds } } : State).answered .setNoticeMask (.done .none)) ∧
        ∀ (i : Nat) (kind : NoticeKind), NoticeKind.all[i]? = some kind → (kind ∈ kinds ↔ bit field i = true)) ∧
    (2 ^ 19 ≤ field ∨ bit field 18 = false →
      exec (.setNoticeMask (.fields field)) s = .next (s.answered .setNoticeMask (.badValue 0 1)))

/-- GET-TIME, GET-PART-STATUS, GET-PREEMPTION, GET-SELECTION, GET-POSITION and GET-SLOT give what stands, the last two naming a
field out of range, and change no state. GET-SLOT is BUSY while a write is in flight. The model's choices: the cycle position
is 0, not C, in the decisecond of a mark that has not been handled (notes/assumptions/33.md), and a slot out of range is named
before BUSY (notes/assumptions/40.md). -/
def Obligations.ReportsGiveWhatStands : Prop :=
  ∀ s : State, Ready s →
    exec (.getTime (.fields ())) s = .next (s.answered .getTime (.done (.time
      { timeOfDay := s.ctb.timeOfDay, runningTime := s.ctb.runningTime,
        cyclePosition := elapsed s.ctb.runningTime s.ctb.anchor % s.ctb.cycleLength, cycleLength := s.ctb.cycleLength,
        anchor := s.ctb.anchor, activePlan := s.ps.image.map ActiveImage.slot, beaconInterval := s.ctb.beaconInterval,
        beaconDeadline := s.ctb.beaconDeadline }))) ∧
    exec (.getPartStatus (.fields ())) s = .next (s.answered .getPartStatus (.done (.part
      { mode := s.sli.mode, draining := s.sli.draining, supRate := s.sli.supRate, corRate := s.sli.corRate,
        runningTime := s.ctb.runningTime, timeOfDay := s.ctb.timeOfDay, activeSlot := s.ps.image.map ActiveImage.slot,
        selector := s.ps.mode, write := s.pl.write, stagingOpen := s.pl.staging.isSome,
        line := (match s.clc.line with
          | .idle => .idle
          | .exchange _ => .exchange
          | .lineBreak _ => .lineBreak),
        queued := s.clc.queue.length,
        positions := positions.map (fun p =>
          { configured := (s.config.get p).isSome, identification := (s.ih.ident.get p).state,
            health := (s.ih.health.get p).state, coordination := (s.oc.positions.get p).state }),
        lineResets := s.ih.lineResets, notices := s.sli.notices.length, overrun := s.sli.overrun,
        unanswered := s.sli.unanswered, enabled := s.sli.enabled }))) ∧
    exec (.getPreemption (.fields ())) s = .next (s.answered .getPreemption (.done (.preemption
      { policy := s.pm.policy,
        positions := positions.map (fun p => (s.pm.owners.get p, s.pm.releasePending p, s.pm.budgets.get p)),
        routes := positions.filterMap (fun p => s.pm.routes.find? (fun r => r.ref.origin == p)) }))) ∧
    exec (.getSelection (.fields ())) s = .next (s.answered .getSelection (.done (.selection
      { selector := s.ps, totalFlow := s.ps.inboundFlow + s.ps.outboundFlow,
        inboundShare := (if s.ps.inboundFlow + s.ps.outboundFlow = 0 then 0
          else s.ps.inboundFlow * 100 / (s.ps.inboundFlow + s.ps.outboundFlow)) }))) ∧
    (∀ p : Pos, exec (.getPosition (.fields (p.val + 1))) s = .next (s.answered .getPosition (.done (.position
      { config := s.config.get p, ident := s.ih.ident.get p, health := s.ih.health.get p, coord := s.oc.positions.get p,
        limits := s.oc.limits, accepted := s.clc.accepted.get p, summary := s.clc.summaries.get p })))) ∧
    (∀ n, n = 0 ∨ 12 < n → exec (.getPosition (.fields n)) s = .next (s.answered .getPosition (.badValue 0 1))) ∧
    (∀ n, (n = 0 ∨ 24 < n) → exec (.getSlot (.fields n)) s = .next (s.answered .getSlot (.badValue 0 1))) ∧
    ∀ slot : SlotIx,
      (s.pl.write ≠ .idle → exec (.getSlot (.fields (slot.val + 1))) s = .next (s.answered .getSlot .busy)) ∧
      (∀ plan, s.pl.write = .idle → s.pl.slots.get slot = .valid plan →
        exec (.getSlot (.fields (slot.val + 1))) s = .next (s.answered .getSlot (.done (.slot (.valid plan)
          (some (decide (s.ps.image.map ActiveImage.slot = some slot))))))) ∧
      (s.pl.write = .idle → (∀ plan, s.pl.slots.get slot ≠ .valid plan) →
        exec (.getSlot (.fields (slot.val + 1))) s =
          .next (s.answered .getSlot (.done (.slot (s.pl.slots.get slot) none))))

/-! ### The Plan Library (06) -/

/-- STAGE-OPEN opens a blank staging record, or one with a copy of a VALID slot, at cursor 1 in mode HOLD; otherwise the
staging record stays as it was. That a source which is neither is read by the shorter layout is the model's choice
(notes/assumptions/21.md). -/
def Obligations.StageOpenOpens : Prop :=
  ∀ (target : SlotIx) (s : State), Ready s →
    let opened (header : Option PlanHeader) (entries : EntryPlaces) : State :=
      let record : Staging := { target := target, header := header, entries := entries, cursor := 0, mode := .hold }
      { s with pl := { s.pl with staging := some record } }
    exec (.stageOpenBlank (.fields { target := target.val + 1, source := 1 })) s =
      .next ((opened none (Vector.replicate 12 none)).answered .stageOpen (.done .none)) ∧
    (∀ (source : SlotIx) plan, s.pl.write = .idle → s.pl.slots.get source = .valid plan →
      exec (.stageOpenCopy (.fields { target := target.val + 1, sourceSlot := source.val + 1 })) s =
        .next ((opened (some plan.header) plan.entries).answered .stageOpen (.done .none))) ∧
    (∀ n, s.pl.write ≠ .idle →
      exec (.stageOpenCopy (.fields { target := target.val + 1, sourceSlot := n })) s =
        .next (s.answered .stageOpen .busy)) ∧
    (∀ n, s.pl.write = .idle → (n = 0 ∨ 24 < n) →
      exec (.stageOpenCopy (.fields { target := target.val + 1, sourceSlot := n })) s =
        .next (s.answered .stageOpen (.badValue 0 3))) ∧
    (∀ source : SlotIx, s.pl.write = .idle → (∀ plan, s.pl.slots.get source ≠ .valid plan) →
      exec (.stageOpenCopy (.fields { target := target.val + 1, sourceSlot := source.val + 1 })) s =
        .next (s.answered .stageOpen (.badValue 0 3))) ∧
    (∀ n m, (n = 0 ∨ 24 < n) →
      exec (.stageOpenCopy (.fields { target := n, sourceSlot := m })) s = .next (s.answered .stageOpen (.badValue 0 1)) ∧
      exec (.stageOpenBlank (.fields { target := n, source := m })) s = .next (s.answered .stageOpen (.badValue 0 1))) ∧
    ∀ m, 2 ≤ m →
      exec (.stageOpenBlank (.fields { target := target.val + 1, source := m })) s =
        .next (s.answered .stageOpen (.badValue 0 2))

/-- STAGE-HEADER replaces the header of the open staging record and leaves its entries as they are; STAGE-SEEK sets cursor and
increment mode; a field out of range changes nothing. STAGE-ENTRY writes or clears the place at the cursor, STAGE-READ gives it,
STAGE-DISCARD closes the staging record; the cursor advances by the increment mode, from 12 to 1. While the record is closed each
of them, and COMMIT-PLAN, is answered NO-SUCH. The model's choices: an operation which is neither WRITE nor CLEAR is read by the
shorter layout (notes/assumptions/21.md), and a COMMIT-PLAN to a closed record is NO-SUCH during a write too
(notes/assumptions/40.md). -/
def Obligations.StagingRecordEdited : Prop :=
  (∀ (x : Staging) (s : State), Ready s → s.pl.staging = some x →
    let holds (y : Staging) : State := { s with pl := { s.pl with staging := some y } }
    (∀ length code wave, 400 ≤ length → length ≤ 2400 → waveOf code = some wave →
      exec (.stageHeader (.fields { cycleLength := length, wave := code })) s =
        .next ((holds { x with header := some { cycleLength := length, wave := wave } }).answered .stageHeader
          (.done .none))) ∧
    (∀ length code, (length < 400 ∨ 2400 < length) →
      exec (.stageHeader (.fields { cycleLength := length, wave := code })) s =
        .next (s.answered .stageHeader (.badValue 0 1))) ∧
    (∀ length code, 400 ≤ length → length ≤ 2400 → 2 < code →
      exec (.stageHeader (.fields { cycleLength := length, wave := code })) s =
        .next (s.answered .stageHeader (.badValue 0 2))) ∧
    (∀ (p : Pos) code mode, incrementOf code = some mode →
      exec (.stageSeek (.fields { position := p.val + 1, mode := code })) s =
        .next ((holds { x with cursor := p, mode := mode }).answered .stageSeek (.done .none))) ∧
    (∀ n code, (n = 0 ∨ 12 < n) →
      exec (.stageSeek (.fields { position := n, mode := code })) s = .next (s.answered .stageSeek (.badValue 0 1))) ∧
    ∀ (p : Pos) code, 2 < code →
      exec (.stageSeek (.fields { position := p.val + 1, mode := code })) s = .next (s.answered .stageSeek (.badValue 0 2))) ∧
  (∀ (x : Staging) (s : State), Ready s → s.pl.staging = some x →
    let next : Pos := if h : x.cursor.val + 1 < 12 then ⟨x.cursor.val + 1, h⟩ else 0
    let afterEntry := if x.mode = .hold then x.cursor else next
    let afterRead := if x.mode = .onAccess then next else x.cursor
    let holds (y : Staging) : State := { s with pl := { s.pl with staging := some y } }
    (∀ f : EntryFields, f.offset ≤ 2399 → (50 ≤ f.mainGreen ∧ f.mainGreen ≤ 2400) → (50 ≤ f.minMain ∧ f.minMain ≤ 2400) →
      (50 ≤ f.maxMain ∧ f.maxMain ≤ 2400) → (50 ≤ f.sideMin ∧ f.sideMin ≤ 2400) → (20 ≤ f.lostTime ∧ f.lostTime ≤ 200) →
      f.adapt ≤ 1 →
      exec (.stageEntryWrite (.fields f)) s = .next ((holds { x with
        cursor := afterEntry,
        entries := x.entries.set x.cursor.val (some
          { offset := f.offset, mainGreen := f.mainGreen, minMain := f.minMain, maxMain := f.maxMain,
            sideMin := f.sideMin, lostTime := f.lostTime, adapt := decide (f.adapt = 0) }) }).answered .stageEntry
          (.done (.cursor afterEntry)))) ∧
    (∀ (f : EntryFields) field,
      field = (if 2399 < f.offset then 2 else if f.mainGreen < 50 ∨ 2400 < f.mainGreen then 3
        else if f.minMain < 50 ∨ 2400 < f.minMain then 4 else if f.maxMain < 50 ∨ 2400 < f.maxMain then 5
        else if f.sideMin < 50 ∨ 2400 < f.sideMin then 6 else if f.lostTime < 20 ∨ 200 < f.lostTime then 7
        else if 1 < f.adapt then 8 else 0) → field ≠ 0 →
      exec (.stageEntryWrite (.fields f)) s = .next (s.answered .stageEntry (.badValue 0 field))) ∧
    exec (.stageEntryClear (.fields 1)) s = .next ((holds { x with
      cursor := afterEntry, entries := x.entries.set x.cursor.val none }).answered .stageEntry (.done (.cursor afterEntry))) ∧
    (∀ n, 2 ≤ n → exec (.stageEntryClear (.fields n)) s = .next (s.answered .stageEntry (.badValue 0 1))) ∧
    exec (.stageRead (.fields ())) s = .next ((holds { x with cursor := afterRead }).answered .stageRead (.done (.stage
      { positionRead := x.cursor, entry := x.entries.get x.cursor, header := x.header, target := x.target,
        cursor := afterRead, mode := x.mode }))) ∧
    exec (.stageDiscard (.fields ())) s =
      .next (({ s with pl := { s.pl with staging := none } } : State).answered .stageDiscard (.done .none))) ∧
  ∀ s : State, Ready s → s.pl.staging = none →
    (∀ f, exec (.stageHeader (.fields f)) s = .next (s.answered .stageHeader .noSuch)) ∧
    (∀ f, exec (.stageSeek (.fields f)) s = .next (s.answered .stageSeek .noSuch)) ∧
    (∀ f, exec (.stageEntryWrite (.fields f)) s = .next (s.answered .stageEntry .noSuch)) ∧
    (∀ n, exec (.stageEntryClear (.fields n)) s = .next (s.answered .stageEntry .noSuch)) ∧
    exec (.stageRead (.fields ())) s = .next (s.answered .stageRead .noSuch) ∧
    exec (.stageDiscard (.fields ())) s = .next (s.answered .stageDiscard .noSuch) ∧
    exec (.commitPlan (.fields ())) s = .next (s.answered .commitPlan .noSuch)

/-- COMMIT-PLAN of a staged plan that is valid begins the write and closes the staging record; one that is not leaves it as
it is and names position and field. The completion makes the slot VALID with that plan, whatever it held, and leaves every
other slot; outside FREE a commit of the active slot makes its RELOAD pending unless another slot's plan stands, and one of
the pinned slot that is not active makes its PIN pending, each with the deferrals of a pending plan of the same slot, else 0.
ERASE-PLAN of a slot that is not EMPTY begins the erase; its completion leaves the slot EMPTY, every other slot as it was,
and the selector untouched. That a slot out of range is named before BUSY is the model's choice (notes/assumptions/40.md). -/
def Obligations.CommitAndEraseWriteTheSlot : Prop :=
  (∀ (x : Staging) (s : State), Ready s → s.pl.staging = some x →
    (s.pl.write ≠ .idle → exec (.commitPlan (.fields ())) s = .next (s.answered .commitPlan .busy)) ∧
    (∀ header, s.pl.write = .idle → x.header = some header → x.inRanges →
      planValid { header := header, entries := x.entries } = true →
      exec (.commitPlan (.fields ())) s = .next (({ s with pl := { s.pl with
        write := .committing x.target { header := header, entries := x.entries }, staging := none } } : State).answered
          .commitPlan .accepted)) ∧
    (s.pl.write = .idle → x.header = none →
      exec (.commitPlan (.fields ())) s = .next (s.answered .commitPlan (.badValue 0 1))) ∧
    (∀ header, s.pl.write = .idle → x.header = some header → (∀ p, x.entries.get p = none) →
      exec (.commitPlan (.fields ())) s = .next (s.answered .commitPlan (.badValue 0 3))) ∧
    (∀ header (p : Pos) e field, s.pl.write = .idle → x.header = some header → x.entries.get p = some e →
      (∀ q f, q < p → x.entries.get q = some f → f.offset < header.cycleLength ∧ f.minMain ≤ f.mainGreen ∧
        f.mainGreen ≤ f.maxMain ∧ f.maxMain + f.sideMin + f.lostTime ≤ header.cycleLength) →
      field = (if header.cycleLength ≤ e.offset then 1 else if e.mainGreen < e.minMain ∨ e.maxMain < e.mainGreen then 2
        else if header.cycleLength < e.maxMain + e.sideMin + e.lostTime then 4 else 0) → field ≠ 0 →
      exec (.commitPlan (.fields ())) s = .next (s.answered .commitPlan (.badValue (p.val + 1) field)))) ∧
  (∀ (slot : SlotIx) (plan : Plan) (s : State), s.pl.write = .committing slot plan →
    ∃ t, exec .commitComplete s = .next t ∧ t.pl.slots.get slot = .valid plan ∧
      (∀ i, i ≠ slot → t.pl.slots.get i = s.pl.slots.get i) ∧ t.pl.write = .idle ∧ t.pl.staging = s.pl.staging ∧
      (let active := s.ps.image.map ActiveImage.slot = some slot
       let remade (cause : PlanCause) : Prop := t.ps = { s.ps with
         pendingPlan := some { slot := slot, cause := cause },
         deferrals := if s.ps.pendingPlan.map PendingPlan.slot = some slot then s.ps.deferrals else 0 }
       (s.ps.mode = .free → t.ps = s.ps) ∧
       (s.ps.mode ≠ .free → active → (∀ x, s.ps.pendingPlan = some x → x.slot = slot) → remade .reload) ∧
       (s.ps.mode ≠ .free → active → (∃ x, s.ps.pendingPlan = some x ∧ x.slot ≠ slot) → t.ps = s.ps) ∧
       (s.ps.mode = .pinned slot → ¬ active → remade .pin) ∧
       (s.ps.mode ≠ .pinned slot → ¬ active → t.ps = s.ps)) ∧
      t.ctb = s.ctb ∧ t.oc = s.oc ∧ t.pt = s.pt ∧ t.qw = s.qw ∧ t.pm = s.pm ∧ t.clc = s.clc ∧ t.ih = s.ih ∧ t.er = s.er ∧
      t.config = s.config) ∧
  (∀ s : State, Ready s →
    (∀ n, (n = 0 ∨ 24 < n) → exec (.erasePlan (.fields n)) s = .next (s.answered .erasePlan (.badValue 0 1))) ∧
    ∀ slot : SlotIx,
      (s.pl.write ≠ .idle → exec (.erasePlan (.fields (slot.val + 1))) s = .next (s.answered .erasePlan .busy)) ∧
      (s.pl.write = .idle → s.pl.slots.get slot = .empty →
        exec (.erasePlan (.fields (slot.val + 1))) s = .next (s.answered .erasePlan .noSuch)) ∧
      (s.pl.write = .idle → s.pl.slots.get slot ≠ .empty →
        exec (.erasePlan (.fields (slot.val + 1))) s =
          .next (({ s with pl := { s.pl with write := .erasing slot } } : State).answered .erasePlan .accepted))) ∧
  ∀ (slot : SlotIx) (s : State), s.pl.write = .erasing slot →
    ∃ t, exec .eraseComplete s = .next t ∧ t.pl.slots.get slot = .empty ∧
      (∀ i, i ≠ slot → t.pl.slots.get i = s.pl.slots.get i) ∧ t.pl.write = .idle ∧ t.pl.staging = s.pl.staging ∧
      t.ps = s.ps ∧ t.ctb = s.ctb ∧ t.oc = s.oc ∧ t.pt = s.pt ∧ t.qw = s.qw ∧ t.pm = s.pm ∧ t.clc = s.clc ∧ t.ih = s.ih ∧
      t.er = s.er ∧ t.config = s.config

/-! ### Plan selection (07) -/

/-- SET-SELECT-MODE becomes the requested mode, replacing one that waits; the selector mode does not change. The checks name
the first failing field, and a pin of a slot that is not VALID is answered NO-SUCH. SET-SELECT-ENTRY writes or clears one place
of the selection table and leaves candidate, count and pending plan as they stand; a failing field changes nothing. That a mode or
an operation outside its set is read by the shorter layout is the model's choice (notes/assumptions/21.md). -/
def Obligations.SelectionRequested : Prop :=
  (∀ s : State, Ready s →
    let requests (m : RequestedMode) : State := { s with ps := { s.ps with requested := some m } }
    exec (.setSelectModeFree (.fields 0)) s = .next ((requests .free).answered .setSelectMode (.done .none)) ∧
    (∀ n, 3 ≤ n → exec (.setSelectModeFree (.fields n)) s = .next (s.answered .setSelectMode (.badValue 0 1))) ∧
    (∀ (slot : SlotIx) plan, s.pl.slots.get slot = .valid plan →
      exec (.setSelectModePinned (.fields (slot.val + 1))) s =
        .next ((requests (.pinned slot)).answered .setSelectMode (.done .none))) ∧
    (∀ slot : SlotIx, (∀ plan, s.pl.slots.get slot ≠ .valid plan) →
      exec (.setSelectModePinned (.fields (slot.val + 1))) s = .next (s.answered .setSelectMode .noSuch)) ∧
    (∀ n, (n = 0 ∨ 24 < n) →
      exec (.setSelectModePinned (.fields n)) s = .next (s.answered .setSelectMode (.badValue 0 2))) ∧
    (∀ n, 1 ≤ n → n ≤ 15 →
      exec (.setSelectModeResponsive (.fields n)) s =
        .next ((requests (.responsive n)).answered .setSelectMode (.done .none))) ∧
    ∀ n, (n = 0 ∨ 15 < n) →
      exec (.setSelectModeResponsive (.fields n)) s = .next (s.answered .setSelectMode (.badValue 0 2))) ∧
  ∀ s : State, Ready s →
    (∀ (i : SelectIx) (slot : SlotIx) (minTotal maxTotal minShare maxShare : Nat),
      let f : SelectFields :=
        { index := i.val + 1, slot := slot.val + 1, minTotal := minTotal, maxTotal := maxTotal, minShare := minShare,
          maxShare := maxShare }
      let ok := minTotal ≤ maxTotal ∧ maxTotal ≤ 9999 ∧ minShare ≤ maxShare ∧ maxShare ≤ 100
      let field := if 9999 < minTotal then 4 else if maxTotal < minTotal ∨ 9999 < maxTotal then 5
        else if 100 < minShare then 6 else 7
      (ok → exec (.setSelectEntryWrite (.fields f)) s = .next (({ s with ps := { s.ps with table := s.ps.table.set i.val (some
          { slot := slot, minTotal := minTotal, maxTotal := maxTotal, minShare := minShare, maxShare := maxShare }) } } :
            State).answered .setSelectEntry (.done .none))) ∧
      (¬ ok →
        exec (.setSelectEntryWrite (.fields f)) s = .next (s.answered .setSelectEntry (.badValue 0 field)))) ∧
    (∀ f : SelectFields, (f.index = 0 ∨ 8 < f.index) →
      exec (.setSelectEntryWrite (.fields f)) s = .next (s.answered .setSelectEntry (.badValue 0 1))) ∧
    (∀ f : SelectFields, 1 ≤ f.index → f.index ≤ 8 → (f.slot = 0 ∨ 24 < f.slot) →
      exec (.setSelectEntryWrite (.fields f)) s = .next (s.answered .setSelectEntry (.badValue 0 3))) ∧
    (∀ i : SelectIx, exec (.setSelectEntryClear (.fields { index := i.val + 1, operation := 1 })) s =
      .next (({ s with ps := { s.ps with table := s.ps.table.set i.val none } } : State).answered .setSelectEntry
        (.done .none))) ∧
    (∀ (i : SelectIx) operation, 2 ≤ operation →
      exec (.setSelectEntryClear (.fields { index := i.val + 1, operation := operation })) s =
        .next (s.answered .setSelectEntry (.badValue 0 2))) ∧
    ∀ n operation, (n = 0 ∨ 8 < n) →
      exec (.setSelectEntryClear (.fields { index := n, operation := operation })) s =
        .next (s.answered .setSelectEntry (.badValue 0 1))

/-! ### The Corridor Line (08) -/

/-- The phases of an exchange: the end of the frame releases the driver; an addressed exchange then has its window, and the
entry of a BEACON leaves the queue; a fault of the reply, whichever it is, settles the outcome and the line must fall quiet;
without an open window a reply has no effect. A broadcast exchange ends with no outcome, 2 ms after its frame. That the
outcome is handed on when the line has fallen quiet (notes/assumptions/27.md), and that the event which ends a broadcast stands
for the end of its frame too where that has not been told (notes/assumptions/26.md), are the model's choices. -/
def Obligations.ExchangePhases : Prop :=
  (∀ (x : Exchange) (p : Pos) (s : State), s.clc.line = .exchange x → x.phase = .sending → x.position = some p →
    exec .commandFrameSent s = .next { s with clc := { s.clc with
      line := .exchange { x with phase := .window }, driverEnable := false, txLevel := .mark } }) ∧
  (∀ (x : Exchange) (p : Pos) (s : State), awaiting s x p →
    let garbles (c : Instr) : Prop :=
      exec c s = .next { s with clc := { s.clc with line := .exchange { x with phase := .quieting } } }
    garbles .replyByteGapExpiry ∧ (∀ fault, garbles (.replyGarbled fault)) ∧
      (∀ address, address ≠ x.address →
        garbles (.heartbeat address) ∧ garbles (.ack address) ∧ (∀ reason, garbles (.nak address reason)) ∧
          (∀ reply, garbles (.status address reply)) ∧ ∀ reply, garbles (.identity address reply)) ∧
      (x.work = .poll ∨ (∃ route, x.work = .command .probePoll route) →
        garbles (.ack x.address) ∧ (∀ reason, garbles (.nak x.address reason)) ∧
          ∀ reply, garbles (.identity x.address reply)) ∧
      (∀ route, x.work = .command .identify route →
        garbles (.ack x.address) ∧ (∀ reason, garbles (.nak x.address reason)) ∧
          ∀ reply, garbles (.status x.address reply)) ∧
      (∀ command route, x.work = .command command route → command ≠ .probePoll → command ≠ .identify →
        (∀ reply, garbles (.identity x.address reply)) ∧ ∀ reply, garbles (.status x.address reply)) ∧
      (∀ address reason, 4 < reason → garbles (.nak address reason)) ∧
      ∀ address (reply : StatusFields), (3 < reply.stage ∨ 8 < reply.records.length) →
        garbles (.status address reply)) ∧
  (∀ s : State, (∀ x, s.clc.line = .exchange x → x.phase ≠ .window) →
    ∀ address, exec (.heartbeat address) s = .next s ∧ exec (.ack address) s = .next s ∧
      (∀ reason, exec (.nak address reason) s = .next s) ∧ (∀ reply, exec (.status address reply) s = .next s) ∧
      ∀ reply, exec (.identity address reply) s = .next s) ∧
  (∀ (x : Exchange) (s : State), s.clc.line = .exchange x → x.phase = .sending → x.position = none →
    exec .commandFrameSent s = .next { s with clc := { s.clc with
      line := .exchange { x with phase := .trailing }, driverEnable := false, txLevel := .mark,
      queue := s.clc.queue.filter (fun e => !e.onLine) } }) ∧
  ∀ (x : Exchange) (s : State), s.clc.line = .exchange x → x.phase = .sending ∨ x.phase = .trailing → x.position = none →
    (∀ p, s.clc.due.get p = none) →
    (x.phase = .sending → ∀ e ∈ s.clc.queue, e.onLine = true) → (x.phase = .trailing → s.clc.queue = []) →
    ∃ t, exec .broadcastExchangeEnd s = .next t ∧ t.clc.line = .idle ∧ t.clc.driverEnable = false ∧
      t.clc.txLevel = .mark ∧ t.clc.queue = [] ∧ Settles s t

/-- A GOOD exchange takes 1 from the fault score and ends the run of failures, whatever the reply and the work; DEGRADED
becomes SOUND below 48. A STATUS or a HEARTBEAT that answers a POLL replaces the last status summary. The time of the last GOOD
exchange, which a LINE-RESET notice carries, is a field of the model's own (notes/assumptions/28.md), and flags above the three
are not read (notes/assumptions/19.md). -/
def Obligations.GoodExchangeScores : Prop :=
  ∀ (p : Pos) (x : Exchange) (s : State), awaiting s x p → (s.health p).score < 160 → (s.health p).state ≠ .cutOff →
    let scores (c : Instr) (more : State → Prop) : Prop :=
      ∃ t, exec c s = .next t ∧ (t.health p).score = (s.health p).score - 1 ∧ (t.health p).failures = 0 ∧
        (t.health p).state = (if (s.health p).state = .degraded ∧ (s.health p).score - 1 < 48 then .sound
          else if 64 ≤ (s.health p).score - 1 then .degraded else (s.health p).state) ∧
        t.ih.lastGood = some s.now ∧ LeavesStores s t ∧ more t
    scores (.heartbeat x.address) (fun t => x.work = .poll →
      t.clc.summaries.get p = some { received := s.now, figures := none }) ∧
    (∀ (reply : StatusFields) stage, x.work = .poll → stageOf reply.stage = some stage → reply.records.length ≤ 8 →
      scores (.status x.address reply) (fun t => t.clc.summaries.get p = some
        { received := s.now,
          figures := some { stage := stage, fieldLocal := bit reply.flags 0, preempting := bit reply.flags 1,
                            unitFault := bit reply.flags 2, planInUse := reply.planInUse,
                            localLength := reply.localLength } })) ∧
    (∀ reply route, x.work = .command .identify route → scores (.identity x.address reply) (fun _ => True)) ∧
    ∀ command route, x.work = .command command route → command ≠ .identify → command ≠ .probePoll → command ≠ .beacon →
      scores (.ack x.address) (fun _ => True) ∧
        ∀ reason, reason ≤ 4 → scores (.nak x.address reason) (fun _ => True)

/-- An exchange that ends SILENT at the window's expiry, or GARBLED once the line is quiet, adds 8 to the fault score and one
to the failures; the third in a row cuts an IDENTIFIED position off, its entries but those of Identification and Health leave the
queue, and under AUTO its probes begin 50 ds on. -/
def Obligations.FailedExchangeScores : Prop :=
  ∀ (p : Pos) (x : Exchange) (s : State), s.clc.line = .exchange x → x.position = some p →
    let fails (c : Instr) : Prop :=
      ∃ t, exec c s = .next t ∧ (t.health p).score = min 255 ((s.health p).score + 8) ∧
        (t.health p).failures = min 3 ((s.health p).failures + 1) ∧ LeavesStores s t ∧
        ((s.health p).state = .cutOff → (t.health p).state = .cutOff) ∧
        ((s.health p).state ≠ .cutOff → (s.ident p).state = .identified →
          (2 ≤ (s.health p).failures ∨ 152 ≤ (s.health p).score →
            (t.health p).state = .cutOff ∧
              ((s.health p).stage = .none → (s.config.get p).map PositionConfig.recovery = some .auto →
                (t.health p).probeDeadline = some (later s.now 50))) ∧
          (2 ≤ (s.health p).failures ∨ 152 ≤ (s.health p).score →
            (∀ r ∈ s.pm.routes, r.ref.origin = p → ∀ m ∈ r.members, m.position ≠ p) →
            ∀ e ∈ t.clc.queue, e.position = some p →
              e.command = .identify ∨ e.command = .quiet ∨ e.command = .probePoll) ∧
          ((s.health p).failures < 2 → (s.health p).score < 152 →
            (t.health p).state = (if 56 ≤ (s.health p).score ∨
              ((s.health p).state = .degraded ∧ 40 ≤ (s.health p).score) then .degraded else .sound))) ∧
        ((s.health p).state ≠ .cutOff → (s.ident p).state ≠ .identified → (t.health p).state ≠ .cutOff)
    (x.phase = .window → fails .responseWindowExpiry) ∧ (x.phase = .quieting → fails .lineQuietExpiry)

/-- The round deadline expires: it is set one poll round on, and every eligible position without a due time takes this one. At
the end of a line break the arbiter chooses as at the end of every exchange: the head of the queue when it is of class CLEARANCE or
BEACON, else the overdue poll (more than 5 ds past its due time) of the earliest due time, the lowest position among equals, else
the head, else the next due poll, else nothing. A chosen entry is marked on the line with one attempt more, a chosen poll loses its
due time, and the exchange begins with its frame. -/
def Obligations.PollsMadeDueAndChosen : Prop :=
  (∀ s : State, s.clc.roundDeadline = s.now →
    let s' : State := { s with clc := { s.clc with roundDeadline := later s.now s.clc.pollRound } }
    (lineTaken s → ∃ t, exec .roundDeadlineExpiry s = .next t ∧ Settles s' t ∧
      ∀ p, t.clc.due.get p = if pollEligible s p then some ((s.clc.due.get p).getD s.now) else none) ∧
    ∀ (p : Pos) (cfg : PositionConfig), s.clc.line = .idle → s.clc.queue = [] → (∀ q, s.clc.due.get q = none) →
      pollEligible s p = true → (∀ q, q < p → pollEligible s q = false) → s.config.get p = some cfg →
      ∃ t, exec .roundDeadlineExpiry s = .next t ∧ Settles s' t ∧
        t.clc.line = .exchange { work := .poll, position := some p, address := cfg.address,
                                 frame := .poll (s.clc.accepted.get p), phase := .sending } ∧
        t.clc.driverEnable = true ∧ t.clc.due.get p = none ∧
        ∀ q, q ≠ p → t.clc.due.get q = if pollEligible s q then some s.now else none) ∧
  ∀ s : State, s.clc.line = .lineBreak s.now → s.clc.drainFlag = false →
    (beaconCondition s = true ∨ ∀ e ∈ s.clc.queue, e.command ≠ .beacon) →
    let due (p : Pos) : Option Time := if pollEligible s p then s.clc.due.get p else none
    let first (p : Pos) (time : Time) : Prop := due p = some time ∧ ∀ q other, due q = some other →
      elapsed s.now other < elapsed s.now time ∨ (elapsed s.now other = elapsed s.now time ∧ p ≤ q)
    let overdue : Prop := ∃ p time, due p = some time ∧ 5 < elapsed s.now time
    ∃ t, exec .lineBreakEnd s = .next t ∧ Settles s t ∧
      (∀ e rest, s.clc.queue = e :: rest → (3 ≤ e.rank ∨ ¬ overdue) →
        t.clc.queue = { e with onLine := true, attempts := e.attempts + 1 } :: rest ∧ (∀ q, t.clc.due.get q = due q) ∧
        t.clc.line = .exchange { work := .command e.command e.route, position := e.position, address := e.address,
                                 frame := commandFrame s e.command, phase := .sending } ∧
        t.clc.driverEnable = true ∧ t.clc.txLevel = .frame) ∧
      (∀ p time cfg, first p time → s.config.get p = some cfg →
        (s.clc.queue = [] ∨ (5 < elapsed s.now time ∧ ∀ e, s.clc.queue.head? = some e → e.rank < 3)) →
        t.clc.queue = s.clc.queue ∧ t.clc.due.get p = none ∧ (∀ q, q ≠ p → t.clc.due.get q = due q) ∧
        t.clc.line = .exchange { work := .poll, position := some p, address := cfg.address,
                                 frame := .poll (s.clc.accepted.get p), phase := .sending } ∧
        t.clc.driverEnable = true ∧ t.clc.txLevel = .frame) ∧
      (s.clc.queue = [] → (∀ p, due p = none) →
        t.clc.line = .idle ∧ t.clc.driverEnable = false ∧ t.clc.txLevel = .mark)

/-- An offer to the Link Command Queue. It is refused in SETUP, but for a ROUTE-END, RUN-LOCAL or QUIET while the queue drains,
and so is a RUN-LOCAL where a QUIET for the position stands. A TIMING-SET, QUIET, RUN-LOCAL or BEACON takes the place of the one it
replaces, full queue or not. Otherwise it joins while fewer than 24 are held; with 24 it is refused when every entry not on the line
is of its class or above, and else the youngest such entry of the lowest class leaves, an IDENTIFY or QUIET taking its retry deadline
10 ds on. In a queue in order of class the new entry stands behind those of its class and above. -/
def Obligations.OffersToTheQueue : Prop :=
  ∀ (e : QueueEntry) (s : State),
    let queue := s.clc.queue
    let taken := s.sli.mode = .live ∨
      (s.clc.drainFlag = true ∧ (e.command = .routeEnd ∨ e.command = .runLocal ∨ e.command = .quiet))
    let barred := e.command = .runLocal ∧ ∃ x ∈ queue, x.command = .quiet ∧ x.position = e.position
    let older (x : QueueEntry) : Prop :=
      (e.command.isTimingSet = true ∧ x.command.isTimingSet = true ∧ x.position = e.position) ∨
        (e.command = .quiet ∧ (x.command = .quiet ∨ x.command = .runLocal) ∧ x.position = e.position) ∨
        (e.command = .runLocal ∧ x.command = .runLocal ∧ x.position = e.position) ∨
        (e.command = .beacon ∧ x.command = .beacon)
    (¬ taken ∨ barred → offerEntry e s = (s, false)) ∧
    (taken → ¬ barred → (∃ x ∈ queue, older x) →
      ∃ kept, offerEntry e s = (s.withQueue (joinQueue e kept), true) ∧ List.Sublist kept queue ∧ (∀ x ∈ kept, ¬ older x) ∧
        kept.length + queue.countP (fun x => replaces e.command e.position x) = queue.length ∧
        ∀ x, replaces e.command e.position x = true ↔ older x) ∧
    (taken → ¬ barred → (∀ x ∈ queue, ¬ older x) →
      (queue.length < 24 → offerEntry e s = (s.withQueue (joinQueue e queue), true)) ∧
      (24 ≤ queue.length → (∀ x ∈ queue, x.onLine = false → e.rank ≤ x.rank) → offerEntry e s = (s, false)) ∧
      (24 ≤ queue.length → ∀ before victim after, queue = before ++ victim :: after → victim.onLine = false →
        victim.rank < e.rank → (∀ x ∈ queue, x.onLine = false → victim.rank ≤ x.rank) →
        (∀ x ∈ after, x.onLine = false → x.rank ≠ victim.rank) →
        let joined := s.withQueue (joinQueue e (before ++ after))
        (victim.command ≠ .identify → victim.command ≠ .quiet → offerEntry e s = (joined, true)) ∧
        ∀ p, victim.command = .identify ∨ victim.command = .quiet → victim.position = some p →
          offerEntry e s = (joined.withIdent p (fun i => { i with retry := some (later s.now 10) }), true))) ∧
    (QueueInOrder s → joinQueue e queue =
      queue.filter (fun x => decide (e.rank ≤ x.rank)) ++ e :: queue.filter (fun x => decide (x.rank < e.rank)))

/-- The entry of an exchange that fails stays, in its place and off the line, while it has attempts left (1 for a probe POLL, 3 for
every other), and is dropped at the limit: nothing is built in place of a TIMING-SET, RUN-LOCAL or PRIORITY-ANSWER; the member of a
dropped ROUTE-CLEAR leaves its route with owner NONE; the position of a dropped ROUTE-END is handed back. A failed exchange whose
entry has been withdrawn changes no entry, and nothing is told of a drop. An ACK takes the entry out. -/
def Obligations.FailedEntriesTriedAgainOrDropped : Prop :=
  ∀ (p : Pos) (x : Exchange) (s : State), s.clc.line = .exchange x → x.position = some p → (s.health p).failures < 2 →
    (s.health p).score < 152 → (∀ y ∈ s.clc.queue, y.command ≠ .beacon) →
    let entries (queue : List QueueEntry) := queue.map (fun e => (e.command, e.position, e.address, e.route, e.joined))
    let undisturbed (t : State) : Prop := t.oc = s.oc ∧ t.pt = s.pt ∧ t.qw = s.qw ∧ t.pm = s.pm ∧ t.ih.ident = s.ih.ident
    let fails (c : Instr) : Prop :=
      ∃ t, exec c s = .next t ∧ LeavesStores s t ∧ t.er = s.er ∧
        ((∀ y ∈ s.clc.queue, y.onLine = false) → entries t.clc.queue = entries s.clc.queue ∧ undisturbed t) ∧
        ∀ before e after, s.clc.queue = before ++ e :: after → e.onLine = true → (∀ y ∈ before ++ after, y.onLine = false) →
          let limit := if e.command = .probePoll then 1 else 3
          (e.attempts < limit → entries t.clc.queue = entries s.clc.queue ∧ undisturbed t ∧
            ∀ y ∈ t.clc.queue, y.onLine = true → t.clc.queue.head? = some y) ∧
          (limit ≤ e.attempts →
            (e.command.isTimingSet = true ∨ e.command = .runLocal ∨ e.command.isPriorityAnswer = true ∨
              e.command = .probePoll → entries t.clc.queue = entries (before ++ after) ∧ undisturbed t) ∧
            (∀ d hold ref, e.command = .routeClear d hold → e.route = some ref →
              let member := ∃ r ∈ s.pm.routes, r.ref = ref ∧ ∃ m ∈ r.members, m.position = p
              (¬ member → undisturbed t) ∧
              (member → t.owner p = .none ∧ t.pm.isMember p = false ∧ ∀ q, q ≠ p → t.owner q = s.owner q)) ∧
            ∀ ref, e.command = .routeEnd → e.route = some ref →
              let pending := s.owner p = .route ref.origin ∧ s.pm.isMember p = false
              (¬ pending → undisturbed t) ∧ (pending → t.pm = { s.pm with owners := s.pm.owners.set p.val .none }))
    (x.phase = .window → fails .responseWindowExpiry) ∧ (x.phase = .quieting → fails .lineQuietExpiry) ∧
      ∀ before e after figures route, x.phase = .window → x.work = .command (.timingSet figures) route →
        s.clc.queue = before ++ e :: after → e.onLine = true → (∀ y ∈ before ++ after, y.onLine = false) →
        ∃ t, exec (.ack x.address) s = .next t ∧ entries t.clc.queue = entries (before ++ after)

/-- A line break ends when its time has come; without work the line is then idle and undriven. The queue is reported drained,
by its own event or at the end of a break: drain flag and draining go, and every position becomes UNKNOWN and takes the
health restart. That LINE_BREAK_END changes nothing before that time (notes/assumptions/1.md), and that the drained report is an
event of its own after the end of an exchange (notes/assumptions/10.md), are the model's choices. -/
def Obligations.BreakAndDrainEnd : Prop :=
  (∀ (ends : Time) (s : State), s.clc.line = .lineBreak ends → s.clc.drainFlag = false →
      (ends = s.now → ∃ t, exec .lineBreakEnd s = .next t ∧ Settles s t ∧
        (s.clc.queue = [] → (∀ p, s.clc.due.get p = none) →
          t.clc.line = .idle ∧ t.clc.driverEnable = false ∧ t.clc.txLevel = .mark)) ∧
      (ends ≠ s.now → exec .lineBreakEnd s = .next s)) ∧
  ∀ s : State, s.clc.drainFlag = true → s.sli.mode = .setup → s.clc.queue = [] →
    let drains (c : Instr) : Prop :=
      ∃ t, exec c s = .next t ∧ t.clc.drainFlag = false ∧ t.sli.draining = false ∧ t.clc.line = .idle ∧
        (∀ p, t.ident p = { state := .unknown, site := none, abilities := none, detectors := none, mode := none,
                            basic := none, retry := none, reprobe := none, byRequest := false }) ∧
        (∀ p, t.health p = { score := 0, failures := 0, state := .sound, probes := 0, probeDeadline := none,
                             quietTimer := none, stage := .none }) ∧
        (∀ p, (t.coord p).trim = (s.coord p).trim) ∧ t.er = s.er ∧ LeavesStores s t
    (s.clc.line = .idle → drains .queueDrained) ∧
      ∀ ends, s.clc.line = .lineBreak ends → ends = s.now → drains .lineBreakEnd

/-! ### Identification and health (09) -/

/-- SET-POSITION writes the configuration of a position, and CLEAR-POSITION takes it away with what was identified of it; in
SETUP with no drain flag. Every check turns the request away with the configuration as it was. -/
def Obligations.PositionsConfigured : Prop :=
  ∀ s : State, Ready s → s.sli.mode = .setup →
    (∀ x : PositionFields, s.clc.drainFlag = true → exec (.setPosition (.fields x)) s = .next (s.answered .setPosition .busy)) ∧
    (∀ n, s.clc.drainFlag = true → exec (.clearPosition (.fields n)) s = .next (s.answered .clearPosition .busy)) ∧
    (s.clc.drainFlag = false →
      (∀ (x : PositionFields) (p : Pos) (recovery : Recovery), x.position = p.val + 1 →
        (1 ≤ x.address ∧ x.address ≤ 30) → (1 ≤ x.site ∧ x.site ≤ 65535) →
        (1 ≤ x.permittedModes ∧ x.permittedModes ≤ 15) →
        x.recovery = (match recovery with | .auto => 0 | .host => 1) → x.routeLength ≤ 3 →
        let sharesAddress := ∃ q cfg, q ≠ p ∧ s.config.get q = some cfg ∧ cfg.address = x.address
        let sharesSite := ∃ q cfg, q ≠ p ∧ s.config.get q = some cfg ∧ cfg.site = x.site
        (sharesAddress → exec (.setPosition (.fields x)) s = .next (s.answered .setPosition (.badValue 0 2))) ∧
        (¬ sharesAddress → sharesSite →
          exec (.setPosition (.fields x)) s = .next (s.answered .setPosition (.badValue 0 3))) ∧
        (¬ sharesAddress → ¬ sharesSite →
          exec (.setPosition (.fields x)) s = .next (({ s with config := s.config.set p.val (some
            { address := x.address, site := x.site, permittedModes := x.permittedModes, recovery := recovery,
              routeLength := x.routeLength }) } : State).answered .setPosition (.done .none)))) ∧
      (∀ (x : PositionFields) (field : Nat),
        field = (if x.position = 0 ∨ 12 < x.position then 1 else if x.address = 0 ∨ 30 < x.address then 2
          else if x.site = 0 ∨ 65535 < x.site then 3 else if x.permittedModes = 0 ∨ 15 < x.permittedModes then 4
          else if 1 < x.recovery then 5 else if 3 < x.routeLength then 6 else 0) → field ≠ 0 →
        exec (.setPosition (.fields x)) s = .next (s.answered .setPosition (.badValue 0 field))) ∧
      (∀ n, (n = 0 ∨ 12 < n) → exec (.clearPosition (.fields n)) s = .next (s.answered .clearPosition (.badValue 0 1))) ∧
      ∀ p : Pos,
        (s.config.get p = none →
          exec (.clearPosition (.fields (p.val + 1))) s = .next (s.answered .clearPosition .noSuch)) ∧
        (s.config.get p ≠ none →
          ∃ t, exec (.clearPosition (.fields (p.val + 1))) s = .next t ∧ t.config = s.config.set p.val none ∧
            t.ident p = { state := .unknown, site := none, abilities := none, detectors := none, mode := none,
                          basic := none, retry := none, reprobe := none, byRequest := false } ∧
            t.health p = { score := 0, failures := 0, state := .sound, probes := 0, probeDeadline := none,
                           quietTimer := none, stage := .none } ∧
            (∀ q, q ≠ p → t.ident q = s.ident q ∧ t.health q = s.health q) ∧ t.ctb = s.ctb ∧ t.oc = s.oc ∧
            t.pt = s.pt ∧ t.qw = s.qw ∧ t.pm = s.pm ∧ t.pl = s.pl ∧ t.ps = s.ps ∧ t.clc = s.clc ∧ t.er = s.er ∧
            t.sli = (s.answered .clearPosition (.done .none)).sli))

/-- An IDENTITY with the configured site completes an identification IDENTIFIED, with the first mode that is permitted and
supported; with another site it ends in MISMATCH. A HEARTBEAT gives RELAY where that is permitted, else MISMATCH. On IDENTIFIED
the position goes from UNSEEN to LOCAL, with reason RELAY, NO-COMMON-MODE or AWAITING-MARK, and is tested for CUT-OFF: one whose
score has come to 160 is cut off at once. That spare ability bits are not read, and that any detector count is stored, are the
model's choices (notes/assumptions/19.md). -/
def Obligations.IdentificationCompletes : Prop :=
  (∀ (p : Pos) (x : Exchange) (e : QueueEntry) (rest : List QueueEntry) (route : Option RouteRef) (cfg : PositionConfig)
    (s : State),
    awaiting s x p → x.work = .command .identify route → s.clc.queue = e :: rest → e.onLine = true →
    (s.ident p).state = .probing → s.config.get p = some cfg → (s.health p).score < 160 →
    (∀ site abilities detectors,
      let permits (n : Nat) : Prop := bit cfg.permittedModes n = true
      let able (n : Nat) : Prop := bit abilities n = true
      let full := permits 0 ∧ able 0 ∧ able 1 ∧ able 2
      let timed := permits 1 ∧ able 0 ∧ able 1
      let paced := permits 2 ∧ able 0
      ∃ t, exec (.identity x.address { site := site, abilities := abilities, detectors := detectors }) s = .next t ∧
        (site = cfg.site →
          (t.ident p).state = .identified ∧ (t.ident p).site = some site ∧
            (t.ident p).abilities = some { offset := bit abilities 0, split := bit abilities 1,
                                           platoon := bit abilities 2, priority := bit abilities 3 } ∧
            (t.ident p).detectors = some detectors ∧ (t.ident p).basic = some false ∧
            ((t.ident p).mode = some .full ↔ full) ∧ ((t.ident p).mode = some .timed ↔ ¬ full ∧ timed) ∧
            ((t.ident p).mode = some .paced ↔ ¬ full ∧ ¬ timed ∧ paced) ∧
            ((t.ident p).mode = some .none ↔ ¬ full ∧ ¬ timed ∧ ¬ paced) ∧ t.clc.accepted.get p = none ∧
            ((s.coord p).state = .unseen → t.coord p = { s.coord p with
              state := .inLocal (if (t.ident p).mode = some .none then .noCommonMode else .awaitingMark), refusals := 0,
              fieldLocal := false }) ∧
            ((s.coord p).state ≠ .unseen → t.coord p = s.coord p)) ∧
        (site ≠ cfg.site → (t.ident p).state = .mismatch ∧ (t.ident p).site = some site ∧
          t.clc.accepted = s.clc.accepted ∧ t.oc = s.oc) ∧
        (t.ident p).retry = none ∧ (t.ident p).byRequest = false ∧ (∀ q, q ≠ p → t.ident q = s.ident q) ∧
        LeavesStores s t) ∧
    ∃ t, exec (.heartbeat x.address) s = .next t ∧
      (bit cfg.permittedModes 3 = true →
        (t.ident p).state = .identified ∧ (t.ident p).mode = some .relay ∧ (t.ident p).basic = some true ∧
          (t.ident p).abilities = (s.ident p).abilities ∧ (t.ident p).detectors = (s.ident p).detectors ∧
          t.clc.accepted.get p = none ∧
          ((s.coord p).state = .unseen →
            t.coord p = { s.coord p with state := .inLocal .relay, refusals := 0, fieldLocal := false })) ∧
      (bit cfg.permittedModes 3 = false →
        (t.ident p).state = .mismatch ∧ t.clc.accepted = s.clc.accepted ∧ t.oc = s.oc) ∧
      (t.ident p).retry = none ∧ (t.ident p).byRequest = false ∧ (∀ q, q ≠ p → t.ident q = s.ident q) ∧
      LeavesStores s t) ∧
  ∀ (p : Pos) (x : Exchange) (e : QueueEntry) (rest : List QueueEntry) (route : Option RouteRef) (cfg : PositionConfig)
    (s : State),
    awaiting s x p → x.work = .command .identify route → s.clc.queue = e :: rest → e.onLine = true →
    (s.ident p).state = .probing → s.config.get p = some cfg → 161 ≤ (s.health p).score → (s.health p).state ≠ .cutOff →
    (s.coord p).state = .unseen →
    ∀ abilities detectors, ∃ t,
      exec (.identity x.address { site := cfg.site, abilities := abilities, detectors := detectors }) s = .next t ∧
        (t.ident p).state = .identified ∧ (t.health p).state = .cutOff ∧ (t.coord p).state = .inLocal .cutOff ∧
        (∀ q, q ≠ p → { t.ident q with retry := none } = { s.ident q with retry := none }) ∧
        (s.pm.routeFrom p = none → ∀ q, q ≠ p → t.ident q = s.ident q) ∧ LeavesStores s t

/-- The third failed IDENTIFY drops its entry, and the identification ends ABSENT with a re-probe 300 ds on; at that deadline
a new identification begins. A retry deadline expires: it goes, and the IDENTIFY or the QUIET that waits is offered again. -/
def Obligations.IdentificationTriedAgain : Prop :=
  (∀ (p : Pos) (x : Exchange) (e : QueueEntry) (rest : List QueueEntry) (s : State), awaiting s x p →
    s.clc.queue = e :: rest → e.onLine = true → e.command = .identify → e.attempts = 3 →
    (s.ident p).state = .probing →
    ∃ t, exec .responseWindowExpiry s = .next t ∧ (t.ident p).state = .absent ∧
      (t.ident p).reprobe = some (later s.now 300) ∧ (t.ident p).retry = none ∧ (t.ident p).byRequest = false ∧
      (∀ q, q ≠ p → t.ident q = s.ident q) ∧ LeavesStores s t) ∧
  (∀ (p : Pos) (cfg : PositionConfig) (s : State), (s.ident p).state = .absent → (s.ident p).reprobe = some s.now →
    s.config.get p = some cfg → s.isLive = true → lineTaken s → s.clc.queue.length < 24 → (s.health p).state ≠ .cutOff →
    ∃ t, exec (.reprobeDeadlineExpiry p) s = .next t ∧
      t.ident p = { state := .probing, site := none, abilities := none, detectors := none, mode := none, basic := none,
                    retry := none, reprobe := none, byRequest := (s.ident p).byRequest } ∧
      t.health p = { s.health p with failures := 0, probeDeadline := none, probes := 0 } ∧
      (∀ q, q ≠ p → t.ident q = s.ident q ∧ t.health q = s.health q) ∧
      (beaconCondition s = true → t.clc.queue = joinQueue
        { command := .identify, address := cfg.address, position := some p, route := none, joined := s.now,
          attempts := 0, onLine := false } s.clc.queue) ∧
      t.oc = s.oc ∧ t.pt = s.pt ∧ t.qw = s.qw ∧ t.pm = s.pm ∧ t.ps = s.ps ∧ t.er = s.er ∧ LeavesStores s t) ∧
  ∀ (p : Pos) (cfg : PositionConfig) (s : State), (s.ident p).retry = some s.now → s.config.get p = some cfg →
    s.isLive = true → beaconCondition s = true → lineTaken s → s.clc.queue.length < 24 →
    let s' := s.withIdent p (fun i => { i with retry := none })
    let entry (c : LineCommand) : QueueEntry :=
      { command := c, address := cfg.address, position := some p, route := none, joined := s.now, attempts := 0,
        onLine := false }
    ∃ t, exec (.retryDeadlineExpiry p) s = .next t ∧ Settles s' t ∧ t.clc.line = s.clc.line ∧
      ((s.health p).stage = .quieting →
        s.clc.queue.any (fun e => (e.command == .quiet || e.command == .runLocal) && e.position == some p) = false →
        t.clc.queue = joinQueue (entry .quiet) s.clc.queue) ∧
      ((s.health p).stage ≠ .quieting → (s.ident p).state = .probing →
        t.clc.queue = joinQueue (entry .identify) s.clc.queue) ∧
      ((s.health p).stage ≠ .quieting → (s.ident p).state ≠ .probing → t.clc.queue = s.clc.queue)

/-- A probe deadline expires: it is set 50 ds on, and a probe POLL is offered unless one for the position is queued. The third
GOOD probe in a row brings the position back SOUND and begins an identification. -/
def Obligations.ProbesBringBack : Prop :=
  (∀ (p : Pos) (cfg : PositionConfig) (s : State), (s.health p).probeDeadline = some s.now → s.config.get p = some cfg →
    s.isLive = true → beaconCondition s = true → lineTaken s → s.clc.queue.length < 24 →
    ∃ t, exec (.probeDeadlineExpiry p) s = .next t ∧
      Settles (s.withHealth p (fun h => { h with probeDeadline := some (later s.now 50) })) t ∧
      t.clc.line = s.clc.line ∧
      t.clc.queue = (if s.clc.queue.any (fun e => e.position == some p && e.command == .probePoll) then s.clc.queue
        else joinQueue { command := .probePoll, address := cfg.address, position := some p, route := none,
                         joined := s.now, attempts := 0, onLine := false } s.clc.queue)) ∧
  ∀ (p : Pos) (x : Exchange) (route : Option RouteRef) (e : QueueEntry) (rest : List QueueEntry) (s : State),
    awaiting s x p → x.work = .command .probePoll route → s.clc.queue = e :: rest → e.onLine = true →
    (s.health p).state = .cutOff →
    ∃ t, exec (.heartbeat x.address) s = .next t ∧ LeavesStores s t ∧
      ((s.health p).probes < 2 →
        t.health p = { s.health p with
          score := (s.health p).score - 1, failures := 0, probes := (s.health p).probes + 1 } ∧
        (t.ident p) = (s.ident p)) ∧
      (2 ≤ (s.health p).probes → s.config.get p ≠ none →
        (t.ident p).state = .probing ∧
          t.health p = { s.health p with
            score := 0, failures := 0, state := .sound, probes := 0, probeDeadline := none })

/-- RE-IDENTIFY is ACCEPTED, stops the probes and offers a QUIET; the ACK of the QUIET begins the quiet period of 30 ds, at
whose end an identification begins. -/
def Obligations.ReIdentificationRuns : Prop :=
  (∀ (p : Pos) (s : State), Ready s → s.sli.mode = .live →
    (∀ n, (n = 0 ∨ 12 < n) → exec (.reIdentify (.fields n)) s = .next (s.answered .reIdentify (.badValue 0 1))) ∧
    (s.config.get p = none → exec (.reIdentify (.fields (p.val + 1))) s = .next (s.answered .reIdentify .noSuch)) ∧
    (s.config.get p ≠ none → ((s.ident p).state = .probing ∨ (s.health p).stage ≠ .none) →
      exec (.reIdentify (.fields (p.val + 1))) s = .next (s.answered .reIdentify .inProgress)) ∧
    ∀ cfg, s.config.get p = some cfg → (s.ident p).state ≠ .probing → (s.health p).stage = .none → lineTaken s →
      beaconCondition s = true → s.clc.queue.length < 24 →
      s.clc.queue.any (fun e => (e.command == .quiet || e.command == .runLocal) && e.position == some p) = false →
      ∃ t, exec (.reIdentify (.fields (p.val + 1))) s = .next t ∧
        t.ident p = { s.ident p with byRequest := true, reprobe := none } ∧
        t.health p = { s.health p with probeDeadline := none, probes := 0, stage := .quieting } ∧
        t.clc.queue = joinQueue { command := .quiet, address := cfg.address, position := some p, route := none,
                                  joined := s.now, attempts := 0, onLine := false } s.clc.queue ∧
        t.sli.replySlot = some (.request .reIdentify .accepted) ∧ (∀ q, q ≠ p → t.ident q = s.ident q) ∧
        (∀ q, q ≠ p → t.health q = s.health q) ∧ t.ctb = s.ctb ∧ t.oc = s.oc ∧ t.pt = s.pt ∧ t.qw = s.qw ∧
        t.pm = s.pm ∧ t.pl = s.pl ∧ t.ps = s.ps ∧ t.er = s.er ∧ t.config = s.config) ∧
  (∀ (p : Pos) (x : Exchange) (route : Option RouteRef) (s : State), awaiting s x p →
    x.work = .command .quiet route → (s.health p).stage = .quieting → (s.health p).score < 160 →
    ∃ t, exec (.ack x.address) s = .next t ∧ (t.health p).stage = .quiet ∧
      (t.health p).quietTimer = some (later s.now 30) ∧ pollEligible t p = false ∧ LeavesStores s t) ∧
  ∀ (p : Pos) (s : State), (s.health p).quietTimer = some s.now → s.config.get p ≠ none →
    ∃ t, exec (.quietTimerExpiry p) s = .next t ∧ (t.health p).stage = .none ∧ (t.health p).quietTimer = none ∧
      (t.ident p).state = .probing ∧ (t.ident p).site = none ∧ (t.ident p).mode = none ∧
      (t.ident p).byRequest = (s.ident p).byRequest ∧ (t.health p).failures = 0 ∧
      (t.health p).score = (s.health p).score ∧ (t.health p).state ≠ .cutOff ∧ LeavesStores s t

/-- REJOIN of a CUT-OFF position without probes is ACCEPTED and its probes begin; of one that is not CUT-OFF it is DONE. Either
clears the reason REFUSING and a refusal count of 4. -/
def Obligations.RejoinTaken : Prop :=
  ∀ (p : Pos) (s : State), Ready s → s.sli.mode = .live →
    (∀ n, (n = 0 ∨ 12 < n) → exec (.rejoin (.fields n)) s = .next (s.answered .rejoin (.badValue 0 1))) ∧
    (s.config.get p = none → exec (.rejoin (.fields (p.val + 1))) s = .next (s.answered .rejoin .noSuch)) ∧
    (s.config.get p ≠ none → (s.health p).state = .cutOff →
      ((s.health p).probeDeadline ≠ none ∨ (s.health p).stage ≠ .none) →
      exec (.rejoin (.fields (p.val + 1))) s = .next (s.answered .rejoin .inProgress)) ∧
    (s.config.get p ≠ none →
      ((s.health p).state = .cutOff → (s.health p).probeDeadline = none ∧ (s.health p).stage = .none) →
      ∃ t, exec (.rejoin (.fields (p.val + 1))) s = .next t ∧
        ((s.health p).state = .cutOff →
          t.health p = { s.health p with probeDeadline := some (later s.now 50) } ∧
          t.sli.replySlot = some (.request .rejoin .accepted)) ∧
        ((s.health p).state ≠ .cutOff →
          t.health p = s.health p ∧ t.sli.replySlot = some (.request .rejoin (.done .none))) ∧
        ((s.coord p).state = .inLocal .refusing →
          t.coord p = { s.coord p with state := .inLocal .awaitingMark, refusals := 0 }) ∧
        ((s.coord p).state ≠ .inLocal .refusing →
          t.coord p = { s.coord p with refusals := if (s.coord p).refusals = 4 then 0 else (s.coord p).refusals }) ∧
        (∀ q, q ≠ p → t.coord q = s.coord q ∧ t.health q = s.health q) ∧ t.ctb = s.ctb ∧ t.pt = s.pt ∧ t.qw = s.qw ∧
        t.pm = s.pm ∧ t.pl = s.pl ∧ t.ps = s.ps ∧ t.clc = s.clc ∧ t.er = s.er ∧ t.config = s.config ∧
        t.ih.ident = s.ih.ident)

/-- The silence deadline expires: the line reset counts itself, empties the queue and the route table, flushes the pool,
sends a break of 5 ds unless one is being sent, and makes every position UNKNOWN, or PROBING in LIVE where it is configured;
the IDENTIFYs of the roll call then stand in the queue in position order. A frame that is being sent is finished first, and
the break begins when it has been sent; that the line keeps the exchange until then is the model's reading
(notes/assumptions/6.md). The trims, the rules, the link records with their estimates and tracking, the Plan Selector and
every setting are kept. -/
def Obligations.LineResetStartsAgain : Prop :=
  (∀ s : State, s.ih.silence = some s.now →
    ∃ t, exec .lineSilenceExpiry s = .next t ∧ t.ih.lineResets = min 255 (s.ih.lineResets + 1) ∧
      t.ih.silence = none ∧ t.pm.routes = [] ∧ (∀ p, t.owner p = .none) ∧ (∀ p, t.budget p = s.budget p) ∧
      t.pt.freeCount = 64 ∧ (∀ l, t.link l = { s.link l with queue := [] }) ∧ t.ps = s.ps ∧
      (∀ p, t.clc.due.get p = none) ∧
      (∀ e ∈ t.clc.queue, (e.command = .identify ∨ e.command = .runLocal) ∧ e.joined = s.now ∧ e.attempts = 0 ∧
        e.onLine = false) ∧
      (t.clc.queue.filter (fun e => e.command == .identify)).map QueueEntry.position =
        (if s.sli.mode = .live then (positions.filter (fun p => (s.config.get p).isSome)).map some else []) ∧
      (∀ ends, s.clc.line = .lineBreak ends → t.clc.line = s.clc.line) ∧
      (∀ x, s.clc.line = .exchange x → x.phase = .sending ∨ x.phase = .abandoned →
        t.clc.line = .exchange { x with phase := .abandoned } ∧ t.clc.driverEnable = s.clc.driverEnable ∧
          t.clc.txLevel = s.clc.txLevel) ∧
      ((∀ ends, s.clc.line ≠ .lineBreak ends) →
        (∀ x, s.clc.line = .exchange x → x.phase ≠ .sending ∧ x.phase ≠ .abandoned) →
        t.clc.line = .lineBreak (later s.now 5) ∧ t.clc.driverEnable = true ∧ t.clc.txLevel = .space) ∧
      t.clc.roundDeadline = s.clc.roundDeadline ∧ t.clc.summaries = s.clc.summaries ∧
      (∀ p, (t.ident p).state = if s.sli.mode = .live ∧ s.config.get p ≠ none then .probing else .unknown) ∧
      (∀ p, t.health p = { score := 0, failures := 0, state := .sound, probes := 0, probeDeadline := none,
                           quietTimer := none, stage := .none }) ∧
      (∀ p, (t.coord p).trim = (s.coord p).trim) ∧ t.er = s.er ∧ LeavesStores s t) ∧
  ∀ (x : Exchange) (s : State), s.clc.line = .exchange x → x.phase = .abandoned →
    exec .commandFrameSent s = .next { s with clc := { s.clc with
      line := .lineBreak (later s.now 5), driverEnable := true, txLevel := .space } }

/-! ### Event routing (10) -/

/-- The event records of a STATUS. One new record is routed once and its number accepted: a malformed one raises the no-match
count, one of the fixed route the fixed count, any other the hit count of the first rule that matches it, or the no-match count;
the counts stay at 65,535. Repeats change no count and leave the accepted number. Of two new records the accepted number becomes
that of the later in the order of the numbers, and of two with one number the first stands. -/
def Obligations.RecordsAreRouted : Prop :=
  (∀ (p : Pos) (x : Exchange) (reply : StatusFields) (r : EventRecord) (s : State), Reports s x p reply r →
    let malformed := 8 < r.kind ∨ 2 < r.direction ∨ r.detector = 0 ∨ 32 < r.detector
    let hit (i : RuleIx) : Prop := ∃ rule, s.er.rules.get i = some rule ∧
      (rule.kind = none ∨ rule.kind = recordKindOf r.kind) ∧
      (rule.direction = none ∨ rule.direction = eventDirectionOf r.direction) ∧
      rule.detectorLow ≤ r.detector ∧ r.detector ≤ rule.detectorHigh ∧ bit rule.positions p.val = true
    ∃ t, exec (.status x.address reply) s = .next t ∧ LeavesStores s t ∧
      t.clc.accepted = s.clc.accepted.set p.val (some r.sequence) ∧
      (malformed → t.er = { s.er with noMatch := min 65535 (s.er.noMatch + 1) }) ∧
      (¬ malformed → 5 ≤ r.kind → t.er = { s.er with fixedCount := min 65535 (s.er.fixedCount + 1) }) ∧
      (¬ malformed → r.kind ≤ 4 → (∀ i, ¬ hit i) → t.er = { s.er with noMatch := min 65535 (s.er.noMatch + 1) }) ∧
      (¬ malformed → r.kind ≤ 4 → ∀ i, hit i → (∀ j, j < i → ¬ hit j) →
        t.er = { s.er with hits := s.er.hits.set i.val (min 65535 (s.er.hits.get i + 1)) })) ∧
  (∀ (p : Pos) (x : Exchange) (reply : StatusFields) (n : Nat) (s : State),
    Polled s x p → (stageOf reply.stage).isSome = true → reply.records.length ≤ 8 → s.clc.accepted.get p = some n →
    (∀ r ∈ reply.records, modC ((r.sequence : Int) - n) 256 = 0 ∨ 128 ≤ modC ((r.sequence : Int) - n) 256) →
    ∃ t, exec (.status x.address reply) s = .next t ∧ t.er = s.er ∧ t.clc.accepted = s.clc.accepted ∧ t.ps = s.ps ∧
      LeavesStores s t) ∧
  ∀ (p : Pos) (x : Exchange) (reply : StatusFields) (a b : EventRecord) (n : Nat) (s : State),
    Polled s x p → (stageOf reply.stage).isSome = true → reply.records = [a, b] → s.clc.accepted.get p = some n →
    let first := modC ((a.sequence : Int) - n) 256
    let second := modC ((b.sequence : Int) - n) 256
    (1 ≤ first ∧ first ≤ 127) → (1 ≤ second ∧ second ≤ 127) →
    ∃ t, exec (.status x.address reply) s = .next t ∧ LeavesStores s t ∧
      t.clc.accepted = s.clc.accepted.set p.val (some (if first < second then b.sequence else a.sequence))

/-- A record delivered to the Platoon Tracker. With tag 1 it is a departure: where both ends stand and the group has the size and
has not passed, a platoon with the times of R51 joins the queue of its link in the order of departure heads, the oldest giving way
in a full queue and the pool giving the record otherwise. With tag 2 it is an arrival: the first record whose window and travel
time fit leaves the queue, the link is TRACKED, its estimate moves where the position is SOUND, and the arrival error is taken
under a plan that runs the link's way; an arrival that fits none changes nothing, and so does any other tag. That a departure is
taken while the downstream end is in a quiet period is the model's choice (notes/assumptions/42.md). -/
def Obligations.PlatoonsFollowTheRecords : Prop :=
  (∀ (p : Pos) (x : Exchange) (reply : StatusFields) (r : EventRecord) (d : EventDirection) (rule : Rule) (l : Link) (s : State),
    Reports s x p reply r → deliveredBy s p r d rule → rule.destinations.platoon = true → rule.tag = 1 →
    linkLeaving p d = some l → (s.health p).state = .sound → (s.health p).score ≤ 64 →
    let q := downstreamEnd l
    let held := (s.link l).queue
    let depth := (s.link l).depth
    let head := earlier (earlier s.now r.age) r.value
    let predictedHead := later head (s.link l).estimate
    let predictedTail := later predictedHead (r.value * 5 / 4)
    let close := later predictedTail s.pt.lateSlack
    let platoon (n : Nat) : Platoon :=
      { number := n, head := head, duration := r.value, size := min 255 r.extra, predictedHead := predictedHead,
        predictedTail := predictedTail, windowOpen := earlier predictedHead s.pt.earlySlack, windowClose := close }
    let taken := (s.coord p).state ≠ .unseen ∧ (s.coord q).state ≠ .unseen ∧ (s.health q).state ≠ .cutOff ∧ r.value ≤ 1200 ∧
      s.pt.minimumSize ≤ r.extra ∧ before s.now close = true
    let joins (t : State) (others : List Platoon) : Prop := ∃ n older younger, others = older ++ younger ∧
      t.link l = { s.link l with queue := older ++ platoon n :: younger } ∧ (∀ y ∈ older, before head y.head = false) ∧
      (∀ y, younger.head? = some y → before head y.head = true)
    ∃ t, exec (.status x.address reply) s = .next t ∧ LeavesStores s t ∧ (∀ m, m ≠ l → t.link m = s.link m) ∧
      t.pt.accumulators = s.pt.accumulators ∧ t.pt.errorBase = s.pt.errorBase ∧
      (¬ taken → t.pt = s.pt) ∧
      (taken → held.length < depth → s.pt.freeCount = 0 → t.pt = { s.pt with poolEmptyRaised := true }) ∧
      (taken → held.length < depth → s.pt.freeCount ≠ 0 → joins t held ∧ t.pt.freeCount = s.pt.freeCount - 1 ∧
        ((∀ m, ∀ y ∈ (s.link m).queue, y.number ≠ s.pt.nextNumber) →
          (∃ y ∈ (t.link l).queue, y = platoon s.pt.nextNumber) ∧
            t.pt.nextNumber = if s.pt.nextNumber < 65535 then s.pt.nextNumber + 1 else 1)) ∧
      (taken → depth ≤ held.length → (∀ y ∈ held, before head y.head = true) → t.pt = s.pt) ∧
      (taken → depth ≤ held.length → ∀ oldest rest, held = oldest :: rest →
        (∃ y ∈ held, before head y.head = false) → joins t rest ∧ t.pt.freeCount = s.pt.freeCount)) ∧
  (∀ (p : Pos) (x : Exchange) (reply : StatusFields) (r : EventRecord) (d : EventDirection) (rule : Rule) (l : Link) (s : State),
    Reports s x p reply r → deliveredBy s p r d rule → rule.destinations.platoon = true → rule.tag = 2 →
    linkArriving p d = some l →
    let arrived := earlier s.now r.age
    let design := max 50 (min 1200 ((s.link l).distance * 36 / (s.link l).speed))
    let fits (y : Platoon) : Prop := elapsed arrived y.windowOpen ≤ elapsed y.windowClose y.windowOpen ∧
      design / 2 ≤ elapsed arrived y.head ∧ elapsed arrived y.head ≤ 2 * design
    ∃ t, exec (.status x.address reply) s = .next t ∧ LeavesStores s t ∧ (∀ m, m ≠ l → t.link m = s.link m) ∧
      ((∀ y ∈ (s.link l).queue, ¬ fits y) → t.pt = s.pt) ∧
      ∀ older y younger, (s.link l).queue = older ++ y :: younger → (∀ z ∈ older, ¬ fits z ∧ z.number ≠ y.number) → fits y →
        t.link l = { s.link l with
          queue := older ++ younger, lost := 0, tracked := true,
          estimate := if (t.health p).state = .sound then
            max 50 (min 1200 (moveToward (s.link l).estimate (elapsed arrived y.head) 4)) else (s.link l).estimate } ∧
        t.pt.freeCount = s.pt.freeCount + 1 ∧
        ((∀ image, s.ps.image = some image → image.plan.header.wave ≠ (match l.direction with
            | .inbound => .inbound
            | .outbound => .outbound)) → t.pt.accumulators = s.pt.accumulators) ∧
        ∀ image target, s.ps.image = some image → image.plan.header.wave = (match l.direction with
            | .inbound => .inbound
            | .outbound => .outbound) →
          (s.ident (upstreamEnd l)).mode = some .full → (s.health (upstreamEnd l)).state = .sound →
          (s.coord p).target = some target → (∀ b, s.pt.errorBase = some b → before arrived b = false) →
          let place := modC ((s.cyclePosition : Int) - elapsed s.now arrived) s.ctb.cycleLength
          let error := wrapHalf ((place : Int) - ((target.offset : Int) - (s.link l).lead)) s.ctb.cycleLength
          let a := s.pt.accumulators.get p
          t.pt.accumulators = if a.count < 255 then
            s.pt.accumulators.set p.val { sum := a.sum + error, count := a.count + 1 } else s.pt.accumulators) ∧
  ∀ (p : Pos) (x : Exchange) (reply : StatusFields) (r : EventRecord) (d : EventDirection) (rule : Rule) (s : State),
    Reports s x p reply r → deliveredBy s p r d rule →
    (rule.destinations.platoon = false ∨ (rule.tag ≠ 1 ∧ rule.tag ≠ 2) ∨ (rule.tag = 1 ∧ linkLeaving p d = none) ∨
      (rule.tag = 2 ∧ linkArriving p d = none)) →
    ∃ t, exec (.status x.address reply) s = .next t ∧ LeavesStores s t ∧ t.pt = s.pt

/-- A record delivered to Queue Watch or to the Plan Selector. With tag 1 it is a sample of the arterial approach of its direction,
with tag 2 of the side approach: the smoothed occupancy starts at the value or moves toward it, and the state follows the limits of
the class by at most two steps, with hysteresis; overlays and, on a change of state, gridlock conditions stand as the BLOCKED
approaches make them. A value above 100, another tag or direction, and a position in UNSEEN change nothing there. As a count, with
tag 1 to 4, it adds value × tag to the accumulator of its direction, which stays at 65,535. When the silence deadline of an
approach record expires it falls to UNKNOWN with its latched worst state kept, and no other record changes. -/
def Obligations.SamplesSilenceAndCountsTaken : Prop :=
  (∀ (p : Pos) (x : Exchange) (reply : StatusFields) (r : EventRecord) (d : EventDirection) (rule : Rule) (s : State),
    Reports s x p reply r → deliveredBy s p r d rule →
    let sampled (a : Approach) : Prop := rule.destinations.queue = true ∧
      ((rule.tag = 1 ∧ d = .inbound ∧ a = .inboundArterial) ∨ (rule.tag = 1 ∧ d = .outbound ∧ a = .outboundArterial) ∨
        (rule.tag = 2 ∧ a = .side)) ∧ (s.coord p).state ≠ .unseen ∧ r.value ≤ 100
    ∃ t, exec (.status x.address reply) s = .next t ∧ LeavesStores s t ∧
      ((∀ a, ¬ sampled a) → t.qw = s.qw) ∧
      (∀ a, sampled a →
        let limits := if a = .side then s.qw.sideLimits else s.qw.arterialLimits
        let old := s.approach p a
        let arrived := earlier s.now r.age
        let v := match old.heard with
          | none => r.value
          | some h => moveToward h.smoothed r.value (2 ^ limits.exponent)
        let last := match old.heard with
          | none => arrived
          | some h => if before h.lastSample arrived then arrived else h.lastSample
        let falling : QueueState := if v < limits.buildingOn - limits.hysteresis then .clear else .building
        let state : QueueState := match old.state with
          | .blocked => if v < limits.blockedOn - limits.hysteresis then falling else .blocked
          | .building => if limits.blockedOn ≤ v then .blocked else falling
          | _ => if v < limits.buildingOn then .clear else if v < limits.blockedOn then .building else .blocked
        let blocked (a : Approach) (q : Pos) : Bool := (t.approach q a).state == .blocked
        let next (a : Approach) : Option Pos → Bool
          | none => false
          | some q => blocked a q
        t.approach p a = { state := state, worst := worseOf old.worst state,
                           heard := some { smoothed := v, lastSample := last, silence := later last 300 } } ∧
          (∀ q b, (q ≠ p ∨ b ≠ a) → t.approach q b = s.approach q b) ∧
          (∀ q, t.qw.overlays q =
            { flush := blocked .inboundArterial q || blocked .outboundArterial q,
              gate := next .inboundArterial (nearer q) || next .outboundArterial (farther q),
              sideRelief := blocked .side q }) ∧
          (state = old.state → t.qw.gridlock = s.qw.gridlock) ∧
          (state ≠ old.state → ∀ q, t.qw.gridlock.get q =
            { cross := (blocked .inboundArterial q || blocked .outboundArterial q) && blocked .side q,
              chainInbound := blocked .inboundArterial q && next .inboundArterial (farther q),
              chainOutbound := blocked .outboundArterial q && next .outboundArterial (nearer q) })) ∧
      (let counted := rule.destinations.demand = true ∧ 1 ≤ rule.tag ∧ rule.tag ≤ 4
       (counted → d = .inbound →
         t.ps = { s.ps with inboundAccumulator := min 65535 (s.ps.inboundAccumulator + r.value * rule.tag) }) ∧
       (counted → d = .outbound →
         t.ps = { s.ps with outboundAccumulator := min 65535 (s.ps.outboundAccumulator + r.value * rule.tag) }) ∧
       ((¬ counted ∨ d = .none) → t.ps = s.ps))) ∧
  ∀ (p : Pos) (a : Approach) (h : Heard) (s : State), (s.approach p a).heard = some h → h.silence = s.now →
    ∃ t, exec (.approachSilenceExpiry p a) s = .next t ∧
      t.approach p a = { state := .unknown, worst := (s.approach p a).worst, heard := none } ∧
      (∀ q b, (q ≠ p ∨ b ≠ a) → t.approach q b = s.approach q b) ∧ t.oc = s.oc ∧ t.pt = s.pt ∧ t.pm = s.pm ∧
      t.ps = s.ps ∧ t.er = s.er ∧ LeavesStores s t


/-- A PREEMPT-CALL from a position makes its owner LOCAL-CALL with its direction, takes it out of every route and preempts it
while it is steered; a STATUS without the PREEMPTING flag ends the call again in its own handling. With a route length, the
candidates ahead up to the first that fails a test become members of a new route, each owned by it and sent a ROUTE-CLEAR:
one without an owner is preempted while it is steered, and one that is release pending from the same origin stays as it is;
with no member, or 6 routes held, no route is formed. A PREEMPT-CLEAR ends the local call and its route: the position takes
up SEEKING unmeasured, and the same STATUS does not measure it. The serial that tells a route from a later one of its origin
is a field of the model's own (notes/assumptions/11.md). -/
def Obligations.CallsTakenAndCleared : Prop :=
  (∀ (p : Pos) (x : Exchange) (reply : StatusFields) (r : EventRecord) (d : EventDirection) (s : State),
    Reports s x p reply r → fixedRecord r .preemptCall d → bit reply.flags 0 = false →
    ∃ t, exec (.status x.address reply) s = .next t ∧ LeavesStores s t ∧ t.pm.isMember p = false ∧
      t.pt = s.pt ∧ t.qw = s.qw ∧ t.ps = s.ps ∧
      (bit reply.flags 1 = true → t.owner p = .localCall d) ∧
      (bit reply.flags 1 = false → t.owner p = .none ∧ t.pm.routes.all (fun r => r.ref.origin != p) = true) ∧
      (bit reply.flags 1 = true → s.owner p = .none → steered (s.coord p).state = true →
        t.coord p = { s.coord p with
          state := .preempted, measured := none, settle := none, grant := none, commanded := false, fieldLocal := false }) ∧
      (bit reply.flags 1 = false → s.owner p = .none → steered (s.coord p).state = true →
        (t.coord p).measured = none ∧
          (t.coord p).state = if s.imageEntry p = none then .inLocal .notInPlan else .seeking .lengthen)) ∧
  (∀ (p : Pos) (x : Exchange) (reply : StatusFields) (r : EventRecord) (way : Direction) (cfg : PositionConfig)
    (members rest : List Pos) (s : State),
    Reports s x p reply r → fixedRecord r .preemptCall (toEvent way) → bit reply.flags 1 = true →
    s.config.get p = some cfg → s.pm.isMember p = false → s.pm.routeFrom p = none →
    let fits (q : Pos) : Prop := (s.owner q = .none ∨ (s.owner q = .route p ∧ s.pm.isMember q = false)) ∧
      (s.ident q).state = .identified ∧ (s.health q).state ≠ .cutOff ∧ (s.health q).quietTimer = none ∧
      (s.ident q).abilities.map Abilities.priority = some true ∧ (s.ident q).mode ≠ some .relay
    ahead way cfg.routeLength p = members ++ rest → (∀ q ∈ members, fits q) → (∀ q, rest.head? = some q → ¬ fits q) →
    ∃ t, exec (.status x.address reply) s = .next t ∧ LeavesStores s t ∧
      (∀ q, q ≠ p → q ∉ members → t.owner q = s.owner q) ∧
      ((members = [] ∨ 6 ≤ s.pm.routes.length) → t.pm.routes = s.pm.routes ∧ ∀ q ∈ members, t.owner q = s.owner q) ∧
      (members ≠ [] → s.pm.routes.length < 6 → s.clc.queue.length + members.length ≤ 24 →
        (∀ q ∈ members, s.config.get q ≠ none) →
        t.pm.routes = s.pm.routes ++ [
          { ref := { origin := p, serial := s.pm.nextSerial }, direction := way,
            members := members.map (fun q => { position := q, held := false }), start := s.now,
            deadline := later s.now s.pm.policy.routeTimeout }] ∧
        ∀ q ∈ members, t.owner q = .route p ∧
          (s.owner q = .none → steered (s.coord q).state = true → (t.coord q).state = .preempted) ∧
          (s.owner q ≠ .none → t.coord q = s.coord q) ∧
          ∃ e ∈ t.clc.queue, e.position = some q ∧ e.command = .routeClear way s.pm.policy.routeTimeout)) ∧
  ∀ (p : Pos) (x : Exchange) (reply : StatusFields) (r : EventRecord) (d : EventDirection) (s : State),
    Reports s x p reply r → fixedRecord r .preemptClear d → bit reply.flags 0 = false → bit reply.flags 1 = false →
    ∃ t, exec (.status x.address reply) s = .next t ∧ LeavesStores s t ∧ t.pt = s.pt ∧ t.qw = s.qw ∧ t.ps = s.ps ∧
      ((∀ d, s.owner p ≠ .localCall d) → t.pm = s.pm) ∧
      (∀ d, s.owner p = .localCall d → t.owner p = .none ∧
        t.pm.routes = s.pm.routes.filter (fun r => r.ref.origin != p) ∧
        ((s.coord p).state = .preempted → ∀ e, s.imageEntry p = some e →
          t.coord p = { s.coord p with
            state := .seeking .lengthen, measured := none, commanded := false, fieldLocal := false,
            target := some (targetOf e (s.coord p).trim s.ctb.cycleLength) }))

/-- A UNIT-FAULT raises the transit grant budget of its position to the recovery setting; a member leaves its route, keeps
its owner, and a ROUTE-END is queued for it. A TRANSIT-CALL is denied with the first reason of R96 that applies, and granted
otherwise with the extension of R97; the answer is queued, and a grant that is queued becomes the pending grant and sets the
budget to the recovery setting; one that the queue refuses changes nothing. That the ROUTE-END is queued also where the
ROUTE-CLEAR has not been sent is the model's reading (notes/assumptions/13.md). -/
def Obligations.FaultsAndTransitCallsTaken : Prop :=
  (∀ (p : Pos) (x : Exchange) (reply : StatusFields) (r : EventRecord) (d : EventDirection) (s : State),
    Reports s x p reply r → fixedRecord r .unitFault d → bit reply.flags 1 = false → (∀ d, s.owner p ≠ .localCall d) →
    ∃ t, exec (.status x.address reply) s = .next t ∧ LeavesStores s t ∧ t.pt = s.pt ∧ t.qw = s.qw ∧ t.ps = s.ps ∧
      t.budget p = max (s.budget p) s.pm.policy.recovery ∧ (∀ q, q ≠ p → t.budget q = s.budget q ∧ t.owner q = s.owner q) ∧
      (s.pm.isMember p = false → t.pm.routes = s.pm.routes ∧ t.owner p = s.owner p) ∧
      (s.pm.isMember p = true →
        t.pm.routes = s.pm.routes.map (fun r => { r with members := r.members.filter (fun m => m.position != p) }) ∧
        (s.clc.queue.length < 24 → s.config.get p ≠ none → t.owner p = s.owner p ∧
          ∃ e ∈ t.clc.queue, e.position = some p ∧ e.command = .routeEnd))) ∧
  ∀ (p : Pos) (x : Exchange) (reply : StatusFields) (r : EventRecord) (d : EventDirection) (cfg : PositionConfig) (s : State),
    Reports s x p reply r → fixedRecord r .transitCall d → bit reply.flags 0 = false → bit reply.flags 1 = false →
    (∀ d, s.owner p ≠ .localCall d) → s.config.get p = some cfg → (∀ e ∈ s.clc.queue, e.onLine = false) →
    ∃ t, exec (.status x.address reply) s = .next t ∧ LeavesStores s t ∧ t.pt = s.pt ∧ t.qw = s.qw ∧ t.ps = s.ps ∧
      let extension := match s.imageEntry p with
        | none => 0
        | some e => min s.pm.policy.extensionMax (e.maxMain - ungrantedMain s p e)
      let eligible := (s.ident p).mode = some .full ∧ (s.ident p).abilities.map Abilities.priority = some true ∧
        steered (s.coord p).state = true ∧ (t.health p).state = .sound ∧ extension ≠ 0
      let denied (reason : DenyReason) : Prop := t.pm = s.pm ∧ (t.coord p).grant = (s.coord p).grant ∧
        (s.clc.queue.length < 24 →
          ∃ e ∈ t.clc.queue, e.position = some p ∧ e.command = .priorityAnswer (.deny reason))
      let overlaid := (s.qw.overlays p).flush = true ∨ (s.qw.overlays p).gate = true
      ((s.owner p ≠ .none ∨ (s.coord p).state = .preempted) → denied .preempted) ∧
      (s.owner p = .none → (s.coord p).state ≠ .preempted → ¬ eligible → denied .notEligible) ∧
      (s.owner p = .none → eligible → overlaid → denied .overlay) ∧
      (s.owner p = .none → eligible → ¬ overlaid → 0 < s.budget p → denied .budget) ∧
      (s.owner p = .none → eligible → ¬ overlaid → s.budget p = 0 →
        (s.clc.queue.length < 24 →
          (t.coord p).grant = some extension ∧
            t.pm = { s.pm with budgets := s.pm.budgets.set p.val s.pm.policy.recovery } ∧
            ∃ e ∈ t.clc.queue, e.position = some p ∧ e.command = .priorityAnswer (.grant extension)) ∧
        (24 ≤ s.clc.queue.length → (∀ e ∈ s.clc.queue, 2 ≤ e.rank) →
          t.pm = s.pm ∧ (t.coord p).grant = (s.coord p).grant))

/-- SET-RULE puts a rule at its place, and CLEAR-RULE empties it; the place's hit count becomes 0 and every other place stays.
GET-RULE gives the rule and its count, or the places that hold rules with the two counts; READ-AND-ZERO then zeroes what it
has given, READ nothing. That an action outside its set is read by the layout of READ is the model's choice
(notes/assumptions/21.md). -/
def Obligations.RuleTableWrittenAndRead : Prop :=
  ∀ s : State, Ready s →
    (∀ (i : RuleIx) (kind : Nat) (matchKind : MatchKind) (way : Nat) (matchDirection : Option EventDirection)
      (low high set destinations tag : Nat), s.sli.mode = .setup →
      let x : RuleFields :=
        { index := i.val + 1, matchKind := kind, matchDirection := way, detectorLow := low, detectorHigh := high,
          positionSet := set, destinations := destinations, tag := tag }
      matchKindOf kind = some matchKind → matchDirectionOf way = some matchDirection →
      (1 ≤ low ∧ low ≤ high ∧ high ≤ 32) → (1 ≤ set ∧ set < 4096) → destinations < 16 → tag ≤ 255 →
      exec (.setRule (.fields x)) s = .next (({ s with er := { s.er with
        rules := s.er.rules.set i.val (some
          { kind := matchKind, direction := matchDirection, detectorLow := low, detectorHigh := high, positions := set,
            destinations := { platoon := bit destinations 0, queue := bit destinations 1, demand := bit destinations 2,
                              notice := bit destinations 3 },
            tag := tag }),
        hits := s.er.hits.set i.val 0 } } : State).answered .setRule (.done .none))) ∧
    (∀ (x : RuleFields) (field : Nat), s.sli.mode = .setup →
      field = (if x.index = 0 ∨ 48 < x.index then 1 else if 4 < x.matchKind ∧ x.matchKind ≠ 9 then 2
        else if 3 < x.matchDirection then 3 else if x.detectorLow = 0 ∨ 32 < x.detectorLow then 4
        else if x.detectorHigh < x.detectorLow ∨ 32 < x.detectorHigh then 5
        else if x.positionSet = 0 ∨ 4095 < x.positionSet then 6 else if 15 < x.destinations then 7
        else if 255 < x.tag then 8 else 0) → field ≠ 0 →
      exec (.setRule (.fields x)) s = .next (s.answered .setRule (.badValue 0 field))) ∧
    (∀ n, s.sli.mode = .setup → (n = 0 ∨ 48 < n) →
      exec (.clearRule (.fields n)) s = .next (s.answered .clearRule (.badValue 0 1))) ∧
    (∀ i : RuleIx, s.sli.mode = .setup →
      (s.er.rules.get i = none →
        exec (.clearRule (.fields (i.val + 1))) s = .next (s.answered .clearRule .noSuch)) ∧
      (s.er.rules.get i ≠ none →
        exec (.clearRule (.fields (i.val + 1))) s = .next (({ s with er := { s.er with
          rules := s.er.rules.set i.val none, hits := s.er.hits.set i.val 0 } } : State).answered .clearRule
            (.done .none)))) ∧
    (∀ i : RuleIx,
      let reply := Answer.done (.rule (s.er.rules.get i) (s.er.hits.get i))
      exec (.getRuleRead (.fields { index := i.val + 1, action := 0 })) s = .next (s.answered .getRule reply) ∧
      exec (.getRuleReadAndZero (.fields (i.val + 1))) s = .next (({ s with er := { s.er with
        hits := s.er.hits.set i.val 0 } } : State).answered .getRule reply)) ∧
    (∀ reply, reply = Answer.done (.ruleTable ((List.finRange 48).filter (fun i => (s.er.rules.get i).isSome))
        s.er.fixedCount s.er.noMatch) →
      exec (.getRuleRead (.fields { index := 0, action := 0 })) s = .next (s.answered .getRule reply) ∧
      exec (.getRuleReadAndZero (.fields 0)) s = .next (({ s with er := { s.er with
        fixedCount := 0, noMatch := 0 } } : State).answered .getRule reply)) ∧
    (∀ n action, 48 < n →
      exec (.getRuleRead (.fields { index := n, action := action })) s = .next (s.answered .getRule (.badValue 0 1)) ∧
      exec (.getRuleReadAndZero (.fields n)) s = .next (s.answered .getRule (.badValue 0 1))) ∧
    ∀ n action, n ≤ 48 → 2 ≤ action →
      exec (.getRuleRead (.fields { index := n, action := action })) s = .next (s.answered .getRule (.badValue 0 2))

/-- The notice that an event raises, for each of the kinds but OVERRUN: the completions COMMIT-DONE and ERASE-DONE;
LINK-TRACKING when a link falls or is tracked again; QUEUE-STATE when an approach changes, and GRIDLOCK-RISK for each
condition that starts or ends with it; TIMING-REFUSED, with POSITION-STATE at the fourth; IDENTIFIED and SITE-MISMATCH;
HEALTH-CHANGE; LINE-RESET before all else of the reset; PLAN-CHANGE or PLAN-CHANGE-FAILED at a mark; PREEMPT-START and
PREEMPT-END; TRANSIT-GRANT; POOL-EMPTY; and DETECTOR-EVENT for a UNIT-FAULT and for a rule with the destination NOTICE. Each
is offered as TransmitterAndNotices says. That a QUEUE-STATE names the gated position when BLOCKED is entered or left
(notes/assumptions/16.md), that LINK-TRACKING carries the estimate before the match moves it (notes/assumptions/17.md), the
last GOOD exchange of a LINE-RESET (notes/assumptions/28.md), FAILURES where both tests for CUT-OFF hold
(notes/assumptions/36.md), an IDENTIFIED with result ABSENT and no other figure (notes/assumptions/37.md), and that the notices
of one handling are all offered before one leaves (notes/assumptions/4.md), are the model's reading or choice. -/
def Obligations.EventsRaiseTheirNotices : Prop :=
  (∀ (slot : SlotIx) (s : State),
    (∀ plan, s.pl.write = .committing slot plan → ∃ t, exec .commitComplete s = .next t ∧
      Raises s t [.commitDone slot plan.header (positions.filter (fun p => (plan.entries.get p).isSome))]) ∧
    (s.pl.write = .erasing slot → ∃ t, exec .eraseComplete s = .next t ∧ Raises s t [.eraseDone slot])) ∧
  (∀ (n : Nat) (l : Link) (s : State), closingLink s n = some l → ∃ t, exec (.windowCloseExpiry n) s = .next t ∧
    Raises s t (if (s.link l).tracked = true ∧ 2 ≤ (s.link l).lost then [.linkTracking l false (s.link l).estimate 3] else [])) ∧
  (∀ (p : Pos) (a : Approach) (h : Heard) (s : State), (s.approach p a).heard = some h → h.silence = s.now →
    let previous := (s.approach p a).state
    ∃ t risks, exec (.approachSilenceExpiry p a) s = .next t ∧
      Raises s t (if previous = .unknown then [] else .queueState
        { position := p, approach := a, previous := previous, new := .unknown, smoothed := none, overlays := t.qw.overlays p,
          gated := if previous = .blocked then (gatedBy p a).map (fun q => (q, t.qw.overlays q)) else none } :: risks) ∧
      ∀ q condition start overlays, previous ≠ .unknown →
        let stands (g : Gridlock) : Bool :=
          match condition with
          | .cross => g.cross
          | .chainInbound => g.chainInbound
          | .chainOutbound => g.chainOutbound
        (.gridlockRisk q condition start overlays ∈ risks ↔ overlays = t.qw.overlays q ∧
          stands (t.qw.gridlock.get q) = start ∧ stands (s.qw.gridlock.get q) = !start)) ∧
  (∀ (p : Pos) (r : Route) (s : State), s.pm.routeFrom p = some r → r.deadline = s.now →
    ∃ t before ended, exec (.routeTimeout p) s = .next t ∧ Raises s t (before ++ [.preemptEnd p .timeout ended]) ∧
      (∀ q ∈ ended, ∃ m ∈ r.members, m.position = q) ∧ (r.members = [] → before = [])) ∧
  (∀ s : State, s.ih.silence = some s.now → ∃ t rest, exec .lineSilenceExpiry s = .next t ∧
    Raises s t (.lineReset s.ih.lastGood
      (positions.filter (fun p => (s.ident p).state == .identified && (s.health p).state != .cutOff))
      (min 255 (s.ih.lineResets + 1)) :: rest)) ∧
  (∀ (s : State) (x : PendingPlan), elapsed s.now s.ctb.anchor = s.ctb.cycleLength → s.ps.pendingPlan = some x →
    s.pl.write = .idle →
    (∀ plan, s.pl.slots.get x.slot = .valid plan → ∃ t rest, exec .cycleMark s = .next t ∧
      Raises s t (.planChange
        { previousSlot := s.ps.image.map ActiveImage.slot, newSlot := x.slot, previousLength := s.ctb.cycleLength,
          newLength := plan.header.cycleLength, wave := plan.header.wave, cause := x.cause, deferrals := s.ps.deferrals,
          totalFlow := t.ps.inboundFlow + t.ps.outboundFlow,
          inboundShare := (if t.ps.inboundFlow + t.ps.outboundFlow = 0 then 0
            else t.ps.inboundFlow * 100 / (t.ps.inboundFlow + t.ps.outboundFlow)) } :: rest)) ∧
    ∀ found, (s.pl.slots.get x.slot = .empty ∧ found = .empty) ∨ (s.pl.slots.get x.slot = .damaged ∧ found = .damaged) →
      ∃ t rest, exec .cycleMark s = .next t ∧ Raises s t (.planChangeFailed x.slot x.cause found s.ps.deferrals :: rest)) ∧
  (∀ (p : Pos) (x : Exchange) (s : State), awaiting s x p → (s.health p).state = .sound →
    ((∀ e ∈ s.clc.queue, e.onLine = false) → (s.ident p).state = .identified →
      let failed (state : HealthState) (cause : HealthCause) : NoticeBody :=
        .healthChange p .sound state (min 255 ((s.health p).score + 8)) (min 3 ((s.health p).failures + 1)) cause
      ∃ t rest, exec .responseWindowExpiry s = .next t ∧
        (2 ≤ (s.health p).failures → Raises s t (failed .cutOff .failures :: rest)) ∧
        ((s.health p).failures < 2 → 152 ≤ (s.health p).score → Raises s t (failed .cutOff .score :: rest)) ∧
        ((s.health p).failures < 2 → 56 ≤ (s.health p).score → (s.health p).score < 152 →
          Raises s t [failed .degraded .score]) ∧
        ((s.health p).failures < 2 → (s.health p).score < 56 → Raises s t [])) ∧
    ((s.health p).score ≤ 64 →
      (∀ figures route code reason, x.work = .command (.timingSet figures) route → nakReasonOf code = some reason →
        reason ≠ .preempting → reason ≠ .localControl → ∃ t, exec (.nak x.address code) s = .next t ∧
          Raises s t (.timingRefused p reason (min 4 ((s.coord p).refusals + 1)) figures.planNumber ::
            if 3 ≤ (s.coord p).refusals ∧ coordinated (s.coord p).state = true then
              [.positionState p (.inLocal .refusing) ((s.coord p).target.map Target.offset) none] else [])) ∧
      (∀ route cfg site abilities detectors, x.work = .command .identify route →
        (∃ e ∈ s.clc.queue, e.onLine = true) → s.config.get p = some cfg → (s.ident p).state = .probing →
        ∃ t before, exec (.identity x.address { site := site, abilities := abilities, detectors := detectors }) s = .next t ∧
          (site ≠ cfg.site → Raises s t [.siteMismatch p cfg.site (some site) .site]) ∧
          (site = cfg.site → Raises s t (before ++ [.identified p
            { result := .identified, site := some site, abilities := (t.ident p).abilities, detectors := some detectors,
              mode := (t.ident p).mode, basic := some false }]))) ∧
      (∀ before e after, s.clc.queue = before ++ e :: after → (∀ y ∈ before, y.onLine = false) → e.onLine = true →
        e.command = .identify → 3 ≤ e.attempts → (s.health p).score < 56 → (s.ident p).state = .probing →
        ∃ t, exec .responseWindowExpiry s = .next t ∧
          Raises s t (if s.ih.wasAbsent.get p = true ∧ (s.ident p).byRequest = false then [] else [.identified p
            { result := .absent, site := none, abilities := none, detectors := none, mode := none, basic := none }])))) ∧
  (∀ (p : Pos) (x : Exchange) (reply : StatusFields) (s : State), Polled s x p → (stageOf reply.stage).isSome = true →
    (s.health p).state = .sound → (s.health p).score ≤ 64 → reply.records = [] → bit reply.flags 0 = false →
    bit reply.flags 1 = true → s.owner p = .none → (s.coord p).state ≠ .inLocal .fieldLocal →
    ∃ t, exec (.status x.address reply) s = .next t ∧
      Raises s t ((if steered (s.coord p).state then
        [.positionState p .preempted ((s.coord p).target.map Target.offset) none] else []) ++
          [.preemptStart p .none .flag .noneRequested])) ∧
  ∀ (p : Pos) (x : Exchange) (reply : StatusFields) (r : EventRecord) (d : EventDirection) (s : State),
    Reports s x p reply r → (s.health p).state = .sound → (s.health p).score ≤ 64 → bit reply.flags 0 = false →
    (s.coord p).state ≠ .inLocal .fieldLocal →
    let report (kind : RecordKind) : RecordReport :=
      { sequence := r.sequence, kind := kind, direction := d, detector := r.detector, value := r.value, extra := r.extra,
        eventTime := earlier s.now r.age }
    ∃ t, exec (.status x.address reply) s = .next t ∧
      (fixedRecord r .preemptCall d → ∃ before outcome rest, Raises s t (before ++ .preemptStart p d .call outcome :: rest)) ∧
      (fixedRecord r .preemptClear d → (∃ d, s.owner p = .localCall d) →
        ∃ before ended rest, Raises s t (before ++ .preemptEnd p .clear ended :: rest)) ∧
      (fixedRecord r .transitCall d → ∃ x rest, Raises s t (.transitGrant x :: rest) ∧ x.position = p ∧ x.direction = d ∧
        x.arrival = r.value ∧ x.extra = r.extra) ∧
      (fixedRecord r .unitFault d → s.pm.isMember p = false →
        ∃ rest, Raises s t (.detectorEvent p none (report .unitFault) :: rest)) ∧
      ∀ rule, deliveredBy s p r d rule →
        (rule.destinations.platoon = false → rule.destinations.queue = false → rule.destinations.notice = true →
          ∃ i kind rest, s.er.rules.get i = some rule ∧ recordKindOf r.kind = some kind ∧
            Raises s t (.detectorEvent p (some (i, rule.tag)) (report kind) :: rest)) ∧
        (rule.destinations.platoon = false → ∀ a, (t.approach p a).state ≠ (s.approach p a).state →
          ∃ x rest, Raises s t (.queueState x :: rest) ∧ x.position = p ∧ x.approach = a ∧
            x.previous = (s.approach p a).state ∧ x.new = (t.approach p a).state) ∧
        (s.pt.poolEmptyRaised = false → t.pt.poolEmptyRaised = true →
          ∃ l rest, linkLeaving p d = some l ∧ Raises s t (.poolEmpty l (min 255 r.extra) :: rest)) ∧
        ∀ l, (s.link l).tracked = false → (t.link l).tracked = true →
          ∃ rest, Raises s t (.linkTracking l true (s.link l).estimate 0 :: rest)

/-! ### Part modes and the transmitter (11) -/

/-- GO-LIVE makes the part LIVE, sets the poll round with its deadline and calls every configured position: with an empty queue
the IDENTIFYs stand in it in position order. -/
def Obligations.GoLiveCallsTheRoll : Prop :=
  ∀ (n : Nat) (s : State), Ready s → s.sli.mode = .setup →
    (s.sli.draining = true → exec (.goLive (.fields n)) s = .next (s.answered .goLive .busy)) ∧
    (s.sli.draining = false → (∀ p, s.config.get p = none) →
      exec (.goLive (.fields n)) s = .next (s.answered .goLive .wrongMode)) ∧
    (s.sli.draining = false → (∃ p, s.config.get p ≠ none) → ¬ (5 ≤ n ∧ n ≤ 20) →
      exec (.goLive (.fields n)) s = .next (s.answered .goLive (.badValue 0 1))) ∧
    (s.sli.draining = false → (∃ p, s.config.get p ≠ none) → 5 ≤ n → n ≤ 20 →
      ∃ t, exec (.goLive (.fields n)) s = .next t ∧ t.sli.mode = .live ∧ t.clc.pollRound = n ∧
        t.clc.roundDeadline = later s.now n ∧ t.sli.replySlot = some (.request .goLive (.done .none)) ∧
        (∀ p, s.config.get p ≠ none → (t.ident p).state = .probing ∧ (t.health p).failures = 0) ∧
        (∀ p, s.config.get p = none → { t.ident p with retry := none } = { s.ident p with retry := none }) ∧
        (s.clc.queue = [] → (∀ p, (s.ident p).state = .unknown) →
          t.clc.queue.map (fun e => (e.command, e.position)) =
            (positions.filter (fun p => (s.config.get p).isSome)).map (fun p => (LineCommand.identify, some p))) ∧
        t.ctb = s.ctb ∧ t.pl = s.pl ∧ t.config = s.config ∧ t.er = s.er ∧ t.oc.limits = s.oc.limits ∧ t.pm.policy = s.pm.policy ∧ t.ps.image = s.ps.image)

/-- GO-SETUP makes the part SETUP and sets the drain flag and draining: every position that was coordinated or LOCAL is LOCAL
with reason SETUP, a RUN-LOCAL being queued for each coordinated one where it finds a place, and the states of identification
and health stand. Where nothing is left to send, the queue is reported drained in the same handling: drain flag and draining are clear,
every position is UNKNOWN with the health restart, and those that were IDENTIFIED are UNSEEN. The routes and local calls end,
the PRIORITY-ANSWERs, ROUTE-CLEARs and the BEACON leave the queue, the pool and the approach records are cleared, the
deadlines of identification go, and the selector is FREE without a requested mode, a pending plan, a candidate or counts. The
image with its library, the trims, the budgets and the time base stay. -/
def Obligations.GoSetupReleasesTheRoad : Prop :=
  ∀ s : State, Ready s → s.sli.mode = .live →
    ∃ t, exec (.goSetup (.fields ())) s = .next t ∧ t.sli.mode = .setup ∧
      t.sli.replySlot = some (.request .goSetup (.done .none)) ∧
      t.clc.drainFlag = t.sli.draining ∧ (t.sli.draining = true ↔ t.clc.line ≠ .idle) ∧
      (s.clc.line ≠ .idle → t.clc.line = s.clc.line) ∧
      (s.clc.line = .idle → s.clc.queue = [] → s.pm.routes = [] → (∀ p, coordinated (s.coord p).state = false) →
        t.sli.draining = false) ∧
      (∀ p, let released := if (s.coord p).state = .unseen then .unseen else .inLocal .setup
        (t.sli.draining = true → (t.coord p).state = released ∧ (t.ident p).state = (s.ident p).state ∧
          (t.health p).state = (s.health p).state) ∧
        (t.sli.draining = false → t.clc.queue = [] ∧ (t.ident p).state = .unknown ∧
          t.health p = { score := 0, failures := 0, state := .sound, probes := 0, probeDeadline := none,
                         quietTimer := none, stage := .none } ∧
          (t.coord p).state = if (s.ident p).state = .identified then .unseen else released)) ∧
      (∀ p, coordinated (s.coord p).state = true →
        runLocalFits s p (12 + (s.pm.routes.map (fun r => r.members.length)).sum) → runLocalQueued t p) ∧
      (∀ p, (t.coord p).trim = (s.coord p).trim) ∧
      (∀ p d, s.owner p = .localCall d → t.owner p = .none) ∧ (∀ p, t.budget p = s.budget p) ∧
      (∀ e ∈ t.clc.queue, e.command.isPriorityAnswer = false ∧ e.command.isRouteClear = false ∧ e.command ≠ .beacon) ∧
      t.ps = { s.ps with
        mode := .free, requested := none, pendingPlan := none, deferrals := 0, previousCandidate := none,
        persistenceCount := 0, inboundAccumulator := 0, outboundAccumulator := 0 } ∧
      t.pm.routes = [] ∧ t.pt.freeCount = 64 ∧ (∀ l, (t.link l).queue = []) ∧
      (∀ p a, t.approach p a = { state := .unknown, worst := .unknown, heard := none }) ∧
      (∀ p, (t.ident p).retry = none ∧ (t.ident p).reprobe = none ∧ (t.ident p).byRequest = false) ∧
      (∀ p, (t.health p).probeDeadline = none ∧ (t.health p).quietTimer = none ∧ (t.health p).stage = .none) ∧
      (∀ p, t.clc.due.get p = none) ∧ t.ctb = s.ctb ∧ t.pl = s.pl ∧ t.config = s.config ∧ t.er = s.er ∧
      t.oc.limits = s.oc.limits ∧ t.pm.policy = s.pm.policy

/-- COORD-RESTART sends every steered position back to SEEKING, LENGTHEN, with trim 0, and leaves LOCAL and UNSEEN ones. It
ends the routes and the local calls, whose positions leave PREEMPTED, takes the PRIORITY-ANSWERs out of the queue, clears
pool, approach records and budgets, and makes the error base, the pending plan, the candidate and its count absent.
Identification, health, configuration, image, selector mode, requested mode, flows and time base are kept. Of identification
only a retry deadline may change: an IDENTIFY or QUIET that a ROUTE-END evicts is offered again 10 ds on. -/
def Obligations.CoordRestartBeginsAgain : Prop :=
  ∀ s : State, Ready s → s.sli.mode = .live →
    ∃ t, exec (.coordRestart (.fields ())) s = .next t ∧ t.sli.mode = .live ∧
      t.sli.replySlot = some (.request .coordRestart (.done .none)) ∧ (∀ p, (t.coord p).trim = 0) ∧
      (∀ p, steered (s.coord p).state = true →
        (t.coord p).measured = none ∧ (t.coord p).settle = none ∧ (t.coord p).refusals = 0 ∧
          (t.coord p).grant = none ∧ (t.coord p).state = .seeking .lengthen) ∧
      (∀ p, ((s.coord p).state = .unseen ∨ ∃ reason, (s.coord p).state = .inLocal reason) → (t.coord p).state = (s.coord p).state) ∧
      (∀ p d, s.owner p = .localCall d → t.owner p = .none ∧ ((s.coord p).state = .preempted →
        (t.coord p).state = if s.imageEntry p = none then .inLocal .notInPlan else .seeking .lengthen)) ∧
      (∀ e ∈ t.clc.queue, e.command.isPriorityAnswer = false) ∧ t.pt.errorBase = none ∧
      t.ps = { s.ps with pendingPlan := none, deferrals := 0, previousCandidate := none, persistenceCount := 0 } ∧
      t.pm.routes = [] ∧ (∀ p, t.budget p = 0) ∧ t.pt.freeCount = 64 ∧ (∀ l, (t.link l).queue = []) ∧
      (∀ p a, t.approach p a = { state := .unknown, worst := .unknown, heard := none }) ∧
      (∀ p, { t.ident p with retry := none } = { s.ident p with retry := none } ∧
        ((t.ident p).retry = (s.ident p).retry ∨ (t.ident p).retry = some (later s.now 10))) ∧ t.ih.health = s.ih.health ∧
      t.ctb = s.ctb ∧ t.pl = s.pl ∧ t.config = s.config ∧ t.er = s.er ∧ t.oc.limits = s.oc.limits ∧
      t.pm.policy = s.pm.policy

/-- When a frame has been sent whole, its reply or short answer leaves, and the transmitter chooses the next: the reply, else
the oldest short answer, else the oldest notice; then an OVERRUN notice takes the freed place when notices were lost, stamped with
the time of day of that handling (notes/assumptions/22.md: the model's reading). While reset pending is yes nothing follows the
reply.
A notice that is offered joins the queue as its youngest when its kind is enabled and fewer than 32 are held; enabled with 32
held, it is counted in the overrun count; of a kind that is not enabled, it leaves no trace. -/
def Obligations.TransmitterAndNotices : Prop :=
  (∀ s : State, s.sli.resetPending = false →
    let goesOn (x : Supervisory) : Prop :=
      exec .transmitFrameDone s = .next { s with sli := x.transmit s.ctb.timeOfDay }
    (∀ r, s.sli.sending = some (.reply r) → goesOn { s.sli with sending := none, replySlot := none }) ∧
    (∀ r, s.sli.sending = some (.shortAnswer r) →
      goesOn { s.sli with sending := none, shortAnswers := s.sli.shortAnswers.tail }) ∧
    (∀ n, s.sli.sending = some (.notice n) → goesOn { s.sli with sending := none }) ∧
    ∀ (x : Supervisory) (now : Nat), x.sending = none → x.resetPending = false →
      (∀ r, x.replySlot = some r → x.transmit now = { x with sending := some (.reply r) }) ∧
      (∀ r rest, x.replySlot = none → x.shortAnswers = r :: rest →
        x.transmit now = { x with sending := some (.shortAnswer r) }) ∧
      (∀ n rest, x.replySlot = none → x.shortAnswers = [] → x.notices = n :: rest →
        x.transmit now = { x with
          sending := some (.notice n), overrun := 0,
          notices := rest ++ if x.overrun = 0 then [] else [{ stamp := now, body := .overrun x.overrun }] }) ∧
      (x.replySlot = none → x.shortAnswers = [] → x.notices = [] → x.transmit now = x)) ∧
  (∀ (r : Reply) (s : State), s.sli.resetPending = true → s.sli.sending = some (.reply r) →
    exec .transmitFrameDone s = .next { s with sli := { s.sli with sending := none, replySlot := none } }) ∧
  ∀ (x : Supervisory) (stamp : Nat) (body : NoticeBody),
    (body.kind ∉ x.enabled → x.offered stamp body = x) ∧
    (body.kind ∈ x.enabled → x.notices.length < 32 →
      x.offered stamp body = { x with notices := x.notices ++ [{ stamp := stamp, body := body }] }) ∧
    (body.kind ∈ x.enabled → 32 ≤ x.notices.length →
      x.offered stamp body = { x with overrun := min 65535 (x.overrun + 1) })

/-! ### What every step keeps -/

/-- No store grows past its capacity, and the Link Command Queue stays in order of class. -/
def Obligations.StoresStayBounded : Prop :=
  ∀ s t : State, step s = .next t → Bounded s ∧ QueueInOrder s → Bounded t ∧ QueueInOrder t

/-- Every plan of the library and the active plan image stays valid, and no two positions share a line address or a site. -/
def Obligations.PlansAndConfigurationStaySound : Prop :=
  ∀ s t : State, step s = .next t → PlansValid s ∧ ConfigDistinct s → PlansValid t ∧ ConfigDistinct t

/-- Free and held platoon records stay 64 together. -/
def Obligations.PoolStaysWhole : Prop := ∀ s t : State, step s = .next t → PoolWhole s → PoolWhole t

/-- COR-DE and COR-TX follow the line condition and the phase of the exchange; that a line reset keeps the exchange while its frame is
finished is the model's reading (notes/assumptions/6.md). -/
def Obligations.PinsStayWithTheLine : Prop := ∀ s t : State, step s = .next t → PinsFollowLine s → PinsFollowLine t

/-- C stays the length of the active plan image, and no cycle outlasts C. -/
def Obligations.CycleStaysSound : Prop :=
  ∀ s t : State, step s = .next t → PlansValid s ∧ CycleSound s → CycleSound t

/-- The forms that every step keeps hold right after power-on reset. -/
def Obligations.ResetIsSound : Prop :=
  Bounded State.reset ∧ QueueInOrder State.reset ∧ PlansValid State.reset ∧ ConfigDistinct State.reset ∧
    PoolWhole State.reset ∧ PinsFollowLine State.reset ∧ CycleSound State.reset

/-- The library's slots, the configuration, the rule table, the part mode and the latched rates change by the commands named
here alone. -/
def Obligations.StoresChangeByTheirCommandsAlone : Prop :=
  ∀ (c : Instr) (s t : State), exec c s = .next t →
    (∀ a b, c ≠ .powerOnReset a b) → c ≠ .partResetActs → c ≠ .decisecondTick →
    (c ≠ .commitComplete → c ≠ .eraseComplete → t.pl.slots = s.pl.slots) ∧
    ((∀ b, c ≠ .setPosition b) → (∀ b, c ≠ .clearPosition b) → t.config = s.config) ∧
    ((∀ b, c ≠ .setRule b) → (∀ b, c ≠ .clearRule b) → t.er.rules = s.er.rules) ∧
    ((∀ b, c ≠ .goLive b) → (∀ b, c ≠ .goSetup b) → t.sli.mode = s.sli.mode) ∧
    t.sli.supRate = s.sli.supRate ∧ t.sli.corRate = s.sli.corRate ∧ t.now = s.now
end

