-- ==== Sys2Proof/Laws/State.lean ====
section
/-! SUPPORT. What each named update of the state leaves as it was, and what it reads back. -/

namespace Sys2Proof.Machine

/-! ### Tables -/

@[simp] theorem get_set {α : Type} {n : Nat} (v : Vector α n) (i j : Fin n) (x : α) :
    (v.set i.val x).get j = if i = j then x else v.get j := by
  simp [Vector.get_eq_getElem, Vector.getElem_set, Fin.ext_iff]

@[simp] theorem get_update {α : Type} {n : Nat} (v : Vector α n) (i j : Fin n) (f : α → α) :
    (update v i f).get j = if i = j then f (v.get i) else v.get j := by
  simp [update]

@[simp] theorem get_replicate {α : Type} {n : Nat} (x : α) (j : Fin n) : (Vector.replicate n x).get j = x := by
  simp [Vector.get_eq_getElem]

@[simp] theorem get_ofFn {α : Type} {n : Nat} (f : Fin n → α) (j : Fin n) : (Vector.ofFn f).get j = f j := by
  simp [Vector.get_eq_getElem]

/-! ### What an update does not touch -/

@[simp] theorem State.withCoord_pending (s : State) (p : Pos) (f : Coord → Coord) : (s.withCoord p f).pending = s.pending := rfl
@[simp] theorem State.withCoord_ctb (s : State) (p : Pos) (f : Coord → Coord) : (s.withCoord p f).ctb = s.ctb := rfl
@[simp] theorem State.withCoord_pt (s : State) (p : Pos) (f : Coord → Coord) : (s.withCoord p f).pt = s.pt := rfl
@[simp] theorem State.withCoord_qw (s : State) (p : Pos) (f : Coord → Coord) : (s.withCoord p f).qw = s.qw := rfl
@[simp] theorem State.withCoord_pm (s : State) (p : Pos) (f : Coord → Coord) : (s.withCoord p f).pm = s.pm := rfl
@[simp] theorem State.withCoord_pl (s : State) (p : Pos) (f : Coord → Coord) : (s.withCoord p f).pl = s.pl := rfl
@[simp] theorem State.withCoord_ps (s : State) (p : Pos) (f : Coord → Coord) : (s.withCoord p f).ps = s.ps := rfl
@[simp] theorem State.withCoord_clc (s : State) (p : Pos) (f : Coord → Coord) : (s.withCoord p f).clc = s.clc := rfl
@[simp] theorem State.withCoord_ih (s : State) (p : Pos) (f : Coord → Coord) : (s.withCoord p f).ih = s.ih := rfl
@[simp] theorem State.withCoord_er (s : State) (p : Pos) (f : Coord → Coord) : (s.withCoord p f).er = s.er := rfl
@[simp] theorem State.withCoord_sli (s : State) (p : Pos) (f : Coord → Coord) : (s.withCoord p f).sli = s.sli := rfl
@[simp] theorem State.withCoord_config (s : State) (p : Pos) (f : Coord → Coord) : (s.withCoord p f).config = s.config := rfl
@[simp] theorem State.withIdent_pending (s : State) (p : Pos) (f : Ident → Ident) : (s.withIdent p f).pending = s.pending := rfl
@[simp] theorem State.withIdent_ctb (s : State) (p : Pos) (f : Ident → Ident) : (s.withIdent p f).ctb = s.ctb := rfl
@[simp] theorem State.withIdent_oc (s : State) (p : Pos) (f : Ident → Ident) : (s.withIdent p f).oc = s.oc := rfl
@[simp] theorem State.withIdent_pt (s : State) (p : Pos) (f : Ident → Ident) : (s.withIdent p f).pt = s.pt := rfl
@[simp] theorem State.withIdent_qw (s : State) (p : Pos) (f : Ident → Ident) : (s.withIdent p f).qw = s.qw := rfl
@[simp] theorem State.withIdent_pm (s : State) (p : Pos) (f : Ident → Ident) : (s.withIdent p f).pm = s.pm := rfl
@[simp] theorem State.withIdent_pl (s : State) (p : Pos) (f : Ident → Ident) : (s.withIdent p f).pl = s.pl := rfl
@[simp] theorem State.withIdent_ps (s : State) (p : Pos) (f : Ident → Ident) : (s.withIdent p f).ps = s.ps := rfl
@[simp] theorem State.withIdent_clc (s : State) (p : Pos) (f : Ident → Ident) : (s.withIdent p f).clc = s.clc := rfl
@[simp] theorem State.withIdent_er (s : State) (p : Pos) (f : Ident → Ident) : (s.withIdent p f).er = s.er := rfl
@[simp] theorem State.withIdent_sli (s : State) (p : Pos) (f : Ident → Ident) : (s.withIdent p f).sli = s.sli := rfl
@[simp] theorem State.withIdent_config (s : State) (p : Pos) (f : Ident → Ident) : (s.withIdent p f).config = s.config := rfl
@[simp] theorem State.withHealth_pending (s : State) (p : Pos) (f : Health → Health) : (s.withHealth p f).pending = s.pending := rfl
@[simp] theorem State.withHealth_ctb (s : State) (p : Pos) (f : Health → Health) : (s.withHealth p f).ctb = s.ctb := rfl
@[simp] theorem State.withHealth_oc (s : State) (p : Pos) (f : Health → Health) : (s.withHealth p f).oc = s.oc := rfl
@[simp] theorem State.withHealth_pt (s : State) (p : Pos) (f : Health → Health) : (s.withHealth p f).pt = s.pt := rfl
@[simp] theorem State.withHealth_qw (s : State) (p : Pos) (f : Health → Health) : (s.withHealth p f).qw = s.qw := rfl
@[simp] theorem State.withHealth_pm (s : State) (p : Pos) (f : Health → Health) : (s.withHealth p f).pm = s.pm := rfl
@[simp] theorem State.withHealth_pl (s : State) (p : Pos) (f : Health → Health) : (s.withHealth p f).pl = s.pl := rfl
@[simp] theorem State.withHealth_ps (s : State) (p : Pos) (f : Health → Health) : (s.withHealth p f).ps = s.ps := rfl
@[simp] theorem State.withHealth_clc (s : State) (p : Pos) (f : Health → Health) : (s.withHealth p f).clc = s.clc := rfl
@[simp] theorem State.withHealth_er (s : State) (p : Pos) (f : Health → Health) : (s.withHealth p f).er = s.er := rfl
@[simp] theorem State.withHealth_sli (s : State) (p : Pos) (f : Health → Health) : (s.withHealth p f).sli = s.sli := rfl
@[simp] theorem State.withHealth_config (s : State) (p : Pos) (f : Health → Health) : (s.withHealth p f).config = s.config := rfl
@[simp] theorem State.withBudget_pending (s : State) (p : Pos) (n : Nat) : (s.withBudget p n).pending = s.pending := rfl
@[simp] theorem State.withBudget_ctb (s : State) (p : Pos) (n : Nat) : (s.withBudget p n).ctb = s.ctb := rfl
@[simp] theorem State.withBudget_oc (s : State) (p : Pos) (n : Nat) : (s.withBudget p n).oc = s.oc := rfl
@[simp] theorem State.withBudget_pt (s : State) (p : Pos) (n : Nat) : (s.withBudget p n).pt = s.pt := rfl
@[simp] theorem State.withBudget_qw (s : State) (p : Pos) (n : Nat) : (s.withBudget p n).qw = s.qw := rfl
@[simp] theorem State.withBudget_pl (s : State) (p : Pos) (n : Nat) : (s.withBudget p n).pl = s.pl := rfl
@[simp] theorem State.withBudget_ps (s : State) (p : Pos) (n : Nat) : (s.withBudget p n).ps = s.ps := rfl
@[simp] theorem State.withBudget_clc (s : State) (p : Pos) (n : Nat) : (s.withBudget p n).clc = s.clc := rfl
@[simp] theorem State.withBudget_ih (s : State) (p : Pos) (n : Nat) : (s.withBudget p n).ih = s.ih := rfl
@[simp] theorem State.withBudget_er (s : State) (p : Pos) (n : Nat) : (s.withBudget p n).er = s.er := rfl
@[simp] theorem State.withBudget_sli (s : State) (p : Pos) (n : Nat) : (s.withBudget p n).sli = s.sli := rfl
@[simp] theorem State.withBudget_config (s : State) (p : Pos) (n : Nat) : (s.withBudget p n).config = s.config := rfl
@[simp] theorem State.withLink_pending (s : State) (l : Link) (f : LinkRecord → LinkRecord) : (s.withLink l f).pending = s.pending := by
  cases l with
  | mk k d => cases d <;> rfl
@[simp] theorem State.withLink_ctb (s : State) (l : Link) (f : LinkRecord → LinkRecord) : (s.withLink l f).ctb = s.ctb := by
  cases l with
  | mk k d => cases d <;> rfl
@[simp] theorem State.withLink_oc (s : State) (l : Link) (f : LinkRecord → LinkRecord) : (s.withLink l f).oc = s.oc := by
  cases l with
  | mk k d => cases d <;> rfl
@[simp] theorem State.withLink_qw (s : State) (l : Link) (f : LinkRecord → LinkRecord) : (s.withLink l f).qw = s.qw := by
  cases l with
  | mk k d => cases d <;> rfl
@[simp] theorem State.withLink_pm (s : State) (l : Link) (f : LinkRecord → LinkRecord) : (s.withLink l f).pm = s.pm := by
  cases l with
  | mk k d => cases d <;> rfl
@[simp] theorem State.withLink_pl (s : State) (l : Link) (f : LinkRecord → LinkRecord) : (s.withLink l f).pl = s.pl := by
  cases l with
  | mk k d => cases d <;> rfl
@[simp] theorem State.withLink_ps (s : State) (l : Link) (f : LinkRecord → LinkRecord) : (s.withLink l f).ps = s.ps := by
  cases l with
  | mk k d => cases d <;> rfl
@[simp] theorem State.withLink_clc (s : State) (l : Link) (f : LinkRecord → LinkRecord) : (s.withLink l f).clc = s.clc := by
  cases l with
  | mk k d => cases d <;> rfl
@[simp] theorem State.withLink_ih (s : State) (l : Link) (f : LinkRecord → LinkRecord) : (s.withLink l f).ih = s.ih := by
  cases l with
  | mk k d => cases d <;> rfl
@[simp] theorem State.withLink_er (s : State) (l : Link) (f : LinkRecord → LinkRecord) : (s.withLink l f).er = s.er := by
  cases l with
  | mk k d => cases d <;> rfl
@[simp] theorem State.withLink_sli (s : State) (l : Link) (f : LinkRecord → LinkRecord) : (s.withLink l f).sli = s.sli := by
  cases l with
  | mk k d => cases d <;> rfl
@[simp] theorem State.withLink_config (s : State) (l : Link) (f : LinkRecord → LinkRecord) : (s.withLink l f).config = s.config := by
  cases l with
  | mk k d => cases d <;> rfl
@[simp] theorem State.withQueue_pending (s : State) (q : List QueueEntry) : (s.withQueue q).pending = s.pending := rfl
@[simp] theorem State.withQueue_ctb (s : State) (q : List QueueEntry) : (s.withQueue q).ctb = s.ctb := rfl
@[simp] theorem State.withQueue_oc (s : State) (q : List QueueEntry) : (s.withQueue q).oc = s.oc := rfl
@[simp] theorem State.withQueue_pt (s : State) (q : List QueueEntry) : (s.withQueue q).pt = s.pt := rfl
@[simp] theorem State.withQueue_qw (s : State) (q : List QueueEntry) : (s.withQueue q).qw = s.qw := rfl
@[simp] theorem State.withQueue_pm (s : State) (q : List QueueEntry) : (s.withQueue q).pm = s.pm := rfl
@[simp] theorem State.withQueue_pl (s : State) (q : List QueueEntry) : (s.withQueue q).pl = s.pl := rfl
@[simp] theorem State.withQueue_ps (s : State) (q : List QueueEntry) : (s.withQueue q).ps = s.ps := rfl
@[simp] theorem State.withQueue_ih (s : State) (q : List QueueEntry) : (s.withQueue q).ih = s.ih := rfl
@[simp] theorem State.withQueue_er (s : State) (q : List QueueEntry) : (s.withQueue q).er = s.er := rfl
@[simp] theorem State.withQueue_sli (s : State) (q : List QueueEntry) : (s.withQueue q).sli = s.sli := rfl
@[simp] theorem State.withQueue_config (s : State) (q : List QueueEntry) : (s.withQueue q).config = s.config := rfl
@[simp] theorem State.withRoutes_pending (s : State) (f : List Route → List Route) : (s.withRoutes f).pending = s.pending := rfl
@[simp] theorem State.withRoutes_ctb (s : State) (f : List Route → List Route) : (s.withRoutes f).ctb = s.ctb := rfl
@[simp] theorem State.withRoutes_oc (s : State) (f : List Route → List Route) : (s.withRoutes f).oc = s.oc := rfl
@[simp] theorem State.withRoutes_pt (s : State) (f : List Route → List Route) : (s.withRoutes f).pt = s.pt := rfl
@[simp] theorem State.withRoutes_qw (s : State) (f : List Route → List Route) : (s.withRoutes f).qw = s.qw := rfl
@[simp] theorem State.withRoutes_pl (s : State) (f : List Route → List Route) : (s.withRoutes f).pl = s.pl := rfl
@[simp] theorem State.withRoutes_ps (s : State) (f : List Route → List Route) : (s.withRoutes f).ps = s.ps := rfl
@[simp] theorem State.withRoutes_clc (s : State) (f : List Route → List Route) : (s.withRoutes f).clc = s.clc := rfl
@[simp] theorem State.withRoutes_ih (s : State) (f : List Route → List Route) : (s.withRoutes f).ih = s.ih := rfl
@[simp] theorem State.withRoutes_er (s : State) (f : List Route → List Route) : (s.withRoutes f).er = s.er := rfl
@[simp] theorem State.withRoutes_sli (s : State) (f : List Route → List Route) : (s.withRoutes f).sli = s.sli := rfl
@[simp] theorem State.withRoutes_config (s : State) (f : List Route → List Route) : (s.withRoutes f).config = s.config := rfl
@[simp] theorem State.withStaging_pending (s : State) (x : Option Staging) : (s.withStaging x).pending = s.pending := rfl
@[simp] theorem State.withStaging_ctb (s : State) (x : Option Staging) : (s.withStaging x).ctb = s.ctb := rfl
@[simp] theorem State.withStaging_oc (s : State) (x : Option Staging) : (s.withStaging x).oc = s.oc := rfl
@[simp] theorem State.withStaging_pt (s : State) (x : Option Staging) : (s.withStaging x).pt = s.pt := rfl
@[simp] theorem State.withStaging_qw (s : State) (x : Option Staging) : (s.withStaging x).qw = s.qw := rfl
@[simp] theorem State.withStaging_pm (s : State) (x : Option Staging) : (s.withStaging x).pm = s.pm := rfl
@[simp] theorem State.withStaging_ps (s : State) (x : Option Staging) : (s.withStaging x).ps = s.ps := rfl
@[simp] theorem State.withStaging_clc (s : State) (x : Option Staging) : (s.withStaging x).clc = s.clc := rfl
@[simp] theorem State.withStaging_ih (s : State) (x : Option Staging) : (s.withStaging x).ih = s.ih := rfl
@[simp] theorem State.withStaging_er (s : State) (x : Option Staging) : (s.withStaging x).er = s.er := rfl
@[simp] theorem State.withStaging_sli (s : State) (x : Option Staging) : (s.withStaging x).sli = s.sli := rfl
@[simp] theorem State.withStaging_config (s : State) (x : Option Staging) : (s.withStaging x).config = s.config := rfl
@[simp] theorem State.withReceiver_pending (s : State) (r : Receiver) : (s.withReceiver r).pending = s.pending := rfl
@[simp] theorem State.withReceiver_ctb (s : State) (r : Receiver) : (s.withReceiver r).ctb = s.ctb := rfl
@[simp] theorem State.withReceiver_oc (s : State) (r : Receiver) : (s.withReceiver r).oc = s.oc := rfl
@[simp] theorem State.withReceiver_pt (s : State) (r : Receiver) : (s.withReceiver r).pt = s.pt := rfl
@[simp] theorem State.withReceiver_qw (s : State) (r : Receiver) : (s.withReceiver r).qw = s.qw := rfl
@[simp] theorem State.withReceiver_pm (s : State) (r : Receiver) : (s.withReceiver r).pm = s.pm := rfl
@[simp] theorem State.withReceiver_pl (s : State) (r : Receiver) : (s.withReceiver r).pl = s.pl := rfl
@[simp] theorem State.withReceiver_ps (s : State) (r : Receiver) : (s.withReceiver r).ps = s.ps := rfl
@[simp] theorem State.withReceiver_clc (s : State) (r : Receiver) : (s.withReceiver r).clc = s.clc := rfl
@[simp] theorem State.withReceiver_ih (s : State) (r : Receiver) : (s.withReceiver r).ih = s.ih := rfl
@[simp] theorem State.withReceiver_er (s : State) (r : Receiver) : (s.withReceiver r).er = s.er := rfl
@[simp] theorem State.withReceiver_config (s : State) (r : Receiver) : (s.withReceiver r).config = s.config := rfl
@[simp] theorem State.withConfig_pending (s : State) (p : Pos) (c : Option PositionConfig) : (s.withConfig p c).pending = s.pending := rfl
@[simp] theorem State.withConfig_ctb (s : State) (p : Pos) (c : Option PositionConfig) : (s.withConfig p c).ctb = s.ctb := rfl
@[simp] theorem State.withConfig_oc (s : State) (p : Pos) (c : Option PositionConfig) : (s.withConfig p c).oc = s.oc := rfl
@[simp] theorem State.withConfig_pt (s : State) (p : Pos) (c : Option PositionConfig) : (s.withConfig p c).pt = s.pt := rfl
@[simp] theorem State.withConfig_qw (s : State) (p : Pos) (c : Option PositionConfig) : (s.withConfig p c).qw = s.qw := rfl
@[simp] theorem State.withConfig_pm (s : State) (p : Pos) (c : Option PositionConfig) : (s.withConfig p c).pm = s.pm := rfl
@[simp] theorem State.withConfig_pl (s : State) (p : Pos) (c : Option PositionConfig) : (s.withConfig p c).pl = s.pl := rfl
@[simp] theorem State.withConfig_ps (s : State) (p : Pos) (c : Option PositionConfig) : (s.withConfig p c).ps = s.ps := rfl
@[simp] theorem State.withConfig_clc (s : State) (p : Pos) (c : Option PositionConfig) : (s.withConfig p c).clc = s.clc := rfl
@[simp] theorem State.withConfig_ih (s : State) (p : Pos) (c : Option PositionConfig) : (s.withConfig p c).ih = s.ih := rfl
@[simp] theorem State.withConfig_er (s : State) (p : Pos) (c : Option PositionConfig) : (s.withConfig p c).er = s.er := rfl
@[simp] theorem State.withConfig_sli (s : State) (p : Pos) (c : Option PositionConfig) : (s.withConfig p c).sli = s.sli := rfl
@[simp] theorem State.withApproach_pending (s : State) (p : Pos) (a : Approach) (r : ApproachRecord) : (s.withApproach p a r).pending = s.pending := rfl
@[simp] theorem State.withApproach_ctb (s : State) (p : Pos) (a : Approach) (r : ApproachRecord) : (s.withApproach p a r).ctb = s.ctb := rfl
@[simp] theorem State.withApproach_oc (s : State) (p : Pos) (a : Approach) (r : ApproachRecord) : (s.withApproach p a r).oc = s.oc := rfl
@[simp] theorem State.withApproach_pt (s : State) (p : Pos) (a : Approach) (r : ApproachRecord) : (s.withApproach p a r).pt = s.pt := rfl
@[simp] theorem State.withApproach_pm (s : State) (p : Pos) (a : Approach) (r : ApproachRecord) : (s.withApproach p a r).pm = s.pm := rfl
@[simp] theorem State.withApproach_pl (s : State) (p : Pos) (a : Approach) (r : ApproachRecord) : (s.withApproach p a r).pl = s.pl := rfl
@[simp] theorem State.withApproach_ps (s : State) (p : Pos) (a : Approach) (r : ApproachRecord) : (s.withApproach p a r).ps = s.ps := rfl
@[simp] theorem State.withApproach_clc (s : State) (p : Pos) (a : Approach) (r : ApproachRecord) : (s.withApproach p a r).clc = s.clc := rfl
@[simp] theorem State.withApproach_ih (s : State) (p : Pos) (a : Approach) (r : ApproachRecord) : (s.withApproach p a r).ih = s.ih := rfl
@[simp] theorem State.withApproach_er (s : State) (p : Pos) (a : Approach) (r : ApproachRecord) : (s.withApproach p a r).er = s.er := rfl
@[simp] theorem State.withApproach_sli (s : State) (p : Pos) (a : Approach) (r : ApproachRecord) : (s.withApproach p a r).sli = s.sli := rfl
@[simp] theorem State.withApproach_config (s : State) (p : Pos) (a : Approach) (r : ApproachRecord) : (s.withApproach p a r).config = s.config := rfl
@[simp] theorem raiseNotice_pending (body : NoticeBody) (s : State) : (raiseNotice body s).pending = s.pending := rfl
@[simp] theorem raiseNotice_ctb (body : NoticeBody) (s : State) : (raiseNotice body s).ctb = s.ctb := rfl
@[simp] theorem raiseNotice_oc (body : NoticeBody) (s : State) : (raiseNotice body s).oc = s.oc := rfl
@[simp] theorem raiseNotice_pt (body : NoticeBody) (s : State) : (raiseNotice body s).pt = s.pt := rfl
@[simp] theorem raiseNotice_qw (body : NoticeBody) (s : State) : (raiseNotice body s).qw = s.qw := rfl
@[simp] theorem raiseNotice_pm (body : NoticeBody) (s : State) : (raiseNotice body s).pm = s.pm := rfl
@[simp] theorem raiseNotice_pl (body : NoticeBody) (s : State) : (raiseNotice body s).pl = s.pl := rfl
@[simp] theorem raiseNotice_ps (body : NoticeBody) (s : State) : (raiseNotice body s).ps = s.ps := rfl
@[simp] theorem raiseNotice_clc (body : NoticeBody) (s : State) : (raiseNotice body s).clc = s.clc := rfl
@[simp] theorem raiseNotice_ih (body : NoticeBody) (s : State) : (raiseNotice body s).ih = s.ih := rfl
@[simp] theorem raiseNotice_er (body : NoticeBody) (s : State) : (raiseNotice body s).er = s.er := rfl
@[simp] theorem raiseNotice_config (body : NoticeBody) (s : State) : (raiseNotice body s).config = s.config := rfl
@[simp] theorem raiseNotice_mode (body : NoticeBody) (s : State) : (raiseNotice body s).sli.mode = s.sli.mode := by
  unfold raiseNotice Supervisory.offered
  dsimp only
  repeat' split
  all_goals rfl
@[simp] theorem transmitterRun_pending (s : State) : (transmitterRun s).pending = s.pending := rfl
@[simp] theorem transmitterRun_ctb (s : State) : (transmitterRun s).ctb = s.ctb := rfl
@[simp] theorem transmitterRun_oc (s : State) : (transmitterRun s).oc = s.oc := rfl
@[simp] theorem transmitterRun_pt (s : State) : (transmitterRun s).pt = s.pt := rfl
@[simp] theorem transmitterRun_qw (s : State) : (transmitterRun s).qw = s.qw := rfl
@[simp] theorem transmitterRun_pm (s : State) : (transmitterRun s).pm = s.pm := rfl
@[simp] theorem transmitterRun_pl (s : State) : (transmitterRun s).pl = s.pl := rfl
@[simp] theorem transmitterRun_ps (s : State) : (transmitterRun s).ps = s.ps := rfl
@[simp] theorem transmitterRun_clc (s : State) : (transmitterRun s).clc = s.clc := rfl
@[simp] theorem transmitterRun_ih (s : State) : (transmitterRun s).ih = s.ih := rfl
@[simp] theorem transmitterRun_er (s : State) : (transmitterRun s).er = s.er := rfl
@[simp] theorem transmitterRun_config (s : State) : (transmitterRun s).config = s.config := rfl
@[simp] theorem frameTaken_pending (s : State) : (frameTaken s).pending = s.pending := rfl
@[simp] theorem frameTaken_ctb (s : State) : (frameTaken s).ctb = s.ctb := rfl
@[simp] theorem frameTaken_oc (s : State) : (frameTaken s).oc = s.oc := rfl
@[simp] theorem frameTaken_pt (s : State) : (frameTaken s).pt = s.pt := rfl
@[simp] theorem frameTaken_qw (s : State) : (frameTaken s).qw = s.qw := rfl
@[simp] theorem frameTaken_pm (s : State) : (frameTaken s).pm = s.pm := rfl
@[simp] theorem frameTaken_pl (s : State) : (frameTaken s).pl = s.pl := rfl
@[simp] theorem frameTaken_ps (s : State) : (frameTaken s).ps = s.ps := rfl
@[simp] theorem frameTaken_clc (s : State) : (frameTaken s).clc = s.clc := rfl
@[simp] theorem frameTaken_ih (s : State) : (frameTaken s).ih = s.ih := rfl
@[simp] theorem frameTaken_er (s : State) : (frameTaken s).er = s.er := rfl
@[simp] theorem frameTaken_config (s : State) : (frameTaken s).config = s.config := rfl
@[simp] theorem placeReply_pending (r : Reply) (s : State) : (placeReply r s).pending = s.pending := rfl
@[simp] theorem placeReply_ctb (r : Reply) (s : State) : (placeReply r s).ctb = s.ctb := rfl
@[simp] theorem placeReply_oc (r : Reply) (s : State) : (placeReply r s).oc = s.oc := rfl
@[simp] theorem placeReply_pt (r : Reply) (s : State) : (placeReply r s).pt = s.pt := rfl
@[simp] theorem placeReply_qw (r : Reply) (s : State) : (placeReply r s).qw = s.qw := rfl
@[simp] theorem placeReply_pm (r : Reply) (s : State) : (placeReply r s).pm = s.pm := rfl
@[simp] theorem placeReply_pl (r : Reply) (s : State) : (placeReply r s).pl = s.pl := rfl
@[simp] theorem placeReply_ps (r : Reply) (s : State) : (placeReply r s).ps = s.ps := rfl
@[simp] theorem placeReply_clc (r : Reply) (s : State) : (placeReply r s).clc = s.clc := rfl
@[simp] theorem placeReply_ih (r : Reply) (s : State) : (placeReply r s).ih = s.ih := rfl
@[simp] theorem placeReply_er (r : Reply) (s : State) : (placeReply r s).er = s.er := rfl
@[simp] theorem placeReply_config (r : Reply) (s : State) : (placeReply r s).config = s.config := rfl
@[simp] theorem finishWrite_pending (i : SlotIx) (x : Slot) (s : State) : (finishWrite i x s).pending = s.pending := rfl
@[simp] theorem finishWrite_ctb (i : SlotIx) (x : Slot) (s : State) : (finishWrite i x s).ctb = s.ctb := rfl
@[simp] theorem finishWrite_oc (i : SlotIx) (x : Slot) (s : State) : (finishWrite i x s).oc = s.oc := rfl
@[simp] theorem finishWrite_pt (i : SlotIx) (x : Slot) (s : State) : (finishWrite i x s).pt = s.pt := rfl
@[simp] theorem finishWrite_qw (i : SlotIx) (x : Slot) (s : State) : (finishWrite i x s).qw = s.qw := rfl
@[simp] theorem finishWrite_pm (i : SlotIx) (x : Slot) (s : State) : (finishWrite i x s).pm = s.pm := rfl
@[simp] theorem finishWrite_ps (i : SlotIx) (x : Slot) (s : State) : (finishWrite i x s).ps = s.ps := rfl
@[simp] theorem finishWrite_clc (i : SlotIx) (x : Slot) (s : State) : (finishWrite i x s).clc = s.clc := rfl
@[simp] theorem finishWrite_ih (i : SlotIx) (x : Slot) (s : State) : (finishWrite i x s).ih = s.ih := rfl
@[simp] theorem finishWrite_er (i : SlotIx) (x : Slot) (s : State) : (finishWrite i x s).er = s.er := rfl
@[simp] theorem finishWrite_sli (i : SlotIx) (x : Slot) (s : State) : (finishWrite i x s).sli = s.sli := rfl
@[simp] theorem finishWrite_config (i : SlotIx) (x : Slot) (s : State) : (finishWrite i x s).config = s.config := rfl

/-! ### What an update reads back -/

@[simp] theorem State.withCoord_coord (s : State) (p q : Pos) (f : Coord → Coord) :
    (s.withCoord p f).coord q = if p = q then f (s.coord p) else s.coord q := by
  simp [State.withCoord, State.coord]

@[simp] theorem State.withCoord_limits (s : State) (p : Pos) (f : Coord → Coord) : (s.withCoord p f).oc.limits = s.oc.limits := rfl

@[simp] theorem State.withIdent_ident (s : State) (p q : Pos) (f : Ident → Ident) :
    (s.withIdent p f).ident q = if p = q then f (s.ident p) else s.ident q := by
  simp [State.withIdent, State.ident]

@[simp] theorem State.withIdent_health (s : State) (p q : Pos) (f : Ident → Ident) : (s.withIdent p f).health q = s.health q := rfl

@[simp] theorem State.withIdent_silence (s : State) (p : Pos) (f : Ident → Ident) : (s.withIdent p f).ih.silence = s.ih.silence := rfl

@[simp] theorem State.withHealth_health (s : State) (p q : Pos) (f : Health → Health) :
    (s.withHealth p f).health q = if p = q then f (s.health p) else s.health q := by
  simp [State.withHealth, State.health]

@[simp] theorem State.withHealth_ident (s : State) (p q : Pos) (f : Health → Health) : (s.withHealth p f).ident q = s.ident q := rfl

@[simp] theorem State.withHealth_silence (s : State) (p : Pos) (f : Health → Health) : (s.withHealth p f).ih.silence = s.ih.silence := rfl

@[simp] theorem State.withBudget_budget (s : State) (p q : Pos) (n : Nat) :
    (s.withBudget p n).budget q = if p = q then n else s.budget q := by
  simp [State.withBudget, State.budget]

@[simp] theorem State.withBudget_owner (s : State) (p q : Pos) (n : Nat) : (s.withBudget p n).owner q = s.owner q := rfl

@[simp] theorem State.withBudget_routes (s : State) (p : Pos) (n : Nat) : (s.withBudget p n).pm.routes = s.pm.routes := rfl

@[simp] theorem State.withRoutes_routes (s : State) (f : List Route → List Route) : (s.withRoutes f).pm.routes = f s.pm.routes := rfl

@[simp] theorem State.withRoutes_owner (s : State) (f : List Route → List Route) (p : Pos) : (s.withRoutes f).owner p = s.owner p := rfl

@[simp] theorem State.withQueue_queue (s : State) (q : List QueueEntry) : (s.withQueue q).clc.queue = q := rfl

@[simp] theorem State.withQueue_line (s : State) (q : List QueueEntry) : (s.withQueue q).clc.line = s.clc.line := rfl

@[simp] theorem State.withLink_link (s : State) (l m : Link) (f : LinkRecord → LinkRecord) :
    (s.withLink l f).link m = if l = m then f (s.link l) else s.link m := by
  obtain ⟨k, d⟩ := l
  obtain ⟨j, e⟩ := m
  cases d <;> cases e <;> simp [State.withLink, State.link]

@[simp] theorem State.withLink_free (s : State) (l : Link) (f : LinkRecord → LinkRecord) : (s.withLink l f).pt.freeCount = s.pt.freeCount := by
  obtain ⟨k, d⟩ := l
  cases d <;> rfl

@[simp] theorem State.withConfig_get (s : State) (p q : Pos) (c : Option PositionConfig) :
    (s.withConfig p c).config.get q = if p = q then c else s.config.get q := by
  simp [State.withConfig]

@[simp] theorem State.withStaging_staging (s : State) (x : Option Staging) : (s.withStaging x).pl.staging = x := rfl

@[simp] theorem State.withStaging_slots (s : State) (x : Option Staging) : (s.withStaging x).pl.slots = s.pl.slots := rfl

@[simp] theorem State.withStaging_write (s : State) (x : Option Staging) : (s.withStaging x).pl.write = s.pl.write := rfl

@[simp] theorem State.withReceiver_receiver (s : State) (r : Receiver) : (s.withReceiver r).sli.receiver = r := rfl

@[simp] theorem finishWrite_slot (i j : SlotIx) (x : Slot) (s : State) :
    (finishWrite i x s).pl.slots.get j = if i = j then x else s.pl.slots.get j := by
  simp [finishWrite]

@[simp] theorem finishWrite_write (i : SlotIx) (x : Slot) (s : State) : (finishWrite i x s).pl.write = .idle := rfl

end Sys2Proof.Machine
end

