-- ==== Sys2Proof/Laws/Moves.lean ====
section
/-! SUPPORT. The changes a handling is made of. Every operation below the commands is a run of them, so that what each change
keeps, every handling keeps. -/

namespace Sys2Proof.Machine

/-- What becomes of the queue stays within its capacity and in order of class. -/
structure QueueKept (q q' : List QueueEntry) : Prop where
  short : q.length ≤ Config.queueCapacity → q'.length ≤ Config.queueCapacity
  ordered : q.Pairwise (fun a b => b.rank ≤ a.rank) → q'.Pairwise (fun a b => b.rank ≤ a.rank)

/-- A change of the Platoon Tracker that holds and frees no record. -/
structure TrackerKept (pt pt' : Tracker) : Prop where
  inbound : pt'.inboundLinks = pt.inboundLinks
  outbound : pt'.outboundLinks = pt.outboundLinks
  free : pt'.freeCount = pt.freeCount
  early : pt'.earlySlack = pt.earlySlack
  late : pt'.lateSlack = pt.lateSlack
  size : pt'.minimumSize = pt.minimumSize

/-- From `s` to `t` by the changes a handling is made of. Only a handling that routes event records touches the Event
Router's counts, and only one that settles an outcome or the line touches the line, the fault scores and the deadlines. -/
inductive Moves (routing settling : Bool) : State → State → Prop where
  | refl (s : State) : Moves routing settling s s
  | trans {a b c : State} : Moves routing settling a b → Moves routing settling b c → Moves routing settling a c
  | coord (s : State) (v : Vector Coord 12) : Moves routing settling s { s with oc := { s.oc with positions := v } }
  | link (s : State) (l : Link) (f : LinkRecord → LinkRecord) (h : (f (s.link l)).queue = (s.link l).queue) :
      Moves routing settling s (s.withLink l f)
  | release (s : State) (l : Link) (f : LinkRecord → LinkRecord) (n : Nat)
      (h : (f (s.link l)).queue.length + n = (s.link l).queue.length) : Moves routing settling s (freeRecords n (s.withLink l f))
  | hold (s : State) (l : Link) (x : Platoon) (h : s.pt.freeCount ≠ 0) : Moves routing settling s (holdPlatoon l x s)
  | flush (s : State) : Moves routing settling s (flushPool s)
  | tracker (s : State) (pt : Tracker) (h : TrackerKept s.pt pt) : Moves routing settling s { s with pt := pt }
  | watch (s : State) (qw : Watch) (h : qw.arterialLimits = s.qw.arterialLimits) (h' : qw.sideLimits = s.qw.sideLimits) :
      Moves routing settling s { s with qw := qw }
  | priority (s : State) (pm : Priority) (h : pm.policy = s.pm.policy)
      (h' : s.pm.routes.length ≤ Config.routeCapacity → pm.routes.length ≤ Config.routeCapacity) :
      Moves routing settling s { s with pm := pm }
  | selector (s : State) (ps : Selector) (h : ps.image = s.ps.image) (h' : ps.table = s.ps.table) :
      Moves routing settling s { s with ps := ps }
  | queue (s : State) (q : List QueueEntry) (h : QueueKept s.clc.queue q) : Moves routing settling s (s.withQueue q)
  | accepted (s : State) (v : Vector (Option Nat) 12) : Moves routing settling s { s with clc := { s.clc with accepted := v } }
  | ident (s : State) (v : Vector Ident 12) : Moves routing settling s { s with ih := { s.ih with ident := v } }
  | line (s : State) (clc : LineController) (hs : settling = true) (h : clc.queue = s.clc.queue) (h' : clc.pollRound = s.clc.pollRound)
      (pins : PinsFollowLine s → PinsFollowLine { s with clc := clc }) : Moves routing settling s { s with clc := clc }
  | health (s : State) (ih : Identification) (hs : settling = true) : Moves routing settling s { s with ih := ih }
  | counts (s : State) (er : Router) (hr : routing = true) (h : er.rules = s.er.rules) : Moves routing settling s { s with er := er }
  | notice (s : State) (body : NoticeBody) : Moves routing settling s (raiseNotice body s)
  | transmit (s : State) : Moves routing settling s (transmitterRun s)
  | draining (s : State) (b : Bool) (hs : settling = true) : Moves routing settling s { s with sli := { s.sli with draining := b } }

namespace Moves

variable {rt st : Bool} {a s : State}

/-! ### Tables and folds -/

theorem forPositions {f : Pos → State → State} (hf : ∀ p t, Moves rt st a t → Moves rt st a (f p t)) (h : Moves rt st a s) :
    Moves rt st a (Machine.forPositions f s) := by
  have : ∀ (l : List Pos) (t : State), Moves rt st a t → Moves rt st a (l.foldl (fun s p => f p s) t) := by
    intro l
    induction l with
    | nil => exact fun t ht => ht
    | cons p l ih => exact fun t ht => ih _ (hf p t ht)
  exact this _ _ h

theorem foldl {α : Type} {f : State → α → State} (hf : ∀ t x, Moves rt st a t → Moves rt st a (f t x)) (l : List α) (h : Moves rt st a s) :
    Moves rt st a (l.foldl f s) := by
  induction l generalizing s with
  | nil => exact h
  | cons x l ih => exact ih (hf s x h)

/-! ### Named updates -/

@[simp] theorem withCoord (p : Pos) (f : Coord → Coord) (h : Moves rt st a s) : Moves rt st a (s.withCoord p f) := h.trans (coord _ _)

@[simp] theorem withIdent (p : Pos) (f : Ident → Ident) (h : Moves rt st a s) : Moves rt st a (s.withIdent p f) := h.trans (ident _ _)

@[simp] theorem withHealth (p : Pos) (f : Health → Health) (h : Moves rt true a s) : Moves rt true a (s.withHealth p f) :=
  h.trans (health _ _ rfl)

@[simp] theorem raiseNotice (b : NoticeBody) (h : Moves rt st a s) : Moves rt st a (Machine.raiseNotice b s) := h.trans (notice _ _)

@[simp] theorem transmitterRun (h : Moves rt st a s) : Moves rt st a (Machine.transmitterRun s) := h.trans (transmit _)

theorem withBudget (p : Pos) (n : Nat) (h : Moves rt st a s) : Moves rt st a (s.withBudget p n) :=
  h.trans (priority _ _ rfl (fun h => h))

/-! ### The Link Command Queue -/

end Moves

theorem joinQueue_length (e : QueueEntry) (q : List QueueEntry) : (joinQueue e q).length = q.length + 1 := by
  induction q with
  | nil => rfl
  | cons x q ih => simp only [joinQueue]; split <;> simp [*]

theorem mem_joinQueue {e y : QueueEntry} {q : List QueueEntry} : y ∈ joinQueue e q ↔ y = e ∨ y ∈ q := by
  induction q with
  | nil => simp [joinQueue]
  | cons x q ih => simp only [joinQueue]; split <;> (simp [ih]; try tauto)

theorem joinQueue_ordered (e : QueueEntry) (q : List QueueEntry) (h : q.Pairwise (fun a b => b.rank ≤ a.rank)) :
    (joinQueue e q).Pairwise (fun a b => b.rank ≤ a.rank) := by
  induction q with
  | nil => simp [joinQueue]
  | cons x q ih =>
    simp only [joinQueue]
    rw [List.pairwise_cons] at h
    split
    · next hx =>
      refine List.pairwise_cons.2 ⟨fun y hy => ?_, List.pairwise_cons.2 h⟩
      rcases List.mem_cons.1 hy with rfl | hy
      · omega
      · have := h.1 y hy
        omega
    · next hx =>
      refine List.pairwise_cons.2 ⟨fun y hy => ?_, ih h.2⟩
      rcases mem_joinQueue.1 hy with rfl | hy
      · omega
      · exact h.1 y hy

theorem QueueKept.sublist {q q' : List QueueEntry} (h : q'.Sublist q) : QueueKept q q' :=
  ⟨fun hq => le_trans h.length_le hq, fun hq => hq.sublist h⟩

theorem QueueKept.join {q : List QueueEntry} {e : QueueEntry} (h : q.length < Config.queueCapacity) :
    QueueKept q (joinQueue e q) :=
  ⟨fun _ => by rw [joinQueue_length]; exact h, joinQueue_ordered e q⟩

theorem QueueKept.replace {q q' : List QueueEntry} {e : QueueEntry} (h : q'.Sublist q) (hl : q'.length < q.length) :
    QueueKept q (joinQueue e q') :=
  ⟨fun hq => by rw [joinQueue_length]; omega, fun hq => joinQueue_ordered e q' (hq.sublist h)⟩

theorem QueueKept.map {q : List QueueEntry} (f : QueueEntry → QueueEntry) (h : ∀ e, (f e).rank = e.rank) :
    QueueKept q (q.map f) :=
  ⟨fun hq => by simpa using hq, fun hq => List.pairwise_map.2 (hq.imp (fun hab => by simpa [h] using hab))⟩

theorem evictYoungest_some {r : Nat} {q rest : List QueueEntry} {x : QueueEntry} (h : evictYoungest r q = (some x, rest)) :
    rest.Sublist q ∧ rest.length < q.length := by
  induction q generalizing x rest with
  | nil => simp [evictYoungest] at h
  | cons e q ih =>
    simp only [evictYoungest] at h
    split at h
    · next y rest' hy =>
      simp only [Prod.mk.injEq, Option.some.injEq] at h
      obtain ⟨rfl, rfl⟩ := h
      have := ih hy
      exact ⟨this.1.cons_cons e, by simpa using this.2⟩
    · split at h
      · simp only [Prod.mk.injEq, Option.some.injEq] at h
        obtain ⟨rfl, rfl⟩ := h
        exact ⟨List.sublist_cons_self .., by simp⟩
      · simp at h

namespace Moves

variable {rt st : Bool} {a s : State}

theorem withQueue {q : List QueueEntry} (hq : QueueKept s.clc.queue q) (h : Moves rt st a s) : Moves rt st a (s.withQueue q) :=
  h.trans (queue _ _ hq)

@[simp] theorem setRetry (p : Pos) (h : Moves rt st a s) : Moves rt st a (Machine.setRetry p s) := withIdent _ _ h

@[simp] theorem evicted (e : QueueEntry) (h : Moves rt st a s) : Moves rt st a (Machine.evicted e s) := by
  unfold Machine.evicted
  split <;> simp (maxDischargeDepth := 40) [h]

@[simp] theorem offerEntry (e : QueueEntry) (h : Moves rt st a s) : Moves rt st a (Machine.offerEntry e s).1 := by
  unfold Machine.offerEntry
  dsimp only
  split
  · exact h
  · split
    · exact h
    · split
      · next hany =>
        refine withQueue (QueueKept.replace List.filter_sublist ?_) h
        rw [List.length_filter_lt_length_iff_exists]
        obtain ⟨x, hx, hr⟩ := List.any_eq_true.1 hany
        exact ⟨x, hx, by simp [hr]⟩
      · split
        · next hl => exact withQueue (QueueKept.join hl) h
        · split
          · exact h
          · split
            · exact h
            · next x rest hx =>
              have := evictYoungest_some hx
              exact evicted _ (withQueue (QueueKept.replace this.1 this.2) h)

@[simp] theorem offerTo (c : LineCommand) (p : Pos) (r : Option RouteRef) (h : Moves rt st a s) :
    Moves rt st a (Machine.offerTo c p r s).1 := by
  unfold Machine.offerTo
  split <;> simp (maxDischargeDepth := 40) [h]

@[simp] theorem claimBeacon (h : Moves rt st a s) : Moves rt st a (Machine.claimBeacon s) := offerEntry _ h

@[simp] theorem withdraw (w : QueueEntry → Bool) (h : Moves rt st a s) : Moves rt st a (Machine.withdraw w s) :=
  withQueue (QueueKept.sublist List.filter_sublist) h

@[simp] theorem withdrawServiced (p : Pos) (h : Moves rt st a s) : Moves rt st a (Machine.withdrawServiced p s) := withdraw _ h

@[simp] theorem withdrawTiming (p : Pos) (h : Moves rt st a s) : Moves rt st a (Machine.withdrawTiming p s) := withdraw _ h

/-! ### The Offset Coordinator -/

@[simp] theorem notePosition (p : Pos) (h : Moves rt st a s) : Moves rt st a (Machine.notePosition p s) := raiseNotice _ h

@[simp] theorem leaveToLocal (p : Pos) (r : LocalReason) (b : Bool) (h : Moves rt st a s) :
    Moves rt st a (Machine.leaveToLocal p r b s) := by
  unfold Machine.leaveToLocal
  cases b <;> simp (maxDischargeDepth := 40) [h]

@[simp] theorem takeReason (p : Pos) (r : LocalReason) (h : Moves rt st a s) : Moves rt st a (Machine.takeReason p r s) := by
  unfold Machine.takeReason
  split <;> simp (maxDischargeDepth := 40) [h]

@[simp] theorem coordUnseen (p : Pos) (h : Moves rt st a s) : Moves rt st a (Machine.coordUnseen p s) := by
  unfold Machine.coordUnseen
  dsimp only
  split <;> simp (maxDischargeDepth := 40) [h]

@[simp] theorem coordIdentified (p : Pos) (m : ResolvedMode) (h : Moves rt st a s) : Moves rt st a (Machine.coordIdentified p m s) := by
  unfold Machine.coordIdentified
  dsimp only
  split <;> simp (maxDischargeDepth := 40) [h]

@[simp] theorem coordOutOfService (p : Pos) (r : LocalReason) (h : Moves rt st a s) :
    Moves rt st a (Machine.coordOutOfService p r s) := by
  unfold Machine.coordOutOfService
  split <;> simp (maxDischargeDepth := 40) [h]

@[simp] theorem fieldLocalSet (p : Pos) (h : Moves rt st a s) : Moves rt st a (Machine.fieldLocalSet p s) := by
  unfold Machine.fieldLocalSet
  dsimp only
  split <;> simp (maxDischargeDepth := 40) [h]

@[simp] theorem fieldLocalClear (p : Pos) (h : Moves rt st a s) : Moves rt st a (Machine.fieldLocalClear p s) := by
  unfold Machine.fieldLocalClear
  dsimp only
  split <;> simp (maxDischargeDepth := 40) [h]

@[simp] theorem setTarget (p : Pos) (h : Moves rt st a s) : Moves rt st a (Machine.setTarget p s) := withCoord _ _ h

@[simp] theorem testBand (p : Pos) (h : Moves rt st a s) : Moves rt st a (Machine.testBand p s) := by
  unfold Machine.testBand
  dsimp only
  split
  · split <;> simp (maxDischargeDepth := 40) [h]
  · exact h

@[simp] theorem retarget (p : Pos) (h : Moves rt st a s) : Moves rt st a (Machine.retarget p s) := by
  unfold Machine.retarget
  dsimp only
  split <;> simp (maxDischargeDepth := 40) [h]

@[simp] theorem withTrim (p : Pos) (x : Int) (h : Moves rt st a s) : Moves rt st a (Machine.withTrim p x s) := by
  unfold Machine.withTrim
  split <;> simp (maxDischargeDepth := 40) [h]

@[simp] theorem stepTrim (p : Pos) (x : Int) (h : Moves rt st a s) : Moves rt st a (Machine.stepTrim p x s) := withTrim _ _ h

@[simp] theorem judgeMeasurement (p : Pos) (h : Moves rt st a s) : Moves rt st a (Machine.judgeMeasurement p s) := by
  unfold Machine.judgeMeasurement
  dsimp only
  split
  · split <;> simp (maxDischargeDepth := 40) [h]
  · simp (maxDischargeDepth := 40) [h]
  · exact h

@[simp] theorem measure (p : Pos) (x y : Nat) (h : Moves rt st a s) : Moves rt st a (Machine.measure p x y s) := by
  unfold Machine.measure
  dsimp only
  split
  · exact h
  · split
    · split <;> simp (maxDischargeDepth := 40) [h]
    · split <;> simp (maxDischargeDepth := 40) [h]

@[simp] theorem dropStale (p : Pos) (h : Moves rt st a s) : Moves rt st a (Machine.dropStale p s) := by
  unfold Machine.dropStale
  split
  · split <;> simp (maxDischargeDepth := 40) [h]
  · exact h

@[simp] theorem rechoose (p : Pos) (h : Moves rt st a s) : Moves rt st a (Machine.rechoose p s) := by
  unfold Machine.rechoose
  dsimp only
  split <;> simp (maxDischargeDepth := 40) [h]

@[simp] theorem handleCommandPoint (p : Pos) (h : Moves rt st a s) : Moves rt st a (Machine.handleCommandPoint p s) := by
  unfold Machine.handleCommandPoint
  dsimp only
  split <;> simp (maxDischargeDepth := 40) [h]

@[simp] theorem ownerTaken (p : Pos) (h : Moves rt st a s) : Moves rt st a (Machine.ownerTaken p s) := by
  unfold Machine.ownerTaken
  split <;> simp (maxDischargeDepth := 40) [h]

@[simp] theorem ownerReturned (p : Pos) (h : Moves rt st a s) : Moves rt st a (Machine.ownerReturned p s) := by
  unfold Machine.ownerReturned
  split
  · split <;> simp (maxDischargeDepth := 40) [h]
  · exact h

@[simp] theorem timingAcked (p : Pos) (t : TimingSet) (h : Moves rt st a s) : Moves rt st a (Machine.timingAcked p t s) := by
  unfold Machine.timingAcked
  dsimp only
  split <;> simp (maxDischargeDepth := 40) [h]

@[simp] theorem timingRefused (p : Pos) (r : NakReason) (t : TimingSet) (h : Moves rt st a s) :
    Moves rt st a (Machine.timingRefused p r t s) := by
  unfold Machine.timingRefused
  dsimp only
  split <;> simp (maxDischargeDepth := 40) [h]

@[simp] theorem clearRefusing (p : Pos) (h : Moves rt st a s) : Moves rt st a (Machine.clearRefusing p s) := by
  unfold Machine.clearRefusing
  split
  · simp (maxDischargeDepth := 40) [h]
  · split <;> simp (maxDischargeDepth := 40) [h]

@[simp] theorem planTakesEffect (b : Bool) (p : Pos) (h : Moves rt st a s) : Moves rt st a (Machine.planTakesEffect b p s) := by
  unfold Machine.planTakesEffect
  extract_lets s₁ s₂ old s₃
  have h₃ : Moves rt st a s₃ := by simp (maxDischargeDepth := 40) [s₃, s₂, s₁, h]
  split
  iterate 3 simp (maxDischargeDepth := 40) [h₃]
  · split <;> simp (maxDischargeDepth := 40) [h₃]
  · split
    · simp (maxDischargeDepth := 40) [h₃]
    · split <;> simp (maxDischargeDepth := 40) [h₃]
  · exact h₃

@[simp] theorem examineLocal (p : Pos) (h : Moves rt st a s) : Moves rt st a (Machine.examineLocal p s) := by
  unfold Machine.examineLocal
  split
  · split
    · split <;> simp (maxDischargeDepth := 40) [h]
    · exact h
  · exact h

@[simp] theorem freeAtMark (p : Pos) (h : Moves rt st a s) : Moves rt st a (Machine.freeAtMark p s) := by
  unfold Machine.freeAtMark
  split <;> simp (maxDischargeDepth := 40) [h]

@[simp] theorem commandPointAtMark (p : Pos) (h : Moves rt st a s) : Moves rt st a (Machine.commandPointAtMark p s) := by
  unfold Machine.commandPointAtMark
  dsimp only
  split <;> simp (maxDischargeDepth := 40) [h]

@[simp] theorem coordAtMark (b c : Bool) (h : Moves rt st a s) : Moves rt st a (Machine.coordAtMark b c s) := by
  unfold Machine.coordAtMark
  refine forPositions (fun p t ht => freeAtMark p ht) (forPositions (fun p t ht => examineLocal p ht) ?_)
  have h₁ : Moves rt st a (Machine.forPositions (fun p s => s.withCoord p (fun c => { c with commanded := false })) s) :=
    forPositions (fun p t ht => withCoord _ _ ht) h
  split
  · exact forPositions (fun p t ht => planTakesEffect _ p ht) (withdraw _ h₁)
  · exact h₁

@[simp] theorem coordRestartAt (p : Pos) (h : Moves rt st a s) : Moves rt st a (Machine.coordRestartAt p s) := by
  unfold Machine.coordRestartAt
  dsimp only
  split
  · split <;> simp (maxDischargeDepth := 40) [h]
  · simp (maxDischargeDepth := 40) [h]

@[simp] theorem coordSetupAt (p : Pos) (h : Moves rt st a s) : Moves rt st a (Machine.coordSetupAt p s) := by
  unfold Machine.coordSetupAt
  split <;> simp (maxDischargeDepth := 40) [h]

/-! ### Queue Watch -/

theorem withApproach (p : Pos) (x : Approach) (r : ApproachRecord) (h : Moves rt st a s) : Moves rt st a (s.withApproach p x r) :=
  h.trans (watch _ _ rfl rfl)

@[simp] theorem noteGridlock (c : GridlockCondition) (f : Gridlock → Bool) (o : Vector Gridlock 12) (h : Moves rt st a s) :
    Moves rt st a (Machine.noteGridlock c f o s) := by
  refine forPositions (fun p t ht => ?_) h
  split
  · exact ht
  · exact raiseNotice _ ht

@[simp] theorem settleGridlock (h : Moves rt st a s) : Moves rt st a (Machine.settleGridlock s) := by
  unfold Machine.settleGridlock
  exact noteGridlock _ _ _ (noteGridlock _ _ _ (noteGridlock _ _ _ (h.trans (watch _ _ rfl rfl))))

@[simp] theorem noteQueueState (p : Pos) (x : Approach) (q : QueueState) (h : Moves rt st a s) :
    Moves rt st a (Machine.noteQueueState p x q s) := raiseNotice _ h

@[simp] theorem changeApproach (p : Pos) (x : Approach) (r : ApproachRecord) (h : Moves rt st a s) :
    Moves rt st a (Machine.changeApproach p x r s) := by
  have := withApproach p x r h
  unfold Machine.changeApproach
  dsimp only
  split
  · exact this
  · exact settleGridlock (noteQueueState _ _ _ this)

@[simp] theorem takeSample (p : Pos) (n : Nat) (d : EventDirection) (v : Nat) (t : Time) (h : Moves rt st a s) :
    Moves rt st a (Machine.takeSample p n d v t s) := by
  unfold Machine.takeSample
  split
  · exact h
  · split
    · exact changeApproach _ _ _ h
    · exact h

@[simp] theorem expireSilence (p : Pos) (x : Approach) (h : Moves rt st a s) : Moves rt st a (Machine.expireSilence p x s) :=
  changeApproach _ _ _ h

@[simp] theorem approachesLost (p : Pos) (h : Moves rt st a s) : Moves rt st a (Machine.approachesLost p s) :=
  settleGridlock (h.trans (watch _ _ rfl rfl))

@[simp] theorem clearWatch (h : Moves rt st a s) : Moves rt st a (Machine.clearWatch s) := h.trans (watch _ _ rfl rfl)

/-! ### The Platoon Tracker -/

theorem withLink (l : Link) (f : LinkRecord → LinkRecord) (hf : ∀ r, (f r).queue = r.queue) (h : Moves rt st a s) :
    Moves rt st a (s.withLink l f) := h.trans (link _ _ _ (hf _))

@[simp] theorem displaceOldest (l : Link) (h : Moves rt st a s) : Moves rt st a (Machine.displaceOldest l s) := by
  unfold Machine.displaceOldest
  split
  · exact h
  · next hq => exact h.trans (release _ _ _ _ (by simp [hq]))

theorem holdPlatoon (l : Link) (x : Platoon) (hf : s.pt.freeCount ≠ 0) (h : Moves rt st a s) :
    Moves rt st a (Machine.holdPlatoon l x s) := h.trans (hold _ _ _ hf)

@[simp] theorem placePlatoon (l : Link) (x : Platoon) (h : Moves rt st a s) :
    Moves rt st a (Machine.placePlatoon l x s) := by
  unfold Machine.placePlatoon
  dsimp only
  split
  · split
    · exact h
    · next hall =>
      refine holdPlatoon _ _ ?_ (displaceOldest _ h)
      unfold Machine.displaceOldest
      split
      · next hq => simp [hq] at hall
      · simp [freeRecords, Tracker.freed]
  · split
    · split
      · exact h
      · exact raiseNotice _ (h.trans (tracker _ _ ⟨rfl, rfl, rfl, rfl, rfl, rfl⟩))
    · next hf => exact holdPlatoon _ _ hf h

@[simp] theorem takeDeparture (p : Pos) (d : EventDirection) (n m : Nat) (t : Time) (h : Moves rt st a s) :
    Moves rt st a (Machine.takeDeparture p d n m t s) := by
  unfold Machine.takeDeparture
  split
  · exact h
  · dsimp only
    split
    · split
      · exact placePlatoon _ _ h
      · exact h
    · exact h

@[simp] theorem noteTracking (l : Link) (h : Moves rt st a s) : Moves rt st a (Machine.noteTracking l s) := raiseNotice _ h

@[simp] theorem offerError (l : Link) (t : Time) (h : Moves rt st a s) : Moves rt st a (Machine.offerError l t s) := by
  unfold Machine.offerError
  dsimp only
  split
  · exact h
  · split
    · exact h.trans (tracker _ _ ⟨rfl, rfl, rfl, rfl, rfl, rfl⟩)
    · exact h

theorem removePlatoon_length {n : Nat} {q : List Platoon} (h : q.any (fun x => x.number == n) = true) :
    (removePlatoon n q).length + 1 = q.length := by
  obtain ⟨x, hx, hn⟩ := List.any_eq_true.1 h
  have := List.length_eraseP_of_mem (p := fun x => x.number == n) hx hn
  have : 0 < q.length := List.length_pos_of_mem hx
  unfold removePlatoon
  omega

theorem matchPlatoon (l : Link) (x : Platoon) (t : Time) (hx : x ∈ (s.link l).queue) (h : Moves rt st a s) :
    Moves rt st a (Machine.matchPlatoon l x t s) := by
  unfold Machine.matchPlatoon
  extract_lets was s₁ s₂ s₃
  have h₁ : Moves rt st a s₁ :=
    h.trans (release _ _ _ _ (removePlatoon_length (List.any_eq_true.2 ⟨x, hx, by simp⟩)))
  have h₂ : Moves rt st a s₂ := by
    simp only [s₂]
    split
    · exact h₁
    · exact noteTracking _ h₁
  have h₃ : Moves rt st a s₃ := by
    simp only [s₃]
    split
    · exact withLink _ _ (fun _ => rfl) h₂
    · exact h₂
  exact offerError _ _ h₃

@[simp] theorem takeArrival (p : Pos) (d : EventDirection) (t : Time) (h : Moves rt st a s) :
    Moves rt st a (Machine.takeArrival p d t s) := by
  unfold Machine.takeArrival
  split
  · exact h
  · split
    · exact h
    · next hx => exact matchPlatoon _ _ _ (List.mem_of_find?_eq_some hx) h

@[simp] theorem takePlatoonRecord (p : Pos) (n : Nat) (d : EventDirection) (x y : Nat) (t : Time) (h : Moves rt st a s) :
    Moves rt st a (Machine.takePlatoonRecord p n d x y t s) := by
  unfold Machine.takePlatoonRecord
  split <;> simp [h]

theorem losePlatoon (l : Link) (n : Nat) (hn : (s.link l).queue.any (fun x => x.number == n) = true) (h : Moves rt st a s) :
    Moves rt st a (Machine.losePlatoon l n s) := by
  unfold Machine.losePlatoon
  extract_lets r lost falls s₁
  have h₁ : Moves rt st a s₁ := h.trans (release _ _ _ _ (removePlatoon_length hn))
  split
  · exact noteTracking _ h₁
  · exact h₁

@[simp] theorem emptyLink (l : Link) (h : Moves rt st a s) : Moves rt st a (Machine.emptyLink l s) :=
  h.trans (release _ _ _ _ (by simp))

@[simp] theorem linksDown (p : Pos) (h : Moves rt st a s) : Moves rt st a (Machine.linksDown p s) :=
  foldl (fun _ l ht => emptyLink l ht) _ h

@[simp] theorem emptyAccumulators (h : Moves rt st a s) : Moves rt st a (Machine.emptyAccumulators s) :=
  h.trans (tracker _ _ ⟨rfl, rfl, rfl, rfl, rfl, rfl⟩)

@[simp] theorem emptyAccumulator (p : Pos) (h : Moves rt st a s) : Moves rt st a (Machine.emptyAccumulator p s) :=
  h.trans (tracker _ _ ⟨rfl, rfl, rfl, rfl, rfl, rfl⟩)

@[simp] theorem flushPool (h : Moves rt st a s) : Moves rt st a (Machine.flushPool s) := h.trans (flush _)

@[simp] theorem trackAtMark (b : Bool) (h : Moves rt st a s) : Moves rt st a (Machine.trackAtMark b s) := by
  unfold Machine.trackAtMark
  split
  · exact emptyAccumulators (h.trans (tracker _ _ ⟨rfl, rfl, rfl, rfl, rfl, rfl⟩))
  · refine emptyAccumulators (forPositions (fun p t ht => ?_) h)
    split
    · exact stepTrim _ _ ht
    · exact ht

/-! ### The Priority Manager -/

theorem owners (v : Vector Owner 12) (h : Moves rt st a s) : Moves rt st a { s with pm := { s.pm with owners := v } } :=
  h.trans (priority _ _ rfl (fun h => h))

@[simp] theorem setOwner (p : Pos) (o : Owner) (h : Moves rt st a s) : Moves rt st a (Machine.setOwner p o s) := by
  unfold Machine.setOwner
  extract_lets was src s₁
  have h₁ : Moves rt st a s₁ := owners _ h
  split
  · exact ownerTaken _ h₁
  · split
    · exact ownerReturned _ h₁
    · exact h₁

theorem withRoutes (f : List Route → List Route) (hf : ∀ rs, (f rs).length ≤ rs.length) (h : Moves rt st a s) :
    Moves rt st a (s.withRoutes f) := h.trans (priority _ _ rfl (fun hl => le_trans (hf _) hl))

@[simp] theorem leaveRoute (p : Pos) (h : Moves rt st a s) : Moves rt st a (Machine.leaveRoute p s) :=
  withRoutes _ (fun _ => by simp) h

@[simp] theorem withdrawClear (p : Pos) (h : Moves rt st a s) : Moves rt st a (Machine.withdrawClear p s) := withdraw _ h

@[simp] theorem withdrawEnd (p : Pos) (h : Moves rt st a s) : Moves rt st a (Machine.withdrawEnd p s) := withdraw _ h

@[simp] theorem handBack (p o : Pos) (h : Moves rt st a s) : Moves rt st a (Machine.handBack p o s) := by
  unfold Machine.handBack
  split
  · exact setOwner _ _ h
  · exact h

@[simp] theorem sendEnd (p : Pos) (r : RouteRef) (h : Moves rt st a s) : Moves rt st a (Machine.sendEnd p r s).1 := by
  unfold Machine.sendEnd
  dsimp only
  split
  · exact offerTo _ _ _ (withdrawClear _ h)
  · exact handBack _ _ (offerTo _ _ _ (withdrawClear _ h))

theorem endMember (r : RouteRef) (acc : State × List Pos) (m : Member) (h : Moves rt st a acc.1) :
    Moves rt st a (Machine.endMember r acc m).1 := by
  unfold Machine.endMember
  dsimp only
  split
  · exact setOwner _ _ (withdrawClear _ h)
  · exact sendEnd _ _ h

theorem endMembers (r : RouteRef) (ms : List Member) (acc : State × List Pos) (h : Moves rt st a acc.1) :
    Moves rt st a (ms.foldl (Machine.endMember r) acc).1 := by
  induction ms generalizing acc with
  | nil => exact h
  | cons m ms ih => exact ih _ (endMember r acc m h)

@[simp] theorem endRoute (r : Route) (h : Moves rt st a s) : Moves rt st a (Machine.endRoute r s).1 :=
  endMembers _ _ _ (withRoutes _ (fun _ => List.length_filter_le _ _) h)

@[simp] theorem endRouteFrom (p : Pos) (h : Moves rt st a s) : Moves rt st a (Machine.endRouteFrom p s).1 := by
  unfold Machine.endRouteFrom
  split
  · exact h
  · exact endRoute _ h

@[simp] theorem endAllRoutes (h : Moves rt st a s) : Moves rt st a (Machine.endAllRoutes s) :=
  forPositions (fun p _ ht => endRouteFrom p ht) h

@[simp] theorem offerClears (r : RouteRef) (d : Direction) (n : Nat) (ps : List Pos) (h : Moves rt st a s) :
    Moves rt st a (Machine.offerClears r d n ps s) := by
  induction ps generalizing s with
  | nil => exact h
  | cons p ps ih =>
    unfold Machine.offerClears
    dsimp only
    split
    · exact ih (offerTo _ _ _ h)
    · exact foldl (fun t q ht => setOwner _ _ (leaveRoute _ ht)) _ (offerTo _ _ _ h)

@[simp] theorem formRoute (k : Pos) (d : EventDirection) (h : Moves rt st a s) : Moves rt st a (Machine.formRoute k d s).1 := by
  unfold Machine.formRoute
  extract_lets length way ref hold src
  clear_value length way
  split
  · exact h
  · split
    · exact h
    · extract_lets members route s₁ s₂
      split
      · exact h
      · split
        · exact h
        · next hr =>
          have h₁ : Moves rt st a s₁ := by
            refine h.trans (priority _ _ rfl (fun _ => ?_))
            simp only [List.length_append, List.length_cons, List.length_nil]
            omega
          exact offerClears _ _ _ _ (foldl (fun t q ht => setOwner _ _ ht) _ h₁)

@[simp] theorem preemptCall (k : Pos) (d : EventDirection) (h : Moves rt st a s) : Moves rt st a (Machine.preemptCall k d s) := by
  unfold Machine.preemptCall
  split
  · refine raiseNotice _ (formRoute _ _ (setOwner _ _ (endRouteFrom _ ?_)))
    split
    · exact withdrawEnd _ (withdrawClear _ (leaveRoute _ h))
    · exact withdrawClear _ (leaveRoute _ h)
  · exact h

@[simp] theorem endCall (k : Pos) (c : EndCause) (h : Moves rt st a s) : Moves rt st a (Machine.endCall k c s) :=
  raiseNotice _ (setOwner _ _ (endRouteFrom _ h))

@[simp] theorem preemptClear (k : Pos) (h : Moves rt st a s) : Moves rt st a (Machine.preemptClear k s) := by
  unfold Machine.preemptClear
  split
  · exact endCall _ _ h
  · exact h

@[simp] theorem callLearned (k : Pos) (c : StartCause) (h : Moves rt st a s) : Moves rt st a (Machine.callLearned k c s) := by
  unfold Machine.callLearned
  split
  · exact raiseNotice _ (setOwner _ _ h)
  · exact h

@[simp] theorem judgePreempting (k : Pos) (b : Bool) (h : Moves rt st a s) : Moves rt st a (Machine.judgePreempting k b s) := by
  unfold Machine.judgePreempting
  split
  · exact callLearned _ _ h
  · split
    · exact endCall _ _ h
    · exact h

@[simp] theorem dropRoute (r : Route) (c : EndCause) (h : Moves rt st a s) : Moves rt st a (Machine.dropRoute r c s) :=
  raiseNotice _ (endRoute _ h)

@[simp] theorem clearAcked (p : Pos) (r : RouteRef) (h : Moves rt st a s) : Moves rt st a (Machine.clearAcked p r s) :=
  withRoutes _ (fun _ => by simp) h

@[simp] theorem clearFailed (p : Pos) (r : RouteRef) (h : Moves rt st a s) : Moves rt st a (Machine.clearFailed p r s) := by
  unfold Machine.clearFailed
  split
  · exact setOwner _ _ (leaveRoute _ h)
  · exact h

@[simp] theorem standingLost (k : Pos) (h : Moves rt st a s) : Moves rt st a (Machine.standingLost k s) := by
  unfold Machine.standingLost
  split
  · exact h
  · exact endCall _ _ h
  · exact setOwner _ _ (withdrawEnd _ (withdrawClear _ (leaveRoute _ h)))

@[simp] theorem unitFault (k : Pos) (h : Moves rt st a s) : Moves rt st a (Machine.unitFault k s) := by
  unfold Machine.unitFault
  split
  · extract_lets s₁
    have h₁ : Moves rt st a s₁ := by
      simp only [s₁]
      split
      · exact withBudget _ _ h
      · exact h
    split
    · exact h₁
    · exact sendEnd _ _ (leaveRoute _ h₁)
  · exact h

@[simp] theorem transitCall (k : Pos) (d : EventDirection) (x y : Nat) (h : Moves rt st a s) :
    Moves rt st a (Machine.transitCall k d x y s) := by
  unfold Machine.transitCall
  split
  · extract_lets answer r s₁
    refine raiseNotice _ ?_
    have hr : Moves rt st a r.1 := offerTo _ _ _ h
    clear_value answer
    simp only [s₁]
    split
    · exact hr
    · split
      · exact withBudget _ _ (withCoord _ _ hr)
      · exact hr
  · exact h

@[simp] theorem countDown (h : Moves rt st a s) : Moves rt st a (Machine.countDown s) :=
  forPositions (fun _ _ ht => withBudget _ _ ht) h

@[simp] theorem priorityLineReset (h : Moves rt st a s) : Moves rt st a (Machine.priorityLineReset s) :=
  forPositions (fun _ _ ht => setOwner _ _ ht) (withRoutes _ (fun _ => by simp) h)

@[simp] theorem releasePriority (h : Moves rt st a s) : Moves rt st a (Machine.releasePriority s) := by
  refine withdraw _ (forPositions (fun p t ht => ?_) (endAllRoutes h))
  split
  · exact setOwner _ _ ht
  · exact ht

@[simp] theorem priorityRestart (h : Moves rt st a s) : Moves rt st a (Machine.priorityRestart s) := by
  have h₁ := releasePriority h
  unfold Machine.priorityRestart
  generalize Machine.releasePriority s = t at *
  exact h₁.trans (priority t _ rfl (fun h => h))

end Moves

end Sys2Proof.Machine
end

