-- ==== Sys2Proof/Laws/LineMoves.lean ====
section
/-! SUPPORT. The operations of the Plan Selector's demand, Identification and Health, the Event Router, the Corridor Line
Controller and the timed events are runs of the changes of `Moves`. -/

namespace Sys2Proof.Machine.Moves

variable {rt st : Bool} {a s : State}

/-! ### The Plan Selector between marks -/

@[simp] theorem takeCount (n : Nat) (d : EventDirection) (v : Nat) (h : Moves rt st a s) :
    Moves rt st a (Machine.takeCount n d v s) := by
  unfold Machine.takeCount
  split
  · split
    · exact h.trans (selector _ _ rfl rfl)
    · exact h.trans (selector _ _ rfl rfl)
    · exact h
  · exact h

/-! ### Identification and Health -/

@[simp] theorem leftIdentified (p : Pos) (h : Moves rt st a s) : Moves rt st a (Machine.leftIdentified p s) :=
  approachesLost _ (emptyAccumulator _ (linksDown _ (standingLost _ (coordUnseen _ (withdrawServiced _ h)))))

@[simp] theorem cutOffReport (p : Pos) (h : Moves rt st a s) : Moves rt st a (Machine.cutOffReport p s) :=
  approachesLost _ (linksDown _ (standingLost _ (coordOutOfService _ _ (withdrawServiced _ h))))

@[simp] theorem quietReport (p : Pos) (h : Moves rt st a s) : Moves rt st a (Machine.quietReport p s) :=
  linksDown _ (standingLost _ (coordOutOfService _ _ (withdrawServiced _ h)))

@[simp] theorem setHealth (p : Pos) (x : HealthState) (c : HealthCause) (h : Moves rt true a s) :
    Moves rt true a (Machine.setHealth p x c s) := raiseNotice _ (withHealth _ _ h)

@[simp] theorem cutOff (p : Pos) (c : HealthCause) (h : Moves rt true a s) : Moves rt true a (Machine.cutOff p c s) := by
  have h₁ := cutOffReport p (setHealth p .cutOff c h)
  unfold Machine.cutOff
  dsimp only
  split
  · exact withHealth _ _ h₁
  · exact h₁

@[simp] theorem testCutOff (p : Pos) (h : Moves rt true a s) : Moves rt true a (Machine.testCutOff p s) := by
  unfold Machine.testCutOff
  split
  · exact cutOff _ _ h
  · exact h

@[simp] theorem followScore (p : Pos) (h : Moves rt true a s) : Moves rt true a (Machine.followScore p s) := by
  unfold Machine.followScore
  dsimp only
  split
  · exact cutOff _ _ h
  · split
    · exact setHealth _ _ _ h
    · split
      · exact setHealth _ _ _ h
      · exact h

@[simp] theorem noteGood (h : Moves rt true a s) : Moves rt true a (Machine.noteGood s) := h.trans (health _ _ rfl)

@[simp] theorem takeOutcome (p : Pos) (b : Bool) (h : Moves rt true a s) : Moves rt true a (Machine.takeOutcome p b s) := by
  unfold Machine.takeOutcome
  refine followScore _ (withHealth _ _ ?_)
  split
  · exact noteGood h
  · exact h

@[simp] theorem offerIdentify (p : Pos) (h : Moves rt st a s) : Moves rt st a (Machine.offerIdentify p s) := by
  unfold Machine.offerIdentify
  dsimp only
  split
  · exact offerTo _ _ _ h
  · exact setRetry _ (offerTo _ _ _ h)

@[simp] theorem liftCutOff (p : Pos) (h : Moves rt true a s) : Moves rt true a (Machine.liftCutOff p s) := by
  unfold Machine.liftCutOff
  dsimp only
  split
  · exact setHealth _ _ _ h
  · exact h

@[simp] theorem beginIdentification (p : Pos) (h : Moves rt true a s) : Moves rt true a (Machine.beginIdentification p s) := by
  unfold Machine.beginIdentification
  split
  · exact h
  · extract_lets was src s₁ s₂ s₃ s₄ s₅ s₆
    have h₁ : Moves rt true a s₁ := h.trans (health _ _ rfl)
    have h₅ : Moves rt true a s₅ := withHealth _ _ (liftCutOff _ (withHealth _ _ (withIdent _ _ h₁)))
    refine offerIdentify _ ?_
    simp only [s₆]
    split
    · exact leftIdentified _ h₅
    · exact h₅

@[simp] theorem rollCall (h : Moves rt true a s) : Moves rt true a (Machine.rollCall s) :=
  forPositions (fun p _ ht => beginIdentification p ht) h

@[simp] theorem completeIdentified (p : Pos) (m : ResolvedMode) (f : Ident → Ident) (h : Moves rt true a s) :
    Moves rt true a (Machine.completeIdentified p m f s) := by
  unfold Machine.completeIdentified
  extract_lets s₁ src s₂ s₃ i
  have h₁ : Moves rt true a s₁ := withIdent _ _ h
  have h₂ : Moves rt true a s₂ := h₁.trans (line _ _ rfl rfl rfl (fun h => h))
  exact raiseNotice _ (testCutOff _ (coordIdentified _ _ h₂))

@[simp] theorem completeMismatch (p : Pos) (c : Nat) (r : Option Nat) (x : MismatchReason) (h : Moves rt st a s) :
    Moves rt st a (Machine.completeMismatch p c r x s) := raiseNotice _ (withIdent _ _ h)

@[simp] theorem identityReply (p : Pos) (r : IdentityFields) (h : Moves rt true a s) : Moves rt true a (Machine.identityReply p r s) := by
  unfold Machine.identityReply
  split
  · exact h
  · split
    · exact completeIdentified _ _ _ h
    · exact completeMismatch _ _ _ _ h

@[simp] theorem heartbeatIdentify (p : Pos) (h : Moves rt true a s) : Moves rt true a (Machine.heartbeatIdentify p s) := by
  unfold Machine.heartbeatIdentify
  split
  · exact h
  · split
    · exact completeIdentified _ _ _ h
    · exact completeMismatch _ _ _ _ h

@[simp] theorem identifyDropped (p : Pos) (h : Moves rt st a s) : Moves rt st a (Machine.identifyDropped p s) := by
  unfold Machine.identifyDropped
  dsimp only
  split
  · exact raiseNotice _ (withIdent _ _ h)
  · exact withIdent _ _ h

@[simp] theorem probeOutcome (p : Pos) (b : Bool) (h : Moves rt true a s) : Moves rt true a (Machine.probeOutcome p b s) := by
  unfold Machine.probeOutcome
  split
  · exact h
  · split
    · exact withHealth _ _ h
    · split
      · exact withHealth _ _ h
      · exact beginIdentification _ (withHealth _ _ (setHealth _ _ _ (withHealth _ _ h)))

@[simp] theorem offerProbe (p : Pos) (h : Moves rt true a s) : Moves rt true a (Machine.offerProbe p s) := by
  unfold Machine.offerProbe
  dsimp only
  split
  · exact withHealth _ _ h
  · exact offerTo _ _ _ (withHealth _ _ h)

@[simp] theorem offerQuiet (p : Pos) (h : Moves rt st a s) : Moves rt st a (Machine.offerQuiet p s) := by
  unfold Machine.offerQuiet
  dsimp only
  split
  · exact offerTo _ _ _ h
  · exact setRetry _ (offerTo _ _ _ h)

@[simp] theorem startQuiet (p : Pos) (h : Moves rt true a s) : Moves rt true a (Machine.startQuiet p s) := by
  unfold Machine.startQuiet
  split
  · exact quietReport _ (withHealth _ _ h)
  · exact h

@[simp] theorem endQuiet (p : Pos) (h : Moves rt true a s) : Moves rt true a (Machine.endQuiet p s) :=
  beginIdentification _ (withHealth _ _ h)

@[simp] theorem offerAgain (p : Pos) (h : Moves rt st a s) : Moves rt st a (Machine.offerAgain p s) := by
  unfold Machine.offerAgain
  dsimp only
  split
  · exact offerQuiet _ (withIdent _ _ h)
  · split
    · exact offerIdentify _ (withIdent _ _ h)
    · exact withIdent _ _ h

@[simp] theorem lineResetNotice (h : Moves rt true a s) : Moves rt true a (Machine.lineResetNotice s) :=
  raiseNotice _ (h.trans (health _ _ rfl))

/-- A break changes neither the queue nor the poll round. -/
theorem broken_kept (clc : LineController) (t : Time) :
    (clc.broken t).queue = clc.queue ∧ (clc.broken t).pollRound = clc.pollRound := by
  unfold LineController.broken
  split
  · exact ⟨rfl, rfl⟩
  · exact ⟨rfl, rfl⟩
  · split <;> exact ⟨rfl, rfl⟩

theorem pins_broken (s : State) (due : Vector (Option Time) 12) (t : Time) (hp : PinsFollowLine s) :
    PinsFollowLine { s with clc := ({ s.clc with due := due } : LineController).broken t } := by
  unfold LineController.broken
  dsimp only
  split
  · next hl => simpa [PinsFollowLine, hl] using hp
  · simp [PinsFollowLine, LineController.breaking]
  · next x hl =>
    split
    · next hx => simpa [PinsFollowLine, hl, hx] using hp
    · next hx => simpa [PinsFollowLine, hl, hx] using hp
    · simp [PinsFollowLine, LineController.breaking]

@[simp] theorem lineResetLine (h : Moves rt true a s) : Moves rt true a (Machine.lineResetLine s) := by
  have h₁ : Moves rt true a (s.withQueue []) := withQueue (QueueKept.sublist (List.nil_sublist _)) h
  unfold Machine.lineResetLine
  generalize s.withQueue [] = t at *
  refine flushPool (priorityLineReset (h₁.trans (line t _ rfl ?_ ?_ (pins_broken t _ _))))
  · exact (broken_kept _ _).1
  · exact (broken_kept _ _).2

@[simp] theorem forgetIdent (p : Pos) (h : Moves rt true a s) : Moves rt true a (Machine.forgetIdent p s) := by
  unfold Machine.forgetIdent
  dsimp only
  split
  · exact leftIdentified _ (withIdent _ _ h)
  · exact withIdent _ _ h

@[simp] theorem forgetAll (h : Moves rt true a s) : Moves rt true a (Machine.forgetAll s) := by
  have h₁ : Moves rt true a (Machine.forPositions Machine.forgetIdent s) := forPositions (fun p _ ht => forgetIdent p ht) h
  unfold Machine.forgetAll
  generalize Machine.forPositions Machine.forgetIdent s = t at *
  exact h₁.trans (health _ _ rfl)

@[simp] theorem lineReset (h : Moves rt true a s) : Moves rt true a (Machine.lineReset s) := by
  have h₁ := forgetAll (lineResetLine (lineResetNotice h))
  unfold Machine.lineReset
  dsimp only
  split
  · exact rollCall h₁
  · exact h₁

@[simp] theorem drained (h : Moves rt true a s) : Moves rt true a (Machine.drained s) := by
  refine forgetAll ((h.trans (line s { s.clc with drainFlag := false } rfl rfl rfl (fun h => h))).trans (draining _ false rfl))

@[simp] theorem reportIfDrained (h : Moves rt true a s) : Moves rt true a (Machine.reportIfDrained s) := by
  unfold Machine.reportIfDrained
  split
  · exact drained h
  · exact h

@[simp] theorem identifySetup (h : Moves rt true a s) : Moves rt true a (Machine.identifySetup s) :=
  forPositions (fun _ _ ht => withHealth _ _ (withIdent _ _ ht)) (withdraw _ h)

/-! ### The Event Router -/

@[simp] theorem takeFixed (p : Pos) (w : WellFormedRecord) (t : Time) (h : Moves true st a s) :
    Moves true st a (Machine.takeFixed p w t s) := by
  unfold Machine.takeFixed
  extract_lets src s₁
  have h₁ : Moves true st a s₁ := h.trans (counts _ _ rfl rfl)
  split
  · exact preemptCall _ _ h₁
  · exact preemptClear _ h₁
  · exact transitCall _ _ _ _ h₁
  · exact raiseNotice _ (unitFault _ h₁)
  · exact h₁

@[simp] theorem deliver (p : Pos) (i : RuleIx) (r : Rule) (w : WellFormedRecord) (t : Time) (h : Moves true st a s) :
    Moves true st a (Machine.deliver p i r w t s) := by
  unfold Machine.deliver
  extract_lets s₁ s₂ s₃
  have h₁ : Moves true st a s₁ := by
    simp only [s₁]
    split
    · exact takePlatoonRecord _ _ _ _ _ _ h
    · exact h
  have h₂ : Moves true st a s₂ := by
    simp only [s₂]
    split
    · exact takeSample _ _ _ _ _ h₁
    · exact h₁
  have h₃ : Moves true st a s₃ := by
    simp only [s₃]
    split
    · exact takeCount _ _ _ h₂
    · exact h₂
  split
  · exact raiseNotice _ h₃
  · exact h₃

@[simp] theorem countNoMatch (h : Moves true st a s) : Moves true st a (Machine.countNoMatch s) := h.trans (counts _ _ rfl rfl)

@[simp] theorem countHit (i : RuleIx) (h : Moves true st a s) : Moves true st a (Machine.countHit i s) := h.trans (counts _ _ rfl rfl)

@[simp] theorem routeRecord (p : Pos) (r : EventRecord) (h : Moves true st a s) : Moves true st a (Machine.routeRecord p r s) := by
  unfold Machine.routeRecord
  split
  · exact countNoMatch h
  · dsimp only
    split
    · exact takeFixed _ _ _ h
    · split
      · exact countNoMatch h
      · exact deliver _ _ _ _ _ (countHit _ h)

/-! ### The Corridor Line Controller -/

@[simp] theorem dropBeacon (h : Moves rt st a s) : Moves rt st a (Machine.dropBeacon s) := by
  unfold Machine.dropBeacon
  split
  · exact h
  · exact withdraw _ h

@[simp] theorem dropDue (h : Moves rt true a s) : Moves rt true a (Machine.dropDue s) := h.trans (line _ _ rfl rfl rfl (fun h => h))

@[simp] theorem followSilence (h : Moves rt true a s) : Moves rt true a (Machine.followSilence s) := h.trans (health _ _ rfl)

theorem begin (x : Exchange) (hx : x.phase = .sending) (h : Moves rt true a s) : Moves rt true a { s with clc := s.clc.begin x } :=
  h.trans (line _ _ rfl rfl rfl (fun _ => by simp [PinsFollowLine, LineController.begin, hx]))

theorem beginEntry (e : QueueEntry) (rest : List QueueEntry) (hq : s.clc.queue = e :: rest) (h : Moves rt true a s) :
    Moves rt true a (Machine.beginEntry e rest s) := by
  refine begin (s := s.withQueue ({ e with onLine := true, attempts := e.attempts + 1 } :: rest)) _ rfl (withQueue ?_ h)
  rw [hq]
  exact ⟨fun h => by simpa using h, fun h => by
    rw [List.pairwise_cons] at h ⊢
    exact h⟩

@[simp] theorem beginPoll (p : Pos) (h : Moves rt true a s) : Moves rt true a (Machine.beginPoll p s) := by
  unfold Machine.beginPoll
  extract_lets src s₁
  have h₁ : Moves rt true a s₁ := h.trans (line _ _ rfl rfl rfl (fun h => h))
  split
  · exact h₁
  · exact begin _ rfl h₁

theorem choose_entry {e : QueueEntry} {rest : List QueueEntry} (h : choose s = .entry e rest) : s.clc.queue = e :: rest := by
  unfold choose at h
  split at h
  · next hq ho =>
    split at h
    · cases h
      exact hq
    · cases h
  · next hq ho =>
    cases h
    exact hq
  · cases h
  · split at h <;> cases h

@[simp] theorem arbiterRun (h : Moves rt true a s) : Moves rt true a (Machine.arbiterRun s) := by
  unfold Machine.arbiterRun
  split
  · split
    · next hc => exact beginEntry _ _ (choose_entry hc) h
    · exact beginPoll _ h
    · exact h
  · exact h

@[simp] theorem settleLine (h : Moves rt true a s) : Moves rt true a (Machine.settleLine s) :=
  arbiterRun (followSilence (dropDue (dropBeacon h)))

@[simp] theorem finish (h : Moves rt true a s) : Moves rt true a (Machine.finish s) := transmitterRun (settleLine h)

theorem released (h : Moves rt true a s) : Moves rt true a { s with clc := s.clc.released } :=
  h.trans (line _ _ rfl rfl rfl (fun _ => by simp [PinsFollowLine, LineController.released]))

@[simp] theorem takeOffLine (h : Moves rt st a s) : Moves rt st a (Machine.takeOffLine s) :=
  withQueue (QueueKept.sublist List.filter_sublist) h

theorem sent (x : Exchange) (ph : Phase) (h₁ : ph ≠ .sending) (h₂ : ph ≠ .abandoned) (h : Moves rt true a s) :
    Moves rt true a { s with clc := s.clc.sent x ph } :=
  h.trans (line _ _ rfl rfl rfl (fun _ => by cases ph <;> simp_all [PinsFollowLine, LineController.sent]))

theorem breaking (h : Moves rt true a s) : Moves rt true a { s with clc := s.clc.breaking s.now } :=
  h.trans (line _ _ rfl rfl rfl (fun _ => by simp [PinsFollowLine, LineController.breaking]))

@[simp] theorem frameSent (x : Exchange) (h : Moves rt true a s) : Moves rt true a (Machine.frameSent x s) := by
  unfold Machine.frameSent
  split
  · exact sent _ _ (by decide) (by decide) h
  · exact takeOffLine (sent _ _ (by decide) (by decide) h)
  · exact breaking h
  · exact h

@[simp] theorem broadcastEnd (x : Exchange) (h : Moves rt true a s) : Moves rt true a (Machine.broadcastEnd x s) := by
  unfold Machine.broadcastEnd
  split
  · exact finish (takeOffLine (released h))
  · exact finish (released h)
  · exact h

@[simp] theorem dropped (p : Pos) (c : LineCommand) (r : Option RouteRef) (h : Moves rt true a s) :
    Moves rt true a (Machine.dropped p c r s) := by
  unfold Machine.dropped
  split
  · exact identifyDropped _ h
  · exact startQuiet _ h
  · exact clearFailed _ _ h
  · exact handBack _ _ h
  · exact h

@[simp] theorem afterFailure (p : Pos) (h : Moves rt true a s) : Moves rt true a (Machine.afterFailure p s) := by
  unfold Machine.afterFailure
  split
  · exact h
  · split
    · exact withQueue (QueueKept.map _ (fun _ => rfl)) h
    · exact dropped _ _ _ (takeOffLine h)

@[simp] theorem endBad (x : Exchange) (h : Moves rt true a s) : Moves rt true a (Machine.endBad x s) := by
  unfold Machine.endBad
  extract_lets probe s₁
  have h₁ : Moves rt true a s₁ := released h
  split
  · exact takeOffLine h₁
  · extract_lets s₂ s₃
    refine afterFailure _ ?_
    simp only [s₃]
    split
    · exact probeOutcome _ _ (takeOutcome _ _ h₁)
    · exact takeOutcome _ _ h₁

theorem endGood (x : Exchange) (p : Pos) (f : Bool → State → State) (hf : ∀ b t, Moves rt true a t → Moves rt true a (f b t))
    (h : Moves rt true a s) : Moves rt true a (Machine.endGood x p f s) := by
  unfold Machine.endGood
  extract_lets stood probe s₁ s₂
  have h₁ : Moves rt true a s₁ := takeOutcome _ _ (takeOffLine (released h))
  refine hf _ _ ?_
  simp only [s₂]
  split
  · exact probeOutcome _ _ h₁
  · exact h₁

@[simp] theorem takeRecords (p : Pos) (rs : List EventRecord) (h : Moves true st a s) :
    Moves true st a (Machine.takeRecords p rs s).1 := by
  have hf : ∀ (l : List EventRecord) (acc : State × Bool), Moves true st a acc.1 → Moves true st a (l.foldl (takeRecord p) acc).1 := by
    intro l
    induction l with
    | nil => exact fun _ ht => ht
    | cons x l ih => exact fun _ ht => ih _ (routeRecord _ _ ht)
  unfold Machine.takeRecords
  extract_lets new r
  have h₁ : Moves true st a r.1 := hf _ _ h
  split
  · exact h₁
  · exact h₁.trans (accepted _ _)

@[simp] theorem setSummary (p : Pos) (f : Option StatusFigures) (h : Moves rt true a s) : Moves rt true a (Machine.setSummary p f s) :=
  h.trans (line _ _ rfl rfl rfl (fun h => h))

@[simp] theorem takeStatus (p : Pos) (r : StatusFields) (h : Moves true st a s) : Moves true st a (Machine.takeStatus p r s) := by
  unfold Machine.takeStatus
  extract_lets s₁ r s₂
  have h₁ : Moves true st a s₁ := by
    simp only [s₁]
    split
    · exact fieldLocalSet _ h
    · exact fieldLocalClear _ h
  have h₂ : Moves true st a s₂ := judgePreempting _ _ (takeRecords _ _ h₁)
  split
  · exact measure _ _ _ h₂
  · exact h₂

@[simp] theorem statusContents (p : Pos) (w : Work) (r : StatusFields) (x : SignalStage) (h : Moves true true a s) :
    Moves true true a (Machine.statusContents p w r x s) := by
  unfold Machine.statusContents
  dsimp only
  split
  · exact takeStatus _ _ (setSummary _ _ h)
  · exact setSummary _ _ h

@[simp] theorem acked (p : Pos) (c : LineCommand) (r : Option RouteRef) (h : Moves rt true a s) : Moves rt true a (Machine.acked p c r s) := by
  unfold Machine.acked
  split
  · exact timingAcked _ _ h
  · exact startQuiet _ h
  · exact clearAcked _ _ h
  · exact handBack _ _ h
  · exact h

@[simp] theorem timingNak (p : Pos) (t : TimingSet) (r : NakReason) (h : Moves rt st a s) : Moves rt st a (Machine.timingNak p t r s) := by
  unfold Machine.timingNak
  split
  · exact callLearned _ _ h
  · exact fieldLocalSet _ h
  · exact timingRefused _ _ _ h

@[simp] theorem naked (p : Pos) (c : LineCommand) (r : Option RouteRef) (x : NakReason) (h : Moves rt true a s) :
    Moves rt true a (Machine.naked p c r x s) := by
  unfold Machine.naked
  split
  · exact timingNak _ _ _ h
  · exact startQuiet _ h
  · exact clearFailed _ _ h
  · exact handBack _ _ h
  · exact h

@[simp] theorem heartbeatContents (p : Pos) (w : Work) (b : Bool) (h : Moves rt true a s) :
    Moves rt true a (Machine.heartbeatContents p w b s) := by
  unfold Machine.heartbeatContents
  split
  · exact setSummary _ _ h
  · exact setSummary _ _ h
  · split
    · exact heartbeatIdentify _ h
    · exact h
  · exact acked _ _ _ h

theorem garbled (x : Exchange) (hl : s.clc.line = .exchange x) (hx : x.phase = .window) (h : Moves rt true a s) :
    Moves rt true a (Machine.garbled x s) :=
  h.trans (line _ _ rfl rfl rfl (fun hp => by simpa [PinsFollowLine, hl, hx] using hp))

theorem onReply (k : ReplyKind) (n : Nat) (f : Option Contents)
    (hf : ∀ g, f = some g → ∀ x p b t, Moves rt true a t → Moves rt true a (g x p b t)) (h : Moves rt true a s) : Moves rt true a (Machine.onReply k n f s) := by
  unfold Machine.onReply
  split
  · next hl =>
    split
    · next hx _ =>
      split
      · split
        · next g => exact finish (endGood _ _ _ (fun b t ht => hf g rfl _ _ b t ht) h)
        · exact garbled _ hl hx h
      · exact garbled _ hl hx h
    · exact h
  · exact h

@[simp] theorem roundExpiry (h : Moves rt true a s) : Moves rt true a (Machine.roundExpiry s) := h.trans (line _ _ rfl rfl rfl (fun h => h))

/-! ### Timed events, the mark apart -/

@[simp] theorem beaconRoundClaim (h : Moves rt st a s) :
    Moves rt st a (if beaconCondition s then Machine.claimBeacon s else s) := by
  split
  · exact claimBeacon h
  · exact h

theorem whenDue (due : State → Bool) {f : State → State} (hf : Moves rt true a s → Moves rt true a (f s)) (h : Moves rt true a s) :
    Moves rt true a (Machine.whenDue due f s) := by
  unfold Machine.whenDue
  split
  · exact finish (hf h)
  · exact h

@[simp] theorem commandPointEvent (p : Pos) (h : Moves rt true a s) : Moves rt true a (Machine.commandPointEvent p s) :=
  whenDue _ (handleCommandPoint p) h

@[simp] theorem settleEvent (p : Pos) (h : Moves rt true a s) : Moves rt true a (Machine.settleEvent p s) :=
  whenDue _ (fun h => withCoord _ _ h) h

@[simp] theorem windowEvent (n : Nat) (h : Moves rt true a s) : Moves rt true a (Machine.windowEvent n s) := by
  unfold Machine.windowEvent
  split
  · exact h
  · next hl =>
    refine finish (losePlatoon _ _ ?_ h)
    have := List.find?_some hl
    simp only [List.any_eq_true, Bool.and_eq_true] at this ⊢
    obtain ⟨x, hx, hn, -⟩ := this
    exact ⟨x, hx, hn⟩

@[simp] theorem approachEvent (p : Pos) (x : Approach) (h : Moves rt true a s) : Moves rt true a (Machine.approachEvent p x s) :=
  whenDue _ (expireSilence p x) h

@[simp] theorem routeEvent (p : Pos) (h : Moves rt true a s) : Moves rt true a (Machine.routeEvent p s) := by
  unfold Machine.routeEvent
  split
  · exact h
  · split
    · exact finish (dropRoute _ _ h)
    · exact h

@[simp] theorem retryEvent (p : Pos) (h : Moves rt true a s) : Moves rt true a (Machine.retryEvent p s) := whenDue _ (offerAgain p) h

@[simp] theorem reprobeEvent (p : Pos) (h : Moves rt true a s) : Moves rt true a (Machine.reprobeEvent p s) :=
  whenDue _ (beginIdentification p) h

@[simp] theorem probeEvent (p : Pos) (h : Moves rt true a s) : Moves rt true a (Machine.probeEvent p s) := whenDue _ (offerProbe p) h

@[simp] theorem quietEvent (p : Pos) (h : Moves rt true a s) : Moves rt true a (Machine.quietEvent p s) := whenDue _ (endQuiet p) h

@[simp] theorem silenceEvent (h : Moves rt true a s) : Moves rt true a (Machine.silenceEvent s) := whenDue _ lineReset h

@[simp] theorem breakEvent (h : Moves rt true a s) : Moves rt true a (Machine.breakEvent s) := by
  unfold Machine.breakEvent
  split
  · split
    · exact finish (reportIfDrained (released h))
    · exact h
  · exact h

@[simp] theorem roundEvent (h : Moves rt true a s) : Moves rt true a (Machine.roundEvent s) := whenDue _ roundExpiry h

@[simp] theorem drainedEvent (h : Moves rt true a s) : Moves rt true a (Machine.drainedEvent s) := whenDue _ drained h

end Sys2Proof.Machine.Moves
end

