-- ==== Sys2Proof/Laws/Kept.lean ====
section
/-! SUPPORT. What every run of the changes of `Moves` keeps: the stores of `LeavesStores`, and the forms of Safety.lean. -/

namespace Sys2Proof.Machine

/-! ### The pool -/

theorem mem_links (l : Link) : l ∈ links := by
  obtain ⟨k, d⟩ := l
  have hk : k ∈ ([0, 1, 2, 3, 4, 5, 6, 7, 8, 9, 10] : List Segment) := by
    revert k
    decide
  cases d <;> simp only [links, List.mem_append, List.mem_map]
  · exact Or.inl ⟨k, hk, rfl⟩
  · exact Or.inr ⟨k, hk, rfl⟩

theorem links_nodup : links.Nodup := by decide

theorem sum_map_ite {l : Link} {ls : List Link} (g : Link → Nat) (n : Nat) (hd : ls.Nodup) (hm : l ∈ ls) :
    (ls.map (fun m => if l = m then n else g m)).sum + g l = (ls.map g).sum + n := by
  induction ls with
  | nil => cases hm
  | cons m ls ih =>
    rw [List.nodup_cons] at hd
    simp only [List.map_cons, List.sum_cons]
    rcases List.mem_cons.1 hm with rfl | hm
    · have : ls.map (fun m => if l = m then n else g m) = ls.map g :=
        List.map_congr_left (fun x hx => if_neg (fun (h : l = x) => hd.1 (by rw [h]; exact hx)))
      rw [if_pos rfl, this]
      omega
    · have hne : l ≠ m := fun h => hd.1 (by rw [← h]; exact hm)
      have := ih hd.2 hm
      rw [if_neg hne]
      omega

theorem heldPlatoons_withLink (s : State) (l : Link) (f : LinkRecord → LinkRecord) :
    heldPlatoons (s.withLink l f) + (s.link l).queue.length = heldPlatoons s + (f (s.link l)).queue.length := by
  have key := sum_map_ite (fun m => (s.link m).queue.length) (f (s.link l)).queue.length links_nodup (mem_links l)
  have h : ∀ m, ((s.withLink l f).link m).queue.length =
      if l = m then (f (s.link l)).queue.length else (s.link m).queue.length := by
    intro m
    rw [State.withLink_link]
    split <;> rfl
  unfold heldPlatoons
  simp only [h]
  exact key

theorem heldPlatoons_congr {s t : State} (hi : t.pt.inboundLinks = s.pt.inboundLinks)
    (ho : t.pt.outboundLinks = s.pt.outboundLinks) : heldPlatoons t = heldPlatoons s := by
  unfold heldPlatoons State.link
  rw [hi, ho]

theorem freeRecords_free (n : Nat) (s : State) : (freeRecords n s).pt.freeCount = s.pt.freeCount + n := by
  unfold freeRecords Tracker.freed
  split <;> simp [*]

theorem heldPlatoons_freeRecords (n : Nat) (s : State) : heldPlatoons (freeRecords n s) = heldPlatoons s := by
  apply heldPlatoons_congr <;> (unfold freeRecords Tracker.freed; split <;> rfl)

theorem insertPlatoon_length (x : Platoon) (q : List Platoon) : (insertPlatoon x q).length = q.length + 1 := by
  induction q with
  | nil => rfl
  | cons y q ih => simp only [insertPlatoon]; split <;> simp [ih]

theorem PoolWhole.release {s : State} {l : Link} {f : LinkRecord → LinkRecord} {n : Nat}
    (h : (f (s.link l)).queue.length + n = (s.link l).queue.length) (hs : PoolWhole s) :
    PoolWhole (freeRecords n (s.withLink l f)) := by
  have := heldPlatoons_withLink s l f
  unfold PoolWhole at hs ⊢
  rw [freeRecords_free, heldPlatoons_freeRecords, State.withLink_free]
  omega

theorem holdPlatoon_free (l : Link) (x : Platoon) (s : State) :
    (holdPlatoon l x s).pt.freeCount = s.pt.freeCount - 1 := by
  unfold holdPlatoon
  extract_lets n s₁ src
  exact congrArg (· - 1) (State.withLink_free _ _ _)

theorem heldPlatoons_hold (l : Link) (x : Platoon) (s : State) :
    heldPlatoons (holdPlatoon l x s) = heldPlatoons s + 1 := by
  unfold holdPlatoon
  extract_lets n s₁ src
  have h₁ := heldPlatoons_withLink s l (fun r => { r with queue := insertPlatoon { x with number := n } r.queue })
  rw [insertPlatoon_length] at h₁
  have h₂ : heldPlatoons s₁ = heldPlatoons s + 1 := by
    simp only [s₁]
    omega
  exact (heldPlatoons_congr (s := s₁) rfl rfl).trans h₂

theorem PoolWhole.hold {s : State} {l : Link} {x : Platoon} (h : s.pt.freeCount ≠ 0) (hs : PoolWhole s) :
    PoolWhole (holdPlatoon l x s) := by
  unfold PoolWhole at hs ⊢
  rw [holdPlatoon_free, heldPlatoons_hold]
  omega

theorem PoolWhole.congr {s t : State} (hs : PoolWhole s) (hi : t.pt.inboundLinks = s.pt.inboundLinks)
    (ho : t.pt.outboundLinks = s.pt.outboundLinks) (hf : t.pt.freeCount = s.pt.freeCount) : PoolWhole t := by
  unfold PoolWhole at hs ⊢
  rw [heldPlatoons_congr hi ho, hf]
  exact hs

theorem emptied_link (ls : List Link) (s : State) (m : Link) :
    ((ls.foldl (fun s l => s.withLink l (fun r => { r with queue := [] })) s).link m).queue =
      if m ∈ ls then [] else (s.link m).queue := by
  induction ls generalizing s with
  | nil => simp
  | cons l ls ih =>
    rw [List.foldl_cons, ih]
    simp only [State.withLink_link, List.mem_cons]
    by_cases hm : m ∈ ls
    · simp [hm]
    · by_cases hl : l = m
      · simp [hl]
      · have : m ≠ l := fun h => hl h.symm
        simp [hm, hl, this]

theorem link_congr {s t : State} (hi : t.pt.inboundLinks = s.pt.inboundLinks)
    (ho : t.pt.outboundLinks = s.pt.outboundLinks) (m : Link) : t.link m = s.link m := by
  unfold State.link
  rw [hi, ho]

theorem flushPool_link (s : State) (m : Link) : ((flushPool s).link m).queue = [] := by
  have h := emptied_link links s m
  simp only [mem_links, if_true] at h
  unfold flushPool emptyAccumulators
  generalize links.foldl (fun s l => s.withLink l (fun r => { r with queue := [] })) s = t at *
  dsimp only
  exact (congrArg LinkRecord.queue (link_congr (s := t) rfl rfl m)).trans h

theorem PoolWhole.flush (s : State) : PoolWhole (flushPool s) := by
  have h : heldPlatoons (flushPool s) = 0 := by
    unfold heldPlatoons
    simp [flushPool_link]
  unfold PoolWhole
  rw [h]
  rfl

theorem withLink_eq (s : State) (l : Link) (f : LinkRecord → LinkRecord) :
    ∃ pt : Tracker, s.withLink l f = { s with pt := pt } ∧ pt.earlySlack = s.pt.earlySlack ∧ pt.lateSlack = s.pt.lateSlack ∧
      pt.minimumSize = s.pt.minimumSize := by
  obtain ⟨k, d⟩ := l
  cases d
  · exact ⟨_, rfl, rfl, rfl, rfl⟩
  · exact ⟨_, rfl, rfl, rfl, rfl⟩

theorem flushPool_eq (s : State) : ∃ pt : Tracker, flushPool s = { s with pt := pt } := by
  have : ∀ (ls : List Link) (t : State), (∃ pt : Tracker, t = { s with pt := pt }) →
      ∃ pt : Tracker, ls.foldl (fun s l => s.withLink l (fun r => { r with queue := [] })) t = { s with pt := pt } := by
    intro ls
    induction ls with
    | nil => exact fun t h => h
    | cons l ls ih =>
      rintro t ⟨pt, rfl⟩
      obtain ⟨pt', h, -⟩ := withLink_eq { s with pt := pt } l (fun r => { r with queue := [] })
      exact ih _ ⟨pt', h⟩
  obtain ⟨pt, h⟩ := this links s ⟨s.pt, rfl⟩
  unfold flushPool emptyAccumulators
  rw [h]
  exact ⟨_, rfl⟩

/-! ### Stores -/

theorem LeavesStores.rfl' (s : State) : LeavesStores s s := by constructor <;> rfl

theorem LeavesStores.trans {a b c : State} (h : LeavesStores a b) (k : LeavesStores b c) : LeavesStores a c := by
  constructor
  · exact k.pending.trans h.pending
  · exact k.ctb.trans h.ctb
  · exact k.pl.trans h.pl
  · exact k.config.trans h.config
  · exact k.rules.trans h.rules
  · exact k.image.trans h.image
  · exact k.table.trans h.table
  · exact k.limits.trans h.limits
  · exact k.policy.trans h.policy
  · exact k.arterialLimits.trans h.arterialLimits
  · exact k.sideLimits.trans h.sideLimits
  · exact k.earlySlack.trans h.earlySlack
  · exact k.lateSlack.trans h.lateSlack
  · exact k.minimumSize.trans h.minimumSize
  · exact k.pollRound.trans h.pollRound
  · exact k.sli.trans h.sli

/-- A change of the Platoon Tracker alone that keeps its settings. -/
theorem LeavesStores.ofTracker (s : State) (pt : Tracker) (he : pt.earlySlack = s.pt.earlySlack)
    (hl : pt.lateSlack = s.pt.lateSlack) (hm : pt.minimumSize = s.pt.minimumSize) : LeavesStores s { s with pt := pt } := by
  constructor <;> first | rfl | assumption

theorem LeavesStores.withLink (s : State) (l : Link) (f : LinkRecord → LinkRecord) : LeavesStores s (s.withLink l f) := by
  obtain ⟨pt, h, he, hl, hm⟩ := withLink_eq s l f
  rw [h]
  exact ofTracker s pt he hl hm

theorem LeavesStores.freeRecords (s : State) (n : Nat) : LeavesStores s (freeRecords n s) := by
  apply ofTracker <;> (unfold Tracker.freed; split <;> rfl)

theorem LeavesStores.emptied (ls : List Link) (s : State) :
    LeavesStores s (ls.foldl (fun s l => s.withLink l (fun r => { r with queue := [] })) s) := by
  induction ls generalizing s with
  | nil => exact rfl' s
  | cons l ls ih => exact (withLink s l _).trans (ih _)

theorem LeavesStores.flushPool (s : State) : LeavesStores s (flushPool s) := by
  refine (emptied links s).trans ?_
  unfold Machine.flushPool
  dsimp only
  generalize links.foldl (fun s l => s.withLink l (fun r => { r with queue := [] })) s = t
  exact (ofTracker t { t.pt with freeCount := Config.poolSize, poolEmptyRaised := false } rfl rfl rfl).trans
    (ofTracker _ _ rfl rfl rfl)

theorem offered_sli (sli : Supervisory) (n : Nat) (b : NoticeBody) :
    ({ sli.offered n b with draining := false, sending := none, notices := [], overrun := 0 } : Supervisory) =
      { sli with draining := false, sending := none, notices := [], overrun := 0 } := by
  unfold Supervisory.offered
  split
  · rfl
  · split <;> rfl

theorem transmit_sli (sli : Supervisory) (n : Nat) :
    ({ sli.transmit n with draining := false, sending := none, notices := [], overrun := 0 } : Supervisory) =
      { sli with draining := false, sending := none, notices := [], overrun := 0 } := by
  unfold Supervisory.transmit
  split
  · rfl
  · split
    · rfl
    · split
      · rfl
      · split
        · rfl
        · split
          · rfl
          · split <;> rfl

/-- A handling leaves the stores as they were. -/
theorem Moves.leavesStores {rt st : Bool} {s t : State} (h : Moves rt st s t) : LeavesStores s t := by
  induction h with
  | refl s => exact .rfl' s
  | trans _ _ h k => exact h.trans k
  | coord s v => constructor <;> rfl
  | link s l f h => exact .withLink s l f
  | release s l f n h => exact (LeavesStores.withLink s l f).trans (.freeRecords _ n)
  | hold s l x h =>
    unfold Machine.holdPlatoon
    extract_lets n s₁ src
    exact (LeavesStores.withLink s l _).trans (.ofTracker s₁ _ rfl rfl rfl)
  | flush s => exact .flushPool s
  | tracker s pt h => exact .ofTracker s pt h.early h.late h.size
  | watch s qw h h' => constructor <;> first | rfl | assumption
  | priority s pm h h' => constructor <;> first | rfl | assumption
  | selector s ps h h' => constructor <;> first | rfl | assumption
  | queue s q h => constructor <;> rfl
  | accepted s v => constructor <;> rfl
  | ident s v => constructor <;> rfl
  | line s clc hst h h' pins => constructor <;> first | rfl | assumption
  | health s ih hst => constructor <;> rfl
  | counts s er hr h => constructor <;> first | rfl | assumption
  | notice s body => constructor <;> first | rfl | exact offered_sli _ _ _
  | transmit s => constructor <;> first | rfl | exact transmit_sli _ _
  | draining s b hst => constructor <;> rfl

/-- A handling that routes no record leaves the Event Router as it was. -/
theorem Moves.router {st : Bool} {s t : State} (h : Moves false st s t) : t.er = s.er := by
  induction h with
  | refl s => rfl
  | trans _ _ h k => exact k.trans h
  | link s l f h => simp
  | release s l f n h => simp [freeRecords]
  | hold s l x h => simp [Machine.holdPlatoon]
  | flush s =>
    obtain ⟨pt, h⟩ := flushPool_eq s
    rw [h]
  | counts s er hr h => exact absurd hr (by decide)
  | _ => rfl

/-- What a handling that settles neither an outcome nor the line leaves as it was: fault scores and deadlines of
Identification and Health, and all of the line but its queue and the accepted-through sequences. -/
structure LeavesOutcomes (s t : State) : Prop where
  health : t.ih.health = s.ih.health
  wasAbsent : t.ih.wasAbsent = s.ih.wasAbsent
  silence : t.ih.silence = s.ih.silence
  lineResets : t.ih.lineResets = s.ih.lineResets
  lastGood : t.ih.lastGood = s.ih.lastGood
  line : t.clc.line = s.clc.line
  driverEnable : t.clc.driverEnable = s.clc.driverEnable
  txLevel : t.clc.txLevel = s.clc.txLevel
  drainFlag : t.clc.drainFlag = s.clc.drainFlag
  roundDeadline : t.clc.roundDeadline = s.clc.roundDeadline
  due : t.clc.due = s.clc.due
  summaries : t.clc.summaries = s.clc.summaries
  draining : t.sli.draining = s.sli.draining

theorem LeavesOutcomes.rfl' (s : State) : LeavesOutcomes s s := by constructor <;> rfl

theorem LeavesOutcomes.trans {a b c : State} (h : LeavesOutcomes a b) (k : LeavesOutcomes b c) : LeavesOutcomes a c := by
  constructor
  · exact k.health.trans h.health
  · exact k.wasAbsent.trans h.wasAbsent
  · exact k.silence.trans h.silence
  · exact k.lineResets.trans h.lineResets
  · exact k.lastGood.trans h.lastGood
  · exact k.line.trans h.line
  · exact k.driverEnable.trans h.driverEnable
  · exact k.txLevel.trans h.txLevel
  · exact k.drainFlag.trans h.drainFlag
  · exact k.roundDeadline.trans h.roundDeadline
  · exact k.due.trans h.due
  · exact k.summaries.trans h.summaries
  · exact k.draining.trans h.draining

theorem LeavesOutcomes.ofTracker (s : State) (pt : Tracker) : LeavesOutcomes s { s with pt := pt } := by constructor <;> rfl

theorem LeavesOutcomes.withLink (s : State) (l : Link) (f : LinkRecord → LinkRecord) : LeavesOutcomes s (s.withLink l f) := by
  obtain ⟨pt, h, -⟩ := withLink_eq s l f
  rw [h]
  exact .ofTracker s pt

/-- A handling that settles no outcome leaves them as they were. -/
theorem Moves.leavesOutcomes {rt : Bool} {s t : State} (h : Moves rt false s t) : LeavesOutcomes s t := by
  induction h with
  | refl s => exact .rfl' s
  | trans _ _ h k => exact h.trans k
  | link s l f h =>
    exact .withLink s l f
  | release s l f n h =>
    exact (LeavesOutcomes.withLink s l f).trans (.ofTracker _ _)
  | hold s l x h =>
    unfold Machine.holdPlatoon
    extract_lets n s₁ src
    exact (LeavesOutcomes.withLink s l _).trans (.ofTracker s₁ _)
  | flush s =>
    obtain ⟨pt, h⟩ := flushPool_eq s
    rw [h]
    exact .ofTracker s pt
  | line s clc hst h h' pins => exact absurd hst (by decide)
  | health s ih hst => exact absurd hst (by decide)
  | draining s b hst => exact absurd hst (by decide)
  | notice s body =>
    constructor <;> try rfl
    unfold Machine.raiseNotice Supervisory.offered
    dsimp only
    repeat' (first | rfl | split)
  | transmit s =>
    constructor <;> try rfl
    unfold Machine.transmitterRun Supervisory.transmit
    dsimp only
    repeat' (first | rfl | split)
  | _ => constructor <;> rfl

/-! ### Forms -/

theorem offered_notices (sli : Supervisory) (n : Nat) (b : NoticeBody) (h : sli.notices.length ≤ Config.noticeCapacity) :
    (sli.offered n b).notices.length ≤ Config.noticeCapacity ∧ (sli.offered n b).shortAnswers = sli.shortAnswers := by
  unfold Supervisory.offered
  split
  · exact ⟨h, rfl⟩
  · split
    · next hl => exact ⟨by simpa using hl, rfl⟩
    · exact ⟨h, rfl⟩

theorem transmit_notices (sli : Supervisory) (n : Nat) (h : sli.notices.length ≤ Config.noticeCapacity) :
    (sli.transmit n).notices.length ≤ Config.noticeCapacity ∧ (sli.transmit n).shortAnswers = sli.shortAnswers := by
  unfold Supervisory.transmit
  split
  · exact ⟨h, rfl⟩
  · split
    · exact ⟨h, rfl⟩
    · split
      · exact ⟨h, rfl⟩
      · split
        · exact ⟨h, rfl⟩
        · split
          · exact ⟨h, rfl⟩
          · next hn =>
            rw [hn, List.length_cons] at h
            split
            · exact ⟨by simpa using h, rfl⟩
            · exact ⟨by simp only; omega, rfl⟩

theorem Bounded.congr {s t : State} (hs : Bounded s) (hq : t.clc.queue = s.clc.queue) (hr : t.pm.routes = s.pm.routes)
    (hl : t.sli = s.sli) : Bounded t :=
  ⟨hl ▸ hs.notices, hl ▸ hs.shortAnswers, hq ▸ hs.queue, hr ▸ hs.routes⟩

theorem Bounded.withLink {s : State} (l : Link) (f : LinkRecord → LinkRecord) (hs : Bounded s) : Bounded (s.withLink l f) := by
  apply hs.congr <;> simp

/-- A handling keeps every store within its capacity. -/
theorem Moves.bounded {rt st : Bool} {s t : State} (h : Moves rt st s t) (hs : Bounded s) : Bounded t := by
  induction h with
  | refl s => exact hs
  | trans _ _ h k => exact k (h hs)
  | coord s v => exact hs.congr rfl rfl rfl
  | link s l f h => exact hs.withLink l f
  | release s l f n h => exact (hs.withLink l f).congr rfl rfl rfl
  | hold s l x h => exact (hs.withLink l _).congr rfl rfl rfl
  | flush s =>
    obtain ⟨pt, h⟩ := flushPool_eq s
    rw [h]
    exact hs.congr rfl rfl rfl
  | tracker s pt h => exact hs.congr rfl rfl rfl
  | watch s qw h h' => exact hs.congr rfl rfl rfl
  | priority s pm h h' => exact ⟨hs.notices, hs.shortAnswers, hs.queue, h' hs.routes⟩
  | selector s ps h h' => exact hs.congr rfl rfl rfl
  | queue s q h => exact ⟨hs.notices, hs.shortAnswers, h.short hs.queue, hs.routes⟩
  | accepted s v => exact hs.congr rfl rfl rfl
  | ident s v => exact hs.congr rfl rfl rfl
  | line s clc hst h h' pins => exact hs.congr h rfl rfl
  | health s ih hst => exact hs.congr rfl rfl rfl
  | counts s er hr h => exact hs.congr rfl rfl rfl
  | notice s body =>
    have := offered_notices s.sli s.ctb.timeOfDay body hs.notices
    exact ⟨this.1, this.2 ▸ hs.shortAnswers, hs.queue, hs.routes⟩
  | transmit s =>
    have := transmit_notices s.sli s.ctb.timeOfDay hs.notices
    exact ⟨this.1, this.2 ▸ hs.shortAnswers, hs.queue, hs.routes⟩
  | draining s b hst => exact ⟨hs.notices, hs.shortAnswers, hs.queue, hs.routes⟩

/-- A handling keeps the queue in order of class. -/
theorem Moves.queueInOrder {rt st : Bool} {s t : State} (h : Moves rt st s t) (hs : QueueInOrder s) : QueueInOrder t := by
  induction h with
  | refl s => exact hs
  | trans _ _ h k => exact k (h hs)
  | link s l f h => simpa [QueueInOrder] using hs
  | release s l f n h => simpa [QueueInOrder, freeRecords] using hs
  | hold s l x h => simpa [QueueInOrder, Machine.holdPlatoon] using hs
  | flush s =>
    obtain ⟨pt, h⟩ := flushPool_eq s
    rw [h]
    exact hs
  | queue s q h => exact h.ordered hs
  | line s clc hst h h' pins =>
    unfold QueueInOrder at hs ⊢
    dsimp only
    rw [h]
    exact hs
  | _ => exact hs

/-- A handling keeps the pool whole. -/
theorem Moves.poolWhole {rt st : Bool} {s t : State} (h : Moves rt st s t) (hs : PoolWhole s) : PoolWhole t := by
  induction h with
  | refl s => exact hs
  | trans _ _ h k => exact k (h hs)
  | link s l f h =>
    have := heldPlatoons_withLink s l f
    unfold PoolWhole at hs ⊢
    rw [State.withLink_free]
    rw [h] at this
    omega
  | release s l f n h => exact hs.release h
  | hold s l x h => exact hs.hold h
  | flush s => exact .flush s
  | tracker s pt h => exact hs.congr h.inbound h.outbound h.free
  | _ => exact hs.congr rfl rfl rfl

/-- A handling keeps the pins with the line. -/
theorem Moves.pinsFollowLine {rt st : Bool} {s t : State} (h : Moves rt st s t) (hs : PinsFollowLine s) : PinsFollowLine t := by
  induction h with
  | refl s => exact hs
  | trans _ _ h k => exact k (h hs)
  | link s l f h => simpa [PinsFollowLine] using hs
  | release s l f n h => simpa [PinsFollowLine, freeRecords] using hs
  | hold s l x h => simpa [PinsFollowLine, Machine.holdPlatoon] using hs
  | flush s =>
    obtain ⟨pt, h⟩ := flushPool_eq s
    rw [h]
    exact hs
  | line s clc hst h h' pins => exact pins hs
  | _ => exact hs

/-- Stores that stay keep the plans valid. -/
theorem LeavesStores.plansValid {s t : State} (h : LeavesStores s t) (hs : PlansValid s) : PlansValid t :=
  ⟨fun i => h.pl ▸ hs.slots i, fun i p hw => hs.commit i p (h.pl ▸ hw), fun i hi => hs.image i (h.image ▸ hi),
    fun x hx => hs.staging x (h.pl ▸ hx)⟩

/-- Stores that stay keep the configuration distinct. -/
theorem LeavesStores.configDistinct {s t : State} (h : LeavesStores s t) (hs : ConfigDistinct s) : ConfigDistinct t := by
  unfold ConfigDistinct
  rw [h.config]
  exact hs

/-- Stores that stay keep the cycle sound. -/
theorem LeavesStores.cycleSound {s t : State} (h : LeavesStores s t) (hs : CycleSound s) : CycleSound t := by
  unfold CycleSound State.now Selector.newLength at *
  rw [h.ctb, h.image]
  exact hs

end Sys2Proof.Machine
end

