-- ==== Sys2Proof/Laws/Settling.lean ====
section
/-! SUPPORT. What the end of a handling leaves as it was, and what a complete frame meets at the Supervisory Line Interface. -/

namespace Sys2Proof.Machine

/-! ### The end of a handling -/

theorem Settles.rfl' (s : State) : Settles s s := by constructor <;> rfl

theorem Settles.trans {a b c : State} (h : Settles a b) (k : Settles b c) : Settles a c := by
  constructor
  · exact k.pending.trans h.pending
  · exact k.ctb.trans h.ctb
  · exact k.oc.trans h.oc
  · exact k.pt.trans h.pt
  · exact k.qw.trans h.qw
  · exact k.pm.trans h.pm
  · exact k.pl.trans h.pl
  · exact k.ps.trans h.ps
  · exact k.er.trans h.er
  · exact k.config.trans h.config
  · exact k.ih.trans h.ih
  · have h₁ := h.clc
    have h₂ := k.clc
    simp only [LineController.mk.injEq, true_and] at h₁ h₂ ⊢
    simp_all
  · exact k.sli.trans h.sli

theorem Settles.queue (s : State) (q : List QueueEntry) : Settles s (s.withQueue q) := by constructor <;> rfl

theorem Settles.dropBeacon (s : State) : Settles s (dropBeacon s) := by
  unfold Machine.dropBeacon
  split
  · exact .rfl' s
  · exact .queue s _

theorem Settles.dropDue (s : State) : Settles s (dropDue s) := by constructor <;> rfl

theorem Settles.followSilence (s : State) : Settles s (followSilence s) := by constructor <;> rfl

theorem Settles.arbiterRun (s : State) : Settles s (arbiterRun s) := by
  unfold Machine.arbiterRun
  split
  · split
    · constructor <;> rfl
    · unfold beginPoll
      dsimp only
      split <;> (constructor <;> rfl)
    · exact .rfl' s
  · exact .rfl' s

theorem Settles.transmitterRun (s : State) : Settles s (transmitterRun s) := by
  constructor <;> try rfl
  unfold Machine.transmitterRun Supervisory.transmit
  dsimp only
  repeat' (first | rfl | split)

/-- The settling of the line leaves what `Settles` names. -/
theorem settles_settleLine (s : State) : Settles s (settleLine s) :=
  (((Settles.dropBeacon s).trans (.dropDue _)).trans (.followSilence _)).trans (.arbiterRun _)

/-- The end of a handling leaves what `Settles` names. -/
theorem settles_finish (s : State) : Settles s (finish s) := (settles_settleLine s).trans (.transmitterRun _)

/-! Parts that a settling leaves, one by one. -/

theorem Settles.ident {s t : State} (h : Settles s t) : t.ih.ident = s.ih.ident := by
  have := congrArg Identification.ident h.ih
  exact this

theorem Settles.wasAbsent {s t : State} (h : Settles s t) : t.ih.wasAbsent = s.ih.wasAbsent := by
  have := congrArg Identification.wasAbsent h.ih
  exact this

theorem Settles.health {s t : State} (h : Settles s t) : t.ih.health = s.ih.health := by
  have := congrArg Identification.health h.ih
  exact this

theorem Settles.lineResets {s t : State} (h : Settles s t) : t.ih.lineResets = s.ih.lineResets := by
  have := congrArg Identification.lineResets h.ih
  exact this

theorem Settles.lastGood {s t : State} (h : Settles s t) : t.ih.lastGood = s.ih.lastGood := by
  have := congrArg Identification.lastGood h.ih
  exact this

theorem Settles.drainFlag {s t : State} (h : Settles s t) : t.clc.drainFlag = s.clc.drainFlag := by
  have := congrArg LineController.drainFlag h.clc
  exact this

theorem Settles.pollRound {s t : State} (h : Settles s t) : t.clc.pollRound = s.clc.pollRound := by
  have := congrArg LineController.pollRound h.clc
  exact this

theorem Settles.roundDeadline {s t : State} (h : Settles s t) : t.clc.roundDeadline = s.clc.roundDeadline := by
  have := congrArg LineController.roundDeadline h.clc
  exact this

theorem Settles.accepted {s t : State} (h : Settles s t) : t.clc.accepted = s.clc.accepted := by
  have := congrArg LineController.accepted h.clc
  exact this

theorem Settles.summaries {s t : State} (h : Settles s t) : t.clc.summaries = s.clc.summaries := by
  have := congrArg LineController.summaries h.clc
  exact this

theorem Settles.mode {s t : State} (h : Settles s t) : t.sli.mode = s.sli.mode := by
  have := congrArg Supervisory.mode h.sli
  exact this

theorem Settles.draining {s t : State} (h : Settles s t) : t.sli.draining = s.sli.draining := by
  have := congrArg Supervisory.draining h.sli
  exact this

theorem Settles.replySlot {s t : State} (h : Settles s t) : t.sli.replySlot = s.sli.replySlot := by
  have := congrArg Supervisory.replySlot h.sli
  exact this

theorem Settles.shortAnswers {s t : State} (h : Settles s t) : t.sli.shortAnswers = s.sli.shortAnswers := by
  have := congrArg Supervisory.shortAnswers h.sli
  exact this

theorem Settles.resetPending {s t : State} (h : Settles s t) : t.sli.resetPending = s.sli.resetPending := by
  have := congrArg Supervisory.resetPending h.sli
  exact this

/-- With the line taken, the end of a handling leaves line and pins, takes out of the queue no more than BEACONs that have
lost their condition, and keeps the due times of the eligible positions. -/
theorem finish_lineTaken {s : State} (h : lineTaken s) :
    (finish s).clc.line = s.clc.line ∧ (finish s).clc.driverEnable = s.clc.driverEnable ∧
      (finish s).clc.txLevel = s.clc.txLevel ∧ (finish s).clc.queue = (dropBeacon s).clc.queue ∧
      ∀ p, (finish s).clc.due.get p = if pollEligible s p then s.clc.due.get p else none := by
  have hd : (dropBeacon s).clc.line = s.clc.line := by unfold dropBeacon; split <;> rfl
  have hl : (followSilence (dropDue (dropBeacon s))).clc.line ≠ .idle := by
    rw [show (followSilence (dropDue (dropBeacon s))).clc.line = (dropBeacon s).clc.line from rfl, hd]
    exact h
  unfold finish settleLine arbiterRun
  rw [if_neg hl]
  refine ⟨hd, ?_, ?_, rfl, fun p => ?_⟩
  · change (dropBeacon s).clc.driverEnable = _
    unfold dropBeacon
    split <;> rfl
  · change (dropBeacon s).clc.txLevel = _
    unfold dropBeacon
    split <;> rfl
  · change (dropDue (dropBeacon s)).clc.due.get p = _
    unfold dropDue
    simp only [get_ofFn]
    unfold dropBeacon
    split <;> rfl

/-! ### Complete frames -/

/-- A frame that completes while a reset is pending is discarded. -/
theorem onFrame_resetPending {busy : Reply} {handle : State → State} {s : State} (h : s.sli.resetPending = true) :
    onFrame busy handle s = frameTaken s := by
  have hp : (frameTaken s).sli.resetPending = true := h
  unfold onFrame
  dsimp only
  rw [if_pos hp]

/-- A frame that completes while a reply is owed is answered short. -/
theorem onFrame_owing {busy : Reply} {handle : State → State} {s : State} (h : s.sli.resetPending = false)
    (ho : s.sli.owing = true) :
    onFrame busy handle s = transmitterRun { frameTaken s with sli := (frameTaken s).sli.shortAnswer busy } := by
  have ho' : (frameTaken s).sli.owing = true := ho
  have hp : ¬ (frameTaken s).sli.resetPending = true := by simp [frameTaken, h]
  unfold onFrame
  dsimp only
  rw [if_neg hp, if_pos ho']

/-- A frame that completes when the part is ready is taken. -/
theorem onFrame_ready {busy : Reply} {handle : State → State} {s : State} (h : Ready s) :
    onFrame busy handle s = transmitterRun (handle (frameTaken s)) := by
  have ho : (frameTaken s).sli.owing = false := by simp [Supervisory.owing, frameTaken, h.slotEmpty, h.noShort]
  have hp : ¬ (frameTaken s).sli.resetPending = true := by simp [frameTaken, h.noReset]
  unfold onFrame
  dsimp only
  rw [if_neg hp, if_neg (by simp [ho])]

/-- Once a reply stands in its slot, the transmitter sends it when it was idle. -/
theorem transmitterRun_placeReply (r : Reply) (s : State) :
    transmitterRun (placeReply r s) =
      { s with sli := { s.sli with replySlot := some r, sending := some (s.sli.sending.getD (.reply r)) } } := by
  obtain ⟨_, _, _, _, _, _, _, _, _, _, _, ⟨_, _, _, _, _, _, _, _, _, _, _, _, x⟩, _⟩ := s
  cases x <;> rfl

/-- A frame whose answer changes nothing but the reply. -/
theorem onFrame_answer {busy r : Reply} {s : State} (h : Ready s) :
    onFrame busy (placeReply r) s = s.answeredWith r := by
  rw [onFrame_ready h, transmitterRun_placeReply]
  rfl

/-- A request of the wrong length. -/
theorem onRequest_wrongLength {α : Type} {k : RequestKind} {n : Nat} {handle : α → State → State × Answer} {s : State}
    (h : Ready s) : onRequest k (.wrongLength n) handle s = s.answered k (.badValue 0 0) := onFrame_answer h

/-- A request taken whole. -/
theorem onRequest_fields {α : Type} {k : RequestKind} {x : α} {handle : α → State → State × Answer} {s : State}
    (h : Ready s) :
    onRequest k (.fields x) handle s =
      transmitterRun (placeReply (.request k (handle x (frameTaken s)).2) (handle x (frameTaken s)).1) := onFrame_ready h

/-- A request whose rule changes nothing but what `change` says, the receiver and the reply apart. -/
theorem onRequest_result {α : Type} {k : RequestKind} {x : α} {handle : α → State → State × Answer} {s t : State}
    {a : Answer} (h : Ready s) (hr : handle x (frameTaken s) = (t, a)) :
    onRequest k (.fields x) handle s =
      { t with sli := { t.sli with replySlot := some (.request k a),
                                   sending := some (t.sli.sending.getD (.reply (.request k a))) } } := by
  rw [onRequest_fields h, hr, transmitterRun_placeReply]

/-- A request that its rule turns away changes nothing. -/
theorem onRequest_refused {α : Type} {k : RequestKind} {x : α} {handle : α → State → State × Answer} {s : State}
    {a : Answer} (h : Ready s) (hr : handle x (frameTaken s) = (frameTaken s, a)) :
    onRequest k (.fields x) handle s = s.answered k a := by
  rw [onRequest_result h hr]
  rfl

end Sys2Proof.Machine
end

