-- ==== Sys2Proof/Laws/Mark.lean ====
section
/-! SUPPORT. What a cycle mark is made of: the Plan Selector's handling, the new cycle, and changes that a handling is made of;
and the decisecond as a mark followed by such changes. -/

namespace Sys2Proof.Machine

/-! ### The Plan Selector at a mark -/

/-- From `s` to `t` by the Plan Selector's handling of a mark: nothing but its own state and the notices change, its table
stays, and the image stays or becomes a copy of a VALID slot while no write is in flight. -/
structure MarkSelects (s t : State) : Prop where
  rest : { t with ps := s.ps, sli := s.sli } = s
  sli : { t.sli with notices := [], overrun := 0 } = { s.sli with notices := [], overrun := 0 }
  notices : s.sli.notices.length ≤ Config.noticeCapacity → t.sli.notices.length ≤ Config.noticeCapacity
  table : t.ps.table = s.ps.table
  image : t.ps.image = s.ps.image ∨
    ∃ slot plan, s.pl.write = .idle ∧ s.pl.slots.get slot = .valid plan ∧ t.ps.image = some { slot := slot, plan := plan }

namespace MarkSelects

theorem rfl' (s : State) : MarkSelects s s := ⟨rfl, rfl, fun h => h, rfl, .inl rfl⟩

theorem pl {s t : State} (h : MarkSelects s t) : t.pl = s.pl := by
  have := congrArg State.pl h.rest
  exact this

theorem trans {a b c : State} (h : MarkSelects a b) (k : MarkSelects b c) : MarkSelects a c := by
  refine ⟨?_, k.sli.trans h.sli, fun n => k.notices (h.notices n), k.table.trans h.table, ?_⟩
  · have h₁ := h.rest
    have h₂ := k.rest
    rw [← h₂] at h₁
    exact h₁
  · rcases k.image with hi | ⟨slot, plan, hw, hs, hi⟩
    · rcases h.image with hj | hj
      · exact .inl (hi.trans hj)
      · exact .inr (by simpa [hi] using hj)
    · exact .inr ⟨slot, plan, h.pl ▸ hw, h.pl ▸ hs, hi⟩

/-- A change of the Plan Selector that keeps its table and its image. -/
theorem selector (s : State) (ps : Selector) (ht : ps.table = s.ps.table) (hi : ps.image = s.ps.image) :
    MarkSelects s { s with ps := ps } := ⟨rfl, rfl, fun h => h, ht, .inl hi⟩

theorem notice (s : State) (b : NoticeBody) : MarkSelects s (raiseNotice b s) := by
  refine ⟨rfl, ?_, fun h => (offered_notices _ _ b h).1, rfl, .inl rfl⟩
  unfold raiseNotice Supervisory.offered
  dsimp only
  repeat' (first | rfl | split)

end MarkSelects

theorem makePending_kept (ps : Selector) (slot : SlotIx) (c : PlanCause) :
    (ps.makePending slot c).table = ps.table ∧ (ps.makePending slot c).image = ps.image := ⟨rfl, rfl⟩

theorem takeRequested_kept (ps : Selector) : ps.takeRequested.table = ps.table ∧ ps.takeRequested.image = ps.image := by
  unfold Selector.takeRequested
  repeat' (first | exact ⟨rfl, rfl⟩ | split)

theorem evaluate_kept (ps : Selector) (pl : Library) : (ps.evaluate pl).table = ps.table ∧ (ps.evaluate pl).image = ps.image := by
  have promote : ∀ (q : Selector) (slot : SlotIx), (q.promote slot).table = q.table ∧ (q.promote slot).image = q.image := by
    intro q slot
    unfold Selector.promote
    split
    · dsimp only
      repeat' (first | exact ⟨rfl, rfl⟩ | split)
    · exact ⟨rfl, rfl⟩
  unfold Selector.evaluate
  split
  · exact ⟨rfl, rfl⟩
  · split
    · dsimp only
      repeat' (first | exact ⟨rfl, rfl⟩ | split)
    · split
      · exact promote _ _
      · exact promote _ _

theorem load_copy {pl : Library} {slot : SlotIx} {plan : Plan} (h : pl.load slot = .copy plan) :
    pl.write = .idle ∧ pl.slots.get slot = .valid plan := by
  unfold Library.load at h
  split at h
  · exact absurd h (by simp)
  · next hw =>
    refine ⟨by simpa [Library.writing] using hw, ?_⟩
    split at h
    · next hs => simpa [hs] using h
    · exact absurd h (by simp)
    · exact absurd h (by simp)

theorem takeUpPending_selects (s : State) : MarkSelects s (takeUpPending s).1 := by
  unfold takeUpPending
  split
  · exact .rfl' s
  · next x _ =>
    split
    · next plan hl =>
      obtain ⟨hw, hs⟩ := load_copy hl
      refine MarkSelects.trans ?_ (.notice _ _)
      exact ⟨rfl, rfl, fun h => h, rfl, .inr ⟨x.slot, plan, hw, hs, rfl⟩⟩
    · exact .selector s _ rfl rfl
    · exact (MarkSelects.selector s s.ps.dropPending.forgetCandidate rfl rfl).trans (.notice _ _)

theorem selectAtMark_selects (s : State) : MarkSelects s (selectAtMark s).1 := by
  unfold selectAtMark
  extract_lets wasFree s₁ first s₂ s₃ s₄
  have h₁ : MarkSelects s s₁ := .selector s _ rfl rfl
  have h₂ : MarkSelects s s₂ := h₁.trans (takeUpPending_selects s₁)
  have h₃ : MarkSelects s s₃ := h₂.trans (.selector s₂ _ (takeRequested_kept _).1 (takeRequested_kept _).2)
  have h₄ : MarkSelects s s₄ := by
    simp only [s₄]
    split
    · exact h₃.trans (.selector s₃ _ (evaluate_kept _ _).1 (evaluate_kept _ _).2)
    · exact h₃
  split
  · exact h₄.trans (takeUpPending_selects s₄)
  · exact h₄

/-! ### The mark -/

theorem Moves.claims {s : State} : Moves false true s (if beaconCondition s then Machine.claimBeacon s else s) :=
  Moves.beaconRoundClaim (Moves.refl s)

/-- The beacon deadline is set one interval on. -/
def deadlineOn (s : State) : State :=
  { s with ctb := { s.ctb with beaconDeadline := later s.now s.ctb.beaconInterval } }

theorem beaconRound_moves (s : State) : Moves false true (deadlineOn s) (beaconRound s) := Moves.claims

/-- A cycle mark is the Plan Selector's handling, the new cycle, changes that a handling is made of, the new beacon deadline,
and more such changes. -/
theorem cycleMark_parts (s : State) :
    ∃ v, Moves false true (beginCycle (selectAtMark s).1) v ∧ Moves false true (deadlineOn v) (cycleMark s) := by
  refine ⟨forPositions commandPointAtMark (countDown (trackAtMark (selectAtMark s).2 (coordAtMark (selectAtMark s).2
    ((beginCycle (selectAtMark s).1).ctb.cycleLength != s.ctb.cycleLength) (beginCycle (selectAtMark s).1)))), ?_,
    beaconRound_moves _⟩
  exact Moves.forPositions (fun p _ h => Moves.commandPointAtMark p h)
    (Moves.countDown (Moves.trackAtMark _ (Moves.coordAtMark _ _ (Moves.refl _))))

/-! ### The decisecond -/

/-- What is still due in a decisecond, the mark and the beacon deadline apart, is made of the changes of a handling. -/
theorem catchUp_moves (s : State) : Moves false true (beaconEvent (markEvent s)) (catchUp s) := by
  unfold catchUp
  extract_lets s₁ s₂ s₃ s₄ s₅ s₆ s₇
  have h₁ : Moves false true s₁ s₁ := .refl _
  have h₂ : Moves false true s₁ s₂ := Moves.forPositions (fun p _ h => Moves.settleEvent p h) h₁
  have h₃ : Moves false true s₁ s₃ := Moves.foldl (fun t n h => Moves.windowEvent n h) _ h₂
  have h₄ : Moves false true s₁ s₄ := Moves.forPositions
    (fun p _ h => Moves.approachEvent p _ (Moves.approachEvent p _ (Moves.approachEvent p _ h))) h₃
  have h₅ : Moves false true s₁ s₅ := Moves.forPositions (fun p _ h => Moves.retryEvent p h)
    (Moves.forPositions (fun p _ h => Moves.routeEvent p h) h₄)
  have h₆ : Moves false true s₁ s₆ := Moves.forPositions (fun p _ h => Moves.quietEvent p h)
    (Moves.forPositions (fun p _ h => Moves.probeEvent p h) (Moves.forPositions (fun p _ h => Moves.reprobeEvent p h) h₅))
  have h₇ : Moves false true s₁ s₇ := Moves.roundEvent (Moves.breakEvent (Moves.silenceEvent h₆))
  exact Moves.drainedEvent (Moves.forPositions (fun p _ h => Moves.commandPointEvent p h) h₇)

end Sys2Proof.Machine
end

