-- ==== Sys2Proof/Laws/Commanded.lean ====
section
/-! SUPPORT. Every command but the resets and the decisecond is a run of the changes named here; so what each change keeps,
every command keeps. -/

namespace Sys2Proof.Machine

/-- From `s` to `t` by the changes that commands are made of: those of a handling, the start of a cycle, and the writing of
settings and stores by requests. -/
inductive Commanded : State → State → Prop where
  | moves {s t : State} (rt : Bool) : Moves rt true s t → Commanded s t
  | trans {a b c : State} : Commanded a b → Commanded b c → Commanded a c
  | cycle {s u : State} : MarkSelects s u → Commanded s (beginCycle u)
  | clock (s : State) (ctb : TimeBase) (h : ctb.runningTime = s.ctb.runningTime) (h' : ctb.anchor = s.ctb.anchor)
      (h'' : ctb.cycleLength = s.ctb.cycleLength) : Commanded s { s with ctb := ctb }
  | limits (s : State) (x : TransitionLimits) : Commanded s { s with oc := { s.oc with limits := x } }
  | slack (s : State) (pt : Tracker) (h : pt.inboundLinks = s.pt.inboundLinks) (h' : pt.outboundLinks = s.pt.outboundLinks)
      (h'' : pt.freeCount = s.pt.freeCount) : Commanded s { s with pt := pt }
  | watch (s : State) (qw : Watch) : Commanded s { s with qw := qw }
  | policy (s : State) (x : Policy) : Commanded s { s with pm := { s.pm with policy := x } }
  | library (s : State) (pl : Library) (h : PlansValid s → PlansValid { s with pl := pl }) : Commanded s { s with pl := pl }
  | selector (s : State) (ps : Selector) (h : ps.image = s.ps.image) : Commanded s { s with ps := ps }
  | schedule (s : State) (clc : LineController) (h : clc.queue = s.clc.queue) (h' : clc.line = s.clc.line)
      (h'' : clc.driverEnable = s.clc.driverEnable) (h''' : clc.txLevel = s.clc.txLevel) :
      Commanded s { s with clc := clc }
  | router (s : State) (er : Router) : Commanded s { s with er := er }
  | supervisory (s : State) (sli : Supervisory)
      (h : s.sli.notices.length ≤ Config.noticeCapacity → sli.notices.length ≤ Config.noticeCapacity)
      (h' : s.sli.shortAnswers.length ≤ Config.shortAnswerCapacity → sli.shortAnswers.length ≤ Config.shortAnswerCapacity) :
      Commanded s { s with sli := sli }
  | config (s : State) (v : Vector (Option PositionConfig) 12)
      (h : ConfigDistinct s → ConfigDistinct { s with config := v }) : Commanded s { s with config := v }

namespace Commanded

theorem refl (s : State) : Commanded s s := .moves true (.refl s)

/-! ### What every change keeps -/

theorem bounded {s t : State} (h : Commanded s t) (hs : Bounded s) : Bounded t := by
  induction h with
  | moves _ h => exact h.bounded hs
  | trans _ _ h k => exact k (h hs)
  | cycle h =>
    have hc := congrArg (fun x : State => x.clc) h.rest
    have hp := congrArg (fun x : State => x.pm) h.rest
    have hl := congrArg Supervisory.shortAnswers h.sli
    dsimp only at hc hp hl
    exact ⟨h.notices hs.notices, by rw [show (beginCycle _).sli.shortAnswers = _ from hl]; exact hs.shortAnswers,
      by rw [show (beginCycle _).clc = _ from hc]; exact hs.queue, by rw [show (beginCycle _).pm = _ from hp]; exact hs.routes⟩
  | schedule s clc h => exact hs.congr h rfl rfl
  | supervisory s sli h h' => exact ⟨h hs.notices, h' hs.shortAnswers, hs.queue, hs.routes⟩
  | _ => exact ⟨hs.notices, hs.shortAnswers, hs.queue, hs.routes⟩

theorem queueInOrder {s t : State} (h : Commanded s t) (hs : QueueInOrder s) : QueueInOrder t := by
  induction h with
  | moves _ h => exact h.queueInOrder hs
  | trans _ _ h k => exact k (h hs)
  | cycle h =>
    have hc := congrArg (fun x : State => x.clc) h.rest
    unfold QueueInOrder
    rw [show (beginCycle _).clc = _ from hc]
    exact hs
  | schedule s clc h => unfold QueueInOrder; rw [show ({ s with clc := clc } : State).clc.queue = _ from h]; exact hs
  | _ => exact hs

theorem poolWhole {s t : State} (h : Commanded s t) (hs : PoolWhole s) : PoolWhole t := by
  induction h with
  | moves _ h => exact h.poolWhole hs
  | trans _ _ h k => exact k (h hs)
  | cycle h =>
    have hp := congrArg (fun x : State => x.pt) h.rest
    have hp : (beginCycle _).pt = _ := hp
    exact hs.congr (congrArg Tracker.inboundLinks hp) (congrArg Tracker.outboundLinks hp) (congrArg Tracker.freeCount hp)
  | slack s pt h h' h'' => exact hs.congr h h' h''
  | _ => exact hs

theorem pinsFollowLine {s t : State} (h : Commanded s t) (hs : PinsFollowLine s) : PinsFollowLine t := by
  induction h with
  | moves _ h => exact h.pinsFollowLine hs
  | trans _ _ h k => exact k (h hs)
  | cycle h =>
    have hc := congrArg (fun x : State => x.clc) h.rest
    unfold PinsFollowLine
    rw [show (beginCycle _).clc = _ from hc]
    exact hs
  | schedule s clc h h' h'' h''' =>
    unfold PinsFollowLine at hs ⊢
    rw [show ({ s with clc := clc } : State).clc.line = _ from h', show ({ s with clc := clc } : State).clc.driverEnable = _ from h'',
      show ({ s with clc := clc } : State).clc.txLevel = _ from h''']
    exact hs
  | _ => exact hs

theorem plansValid {s t : State} (h : Commanded s t) (hs : PlansValid s) : PlansValid t := by
  induction h with
  | moves _ h => exact h.leavesStores.plansValid hs
  | trans _ _ h k => exact k (h hs)
  | cycle h =>
    have hp := h.pl
    refine ⟨fun i => ?_, fun slot plan hw => ?_, fun image hi => ?_, fun x hx => ?_⟩
    · rw [show (beginCycle _).pl = _ from hp]
      exact hs.slots i
    · exact hs.commit slot plan (by rw [← hp]; exact hw)
    · rcases h.image with he | ⟨slot, plan, -, hv, he⟩
      · exact hs.image image (by rw [← he]; exact hi)
      · have hi : _ = some image := he.symm.trans hi
        cases hi
        have := hs.slots slot
        rw [hv] at this
        exact this
    · exact hs.staging x (by rw [← hp]; exact hx)
  | library s pl h => exact h hs
  | selector s ps h => exact ⟨hs.slots, hs.commit, fun i hi => hs.image i (h ▸ hi), hs.staging⟩
  | _ => exact ⟨hs.slots, hs.commit, hs.image, hs.staging⟩

theorem configDistinct {s t : State} (h : Commanded s t) (hs : ConfigDistinct s) : ConfigDistinct t := by
  induction h with
  | moves _ h => exact h.leavesStores.configDistinct hs
  | trans _ _ h k => exact k (h hs)
  | cycle h =>
    have hc := congrArg (fun x : State => x.config) h.rest
    unfold ConfigDistinct
    rw [show (beginCycle _).config = _ from hc]
    exact hs
  | config s v h => exact h hs
  | _ => exact hs

theorem cycleSound {s t : State} (h : Commanded s t) (hs : CycleSound s) : CycleSound t := by
  induction h with
  | moves _ h => exact h.leavesStores.cycleSound hs
  | trans _ _ h k => exact k (h hs)
  | @cycle s u h =>
    refine ⟨rfl, ?_⟩
    show (u.now - u.now).toNat ≤ _
    simp
  | clock s ctb h h' h'' =>
    unfold CycleSound State.now at *
    simp only [h, h', h'']
    exact hs
  | selector s ps h =>
    refine ⟨?_, hs.2⟩
    rw [hs.1]
    unfold Selector.newLength
    rw [h]
  | _ => exact hs

/-! ### Frames and requests -/

theorem receiver (s : State) (r : Receiver) : Commanded s (s.withReceiver r) := .supervisory s _ (fun h => h) (fun h => h)

theorem reply (r : Reply) (s : State) : Commanded s (placeReply r s) := .supervisory s _ (fun h => h) (fun h => h)

theorem transmit (s : State) : Commanded s (transmitterRun s) := .moves true (.transmit s)

theorem onFrame {busy : Reply} {handle : State → State} (s : State) (h : ∀ u, Commanded u (handle u)) :
    Commanded s (Machine.onFrame busy handle s) := by
  unfold Machine.onFrame
  have h₁ : Commanded s (frameTaken s) := .supervisory s _ (fun h => h) (fun h => h)
  dsimp only
  split
  · exact h₁
  · split
    · refine (h₁.trans (.supervisory _ _ ?_ ?_)).trans (transmit _)
      · unfold Supervisory.shortAnswer
        split <;> exact fun h => h
      · unfold Supervisory.shortAnswer
        split
        · next hl => exact fun _ => by simpa using hl
        · exact fun h => h
    · exact (h₁.trans (h _)).trans (transmit _)

theorem onRequest {α : Type} {k : RequestKind} {handle : α → State → State × Answer} (body : Body α) (s : State)
    (h : ∀ x u, Commanded u (handle x u).1) : Commanded s (Machine.onRequest k body handle s) := by
  refine onFrame s (fun u => ?_)
  cases body with
  | wrongLength n => exact reply _ u
  | fields x => exact (h x u).trans (reply _ _)

theorem inMode {m : PartMode} {handle : State → State × Answer} (s : State) (h : ∀ u, Commanded u (handle u).1) :
    Commanded s (Machine.inMode m handle s).1 := by
  unfold Machine.inMode
  split
  · exact h s
  · exact refl s

end Commanded

/-- No field fails just when every check holds. -/
theorem firstBad_none {l : List (Nat × Bool)} : firstBad l = none ↔ ∀ x ∈ l, x.2 = true := by
  induction l with
  | nil => simp [firstBad]
  | cons x l ih =>
    obtain ⟨a, b⟩ := x
    cases b <;> simp [firstBad, ih]

/-! ### The library's forms -/

theorem PlansValid.withStaging {s : State} {x : Option Staging} (hx : ∀ y, x = some y → y.inRanges) (hs : PlansValid s) :
    PlansValid (s.withStaging x) := ⟨hs.slots, hs.commit, hs.image, hx⟩

namespace Commanded

theorem staging (s : State) (x : Option Staging) (hx : PlansValid s → ∀ y, x = some y → y.inRanges) :
    Commanded s (s.withStaging x) := .library s _ (fun hs => hs.withStaging (hx hs))

theorem whileOpen {f : Staging → State → State × Answer} (s : State)
    (h : ∀ x, s.pl.staging = some x → Commanded s (f x s).1) : Commanded s (Machine.whileOpen f s).1 := by
  unfold Machine.whileOpen
  split
  · exact refl s
  · next x hx => exact h x hx

theorem openBlank (x : OpenBlankFields) (s : State) : Commanded s (Machine.openBlank x s).1 := by
  unfold Machine.openBlank
  repeat' (first | exact refl s | split)
  refine staging s _ (fun _ y hy => ?_)
  cases hy
  exact ⟨fun h hh => absurd hh (by simp [openedStaging]), fun p e he => absurd he (by simp [openedStaging])⟩

theorem openCopy (x : OpenCopyFields) (s : State) : Commanded s (Machine.openCopy x s).1 := by
  unfold Machine.openCopy
  repeat' (first | exact refl s | split)
  next source _ _ plan hv =>
  refine staging s _ (fun hs y hy => ?_)
  cases hy
  have hp := hs.slots source
  rw [hv] at hp
  simp only [slotSound, planValid, Bool.and_eq_true, List.all_eq_true] at hp
  refine ⟨fun h hh => ?_, fun p e he => ?_⟩
  · cases hh
    exact hp.1.1
  · have := hp.2 p (by fin_cases p <;> simp [positions])
    have he : plan.entries.get p = some e := he
    simp only [he, Bool.and_eq_true] at this
    exact this.1

theorem stageHeader (x : HeaderFields) (s : State) : Commanded s (Machine.stageHeader x s).1 := by
  refine whileOpen s (fun st hst => ?_)
  split
  · exact refl s
  · next hr =>
    split
    · exact refl s
    · refine staging s _ (fun hs y hy => ?_)
      cases hy
      refine ⟨fun h hh => ?_, (hs.staging st hst).2⟩
      cases hh
      simpa using hr

theorem stageSeek (x : SeekFields) (s : State) : Commanded s (Machine.stageSeek x s).1 := by
  refine whileOpen s (fun st hst => ?_)
  repeat' (first | exact refl s | split)
  refine staging s _ (fun hs y hy => ?_)
  cases hy
  exact hs.staging st hst

theorem putEntry (e : Option PlanEntry) (st : Staging) (s : State) (hst : s.pl.staging = some st)
    (he : ∀ x, e = some x → entryInRange x = true) : Commanded s (Machine.putEntry e st s).1 := by
  refine staging s _ (fun hs y hy => ?_)
  cases hy
  refine ⟨(hs.staging st hst).1, fun p x hx => ?_⟩
  simp only [get_set] at hx
  split at hx
  · exact he x hx
  · exact (hs.staging st hst).2 p x hx

theorem stageEntryWrite (x : EntryFields) (s : State) : Commanded s (Machine.stageEntryWrite x s).1 := by
  refine whileOpen s (fun st hst => ?_)
  split
  · exact refl s
  · next hf =>
    refine putEntry _ st s hst (fun y hy => ?_)
    cases hy
    unfold entryFieldFault at hf
    rw [firstBad_none] at hf
    simp only [List.mem_cons, List.not_mem_nil, or_false, forall_eq_or_imp, forall_eq] at hf
    simp [entryInRange, entryOf, hf]

theorem stageEntryClear (n : Nat) (s : State) : Commanded s (Machine.stageEntryClear n s).1 := by
  refine whileOpen s (fun st hst => ?_)
  split
  · exact refl s
  · exact putEntry _ st s hst (fun y hy => absurd hy (by simp))

theorem stageRead (s : State) : Commanded s (Machine.stageRead s).1 := by
  refine whileOpen s (fun st hst => staging s _ (fun hs y hy => ?_))
  cases hy
  exact hs.staging st hst

theorem stageDiscard (s : State) : Commanded s (Machine.stageDiscard s).1 :=
  whileOpen s (fun _ _ => staging s _ (fun _ y hy => absurd hy (by simp)))

theorem entriesFault_none {c : Nat} {entries : EntryPlaces} {ps : List Pos} (h : entriesFault c entries ps = none) :
    ∀ p ∈ ps, ∀ e, entries.get p = some e → entryFault c e = none := by
  induction ps with
  | nil => exact fun p hp => absurd hp (by simp)
  | cons q ps ih =>
    intro p hp e he
    unfold entriesFault at h
    rcases List.mem_cons.mp hp with rfl | hp
    · rw [he] at h
      dsimp only at h
      split at h
      · exact absurd h (by simp)
      · assumption
    · split at h
      · exact ih h p hp e he
      · split at h
        · exact absurd h (by simp)
        · exact ih h p hp e he

/-- A staged plan that passes the checks of COMMIT-PLAN is valid (R111). -/
theorem validateStaged_valid {x : Staging} {plan : Plan} (h : validateStaged x = .inr plan) (hx : x.inRanges) :
    planValid plan = true := by
  unfold validateStaged at h
  split at h
  · exact absurd h (by simp)
  · next header hh =>
    split at h
    · exact absurd h (by simp)
    · next he =>
      split at h
      · exact absurd h (by simp)
      · next hf =>
        cases h
        unfold planValid
        simp only [Bool.and_eq_true, Bool.not_eq_true', List.all_eq_true]
        refine ⟨⟨hx.1 header hh, by simpa using he⟩, fun p hp => ?_⟩
        split
        · rfl
        · next e hg => simp [hx.2 p e hg, entriesFault_none hf p hp e hg]

theorem commitPlan (s : State) : Commanded s (Machine.commitPlan s).1 := by
  refine whileOpen s (fun st hst => ?_)
  repeat' (first | exact refl s | split)
  next plan hv =>
  refine .library s _ (fun hs => ⟨hs.slots, fun slot p hp => ?_, hs.image, fun y hy => absurd hy (by simp)⟩)
  cases hp
  exact validateStaged_valid hv (hs.staging st hst)

theorem erasePlan (n : Nat) (s : State) : Commanded s (Machine.erasePlan n s).1 := by
  unfold Machine.erasePlan
  repeat' (first | exact refl s | split)
  exact .library s _ (fun hs => ⟨hs.slots, fun slot p hp => absurd hp (by simp), hs.image, hs.staging⟩)

theorem getSlot (n : Nat) (s : State) : Commanded s (Machine.getSlot n s).1 := by
  unfold Machine.getSlot
  repeat' (first | exact refl s | split)

theorem finishWrite (slot : SlotIx) (contents : Slot) (s : State) (h : PlansValid s → slotSound contents) :
    Commanded s (Machine.finishWrite slot contents s) := by
  refine .library s _ (fun hs => ⟨fun i => ?_, fun _ p hp => absurd hp (by simp), hs.image, hs.staging⟩)
  simp only [get_set]
  split
  · exact h hs
  · exact hs.slots i

theorem commitDone (s : State) : Commanded s (Machine.commitDone s) := by
  unfold Machine.commitDone
  split
  · next slot plan hw =>
    refine ((finishWrite slot (.valid plan) s (fun hs => hs.commit slot plan hw)).trans (.moves true (.notice _ _))).trans
      (.selector _ _ ?_)
    unfold Selector.commitDone Selector.remake
    repeat' (first | rfl | split)
  · exact refl s

theorem eraseDone (s : State) : Commanded s (Machine.eraseDone s) := by
  unfold Machine.eraseDone
  split
  · exact (finishWrite _ .empty s (fun _ => trivial)).trans (.moves true (.notice _ _))
  · exact refl s

/-! ### The other requests -/

theorem settled (s : State) : Commanded s (settleLine s) := .moves true (Moves.settleLine (.refl s))

theorem setPosition (x : PositionFields) (s : State) : Commanded s (Machine.setPosition x s).1 := by
  refine inMode s (fun u => ?_)
  split
  · exact refl u
  · split
    · exact refl u
    · next p cfg hr =>
      refine .config u _ (fun hd => ?_)
      unfold readPosition at hr
      repeat' split at hr
      all_goals cases hr
      next ha hs =>
      have other : ∀ q b, q ≠ p → u.config.get q = some b → b.address ≠ x.address ∧ b.site ≠ x.site := by
        intro q b hq hb
        have hm : q ∈ positions := by fin_cases q <;> simp [positions]
        refine ⟨fun he => ha ?_, fun he => hs ?_⟩ <;>
          (unfold otherConfigured; rw [List.any_eq_true]; exact ⟨q, hm, by simp [hq, hb, he]⟩)
      intro q r a b hq hr hne
      simp only [get_set] at hq hr
      split at hq
      · next h =>
        subst h
        rw [if_neg hne] at hr
        cases hq
        have := other r b (Ne.symm hne) hr
        exact ⟨Ne.symm this.1, Ne.symm this.2⟩
      · next h =>
        split at hr
        · next h' =>
          subst h'
          cases hr
          exact other q a (Ne.symm h) hq
        · exact hd q r a b hq hr hne

theorem clearPosition (n : Nat) (s : State) : Commanded s (Machine.clearPosition n s).1 := by
  refine inMode s (fun u => ?_)
  repeat' (first | exact refl u | split)
  next p _ =>
  refine Commanded.trans (.config u _ (fun hd => ?_)) (.moves true (.health _ _ rfl))
  intro q r a b hq hr hne
  simp only [get_set] at hq hr
  split at hq
  · exact absurd hq (by simp)
  · split at hr
    · exact absurd hr (by simp)
    · exact hd q r a b hq hr hne

theorem reIdentify (n : Nat) (s : State) : Commanded s (Machine.reIdentify n s).1 := by
  refine inMode s (fun u => ?_)
  repeat' (first | exact refl u | split)
  exact .moves true (Moves.settleLine (Moves.offerQuiet _ (Moves.withHealth _ _ (Moves.withIdent _ _ (.refl u)))))

theorem rejoin (n : Nat) (s : State) : Commanded s (Machine.rejoin n s).1 := by
  refine inMode s (fun u => ?_)
  dsimp only
  repeat' (first | exact refl u | split)
  · exact .moves true (Moves.clearRefusing _ (.refl u))
  · exact .moves true (Moves.clearRefusing _ (Moves.withHealth _ _ (.refl u)))

theorem trimQueue (l : Link) (s : State) : Commanded s (Machine.trimQueue l s) := by
  refine .moves true (.release s l _ _ ?_)
  simp only [List.length_drop]
  omega

theorem setLink (x : LinkFields) (s : State) : Commanded s (Machine.setLink x s).1 := by
  unfold Machine.setLink
  split
  · exact refl s
  · next l _ =>
    split
    · exact refl s
    · have h : Moves true true s (s.withLink l (fun r => r.written x)) := .link s l _ rfl
      extract_lets _ s₁ s₂
      have h₂ : Moves true true s s₂ := by
        simp only [s₂]
        split
        · exact h
        · exact Moves.noteTracking l h
      exact (Commanded.moves true h₂).trans (trimQueue l _)

theorem setTransitionLimits (x : LimitFields) (s : State) : Commanded s (Machine.setTransitionLimits x s).1 := by
  unfold Machine.setTransitionLimits
  split
  · exact refl s
  · have h (u : State) : Moves true true u (forPositions clampTrim u) :=
      Moves.forPositions (f := clampTrim) (fun p v h => Moves.withTrim p _ h) (.refl u)
    have hl := Commanded.limits s (limitsOf x)
    dsimp only at hl ⊢
    exact hl.trans (.moves true (h _))

theorem putRule (i : RuleIx) (r : Option Rule) (s : State) : Commanded s (Machine.putRule i r s) := .router s _

theorem setRule (x : RuleFields) (s : State) : Commanded s (Machine.setRule x s).1 := by
  refine inMode s (fun u => ?_)
  repeat' (first | exact refl u | split)
  exact putRule _ _ u

theorem clearRule (n : Nat) (s : State) : Commanded s (Machine.clearRule n s).1 := by
  refine inMode s (fun u => ?_)
  repeat' (first | exact refl u | split)
  exact putRule _ _ u

theorem cancelRoute (n : Nat) (s : State) : Commanded s (Machine.cancelRoute n s).1 := by
  unfold Machine.cancelRoute
  repeat' (first | exact refl s | split)
  exact .moves true (Moves.settleLine (Moves.dropRoute _ _ (.refl s)))

theorem goLiveNow (n : Nat) (s : State) : Commanded s (Machine.goLiveNow n s) := by
  unfold Machine.goLiveNow
  extract_lets src s₁ src' s₂
  have h₁ : Commanded s s₁ := .supervisory s _ (fun h => h) (fun h => h)
  have h₂ : Commanded s s₂ := h₁.trans (.schedule s₁ _ rfl rfl rfl rfl)
  clear_value s₂
  exact h₂.trans (.moves true (Moves.settleLine (Moves.rollCall (.refl s₂))))

theorem goLive (n : Nat) (s : State) : Commanded s (Machine.goLive n s).1 := by
  unfold Machine.goLive
  split
  · exact refl s
  · split
    · exact refl s
    · split
      · exact refl s
      · split
        · exact refl s
        · have h := goLiveNow n s
          dsimp only
          exact h

theorem goSetupNow (s : State) : Commanded s (Machine.goSetupNow s) := by
  unfold Machine.goSetupNow
  extract_lets src src' s₁ s₂ s₃ s₄ s₅
  have h₁ : Commanded s s₁ :=
    (Commanded.supervisory s { s.sli with mode := .setup, draining := true } (fun h => h) (fun h => h)).trans
      (.schedule _ _ rfl rfl rfl rfl)
  have h₂ : Commanded s s₂ := h₁.trans (.selector s₁ _ rfl)
  refine h₂.trans (.moves true ?_)
  clear_value s₂
  have h₃ : Moves true true s₂ s₃ := Moves.forPositions (f := coordSetupAt) (fun p _ h => Moves.coordSetupAt p h) (.refl s₂)
  have h₄ : Moves true true s₂ s₄ := Moves.clearWatch (Moves.flushPool (Moves.releasePriority h₃))
  exact Moves.settleLine (Moves.reportIfDrained (Moves.dropBeacon (Moves.withdraw _ (Moves.identifySetup h₄))))

theorem coordRestartNow (s : State) : Commanded s (Machine.coordRestartNow s) := by
  unfold Machine.coordRestartNow
  extract_lets s₁ s₂ src s₃ s₄
  have h₁ : Commanded s s₁ := .moves true (Moves.forPositions (f := coordRestartAt) (fun p _ h => Moves.coordRestartAt p h) (.refl s))
  have h₂ : Commanded s s₂ := h₁.trans (.moves true (.flush _))
  have h₃ : Commanded s s₃ := h₂.trans (.slack s₂ _ rfl rfl rfl)
  have h₄ : Commanded s s₄ := by
    simp only [s₄]
    clear_value s₃
    exact h₃.trans (.moves true (Moves.priorityRestart (Moves.clearWatch (.refl s₃))))
  clear_value s₄
  exact (h₄.trans (.selector s₄ s₄.ps.restart rfl)).trans (settled _)

theorem goSetup (s : State) : Commanded s (Machine.goSetup s).1 := by
  refine inMode s (fun u => ?_)
  have h := goSetupNow u
  dsimp only
  exact h

theorem coordRestart (s : State) : Commanded s (Machine.coordRestart s).1 := by
  refine inMode s (fun u => ?_)
  have h := coordRestartNow u
  dsimp only
  exact h

theorem transmitFrameDone (s : State) : Commanded s (transmitterRun { s with sli := s.sli.sent }) := by
  refine Commanded.trans (.supervisory s _ ?_ ?_) (transmit _)
  · unfold Supervisory.sent
    repeat' (first | exact fun h => h | split)
  · unfold Supervisory.sent
    split
    · exact fun h => h
    · exact fun h => h
    · exact fun h => by simp only [List.length_tail]; omega
    · exact fun h => h

/-! ### Requests that write or read one store -/

theorem setTime (n : Nat) (s : State) : Commanded s (Machine.setTime n s).1 := by
  unfold Machine.setTime
  repeat' (first | exact refl s | split)
  exact .clock s _ rfl rfl rfl

theorem setBeacon (n : Nat) (s : State) : Commanded s (Machine.setBeacon n s).1 := by
  unfold Machine.setBeacon
  repeat' (first | exact refl s | split)
  exact .clock s _ rfl rfl rfl

theorem setNoticeMask (n : Nat) (s : State) : Commanded s (Machine.setNoticeMask n s).1 := by
  unfold Machine.setNoticeMask
  repeat' (first | exact refl s | split)
  exact .supervisory s _ (fun h => h) (fun h => h)

theorem getPosition (n : Nat) (s : State) : Commanded s (Machine.getPosition n s).1 := by
  unfold Machine.getPosition
  repeat' (first | exact refl s | split)

theorem getLink (x : LinkName) (s : State) : Commanded s (Machine.getLink x s).1 := by
  unfold Machine.getLink
  repeat' (first | exact refl s | split)

theorem getPlatoons (x : LinkName) (s : State) : Commanded s (Machine.getPlatoons x s).1 := by
  unfold Machine.getPlatoons
  repeat' (first | exact refl s | split)

theorem setSlack (x : SlackFields) (s : State) : Commanded s (Machine.setSlack x s).1 := by
  unfold Machine.setSlack
  repeat' (first | exact refl s | split)
  exact .slack s _ rfl rfl rfl

theorem readRule (x : RuleQuery) (s : State) : Commanded s (Machine.readRule x s).1 := by
  unfold Machine.readRule
  repeat' (first | exact refl s | split)

theorem readAndZeroRule (n : Nat) (s : State) : Commanded s (Machine.readAndZeroRule n s).1 := by
  unfold Machine.readAndZeroRule
  repeat' (first | exact refl s | split)
  exact .router s _

theorem selectFree (n : Nat) (s : State) : Commanded s (Machine.selectFree n s).1 := by
  unfold Machine.selectFree
  repeat' (first | exact refl s | split)
  exact .selector s _ rfl

theorem selectPinned (n : Nat) (s : State) : Commanded s (Machine.selectPinned n s).1 := by
  unfold Machine.selectPinned
  repeat' (first | exact refl s | split)
  exact .selector s _ rfl

theorem selectResponsive (n : Nat) (s : State) : Commanded s (Machine.selectResponsive n s).1 := by
  unfold Machine.selectResponsive
  repeat' (first | exact refl s | split)
  exact .selector s _ rfl

theorem writeSelect (x : SelectFields) (s : State) : Commanded s (Machine.writeSelect x s).1 := by
  unfold Machine.writeSelect
  repeat' (first | exact refl s | split)
  exact .selector s _ rfl

theorem clearSelect (x : SelectClearFields) (s : State) : Commanded s (Machine.clearSelect x s).1 := by
  unfold Machine.clearSelect
  repeat' (first | exact refl s | split)
  exact .selector s _ rfl

theorem setQueueLimits (x : QueueLimitFields) (s : State) : Commanded s (Machine.setQueueLimits x s).1 := by
  unfold Machine.setQueueLimits
  repeat' (first | exact refl s | split)
  · exact .watch s _
  · exact .watch s _

theorem getQueue (n : Nat) (s : State) : Commanded s (Machine.getQueue n s).1 := by
  unfold Machine.getQueue
  repeat' (first | exact refl s | split)
  exact .watch s _

theorem setPriorityPolicy (x : PolicyFields) (s : State) : Commanded s (Machine.setPriorityPolicy x s).1 := by
  unfold Machine.setPriorityPolicy
  repeat' (first | exact refl s | split)
  exact .policy s _

/-! ### The mark -/

theorem finish (s : State) : Commanded s (Machine.finish s) := .moves true (Moves.finish (.refl s))

theorem deadline (s : State) : Commanded s (deadlineOn s) := .clock s _ rfl rfl rfl

theorem whenDue {due : State → Bool} {f : State → State} (s : State) (h : Commanded s (f s)) :
    Commanded s (Machine.whenDue due f s) := by
  unfold Machine.whenDue
  split
  · exact h.trans (finish _)
  · exact refl s

theorem markEvent (s : State) : Commanded s (Machine.markEvent s) := by
  obtain ⟨v, h, k⟩ := cycleMark_parts s
  exact whenDue s
    ((((Commanded.cycle (selectAtMark_selects s)).trans (.moves _ h)).trans (deadline v)).trans (.moves _ k))

theorem beaconEvent (s : State) : Commanded s (Machine.beaconEvent s) :=
  whenDue s ((deadline s).trans (.moves _ (beaconRound_moves s)))

theorem catchUp (s : State) : Commanded s (Machine.catchUp s) :=
  ((markEvent s).trans (beaconEvent _)).trans (.moves _ (catchUp_moves s))

end Commanded

/-! ### Events of an exchange -/

theorem onExchange_moves {f : Exchange → State → State} (s : State)
    (h : ∀ x, s.clc.line = .exchange x → Moves true true s (f x s)) : Moves true true s (onExchange f s) := by
  unfold onExchange
  split
  · next x hx => exact h x hx
  · exact .refl s

theorem inPhase_moves {phase : Phase} {f : Exchange → State → State} (s : State)
    (h : ∀ x, s.clc.line = .exchange x → x.phase = phase → Moves true true s (f x s)) : Moves true true s (inPhase phase f s) := by
  refine onExchange_moves s (fun x hx => ?_)
  split
  · next hp => exact h x hx hp
  · exact .refl s

theorem endBad_moves (phase : Phase) (s : State) : Moves true true s (inPhase phase (fun x s => finish (endBad x s)) s) :=
  inPhase_moves s (fun _ _ _ => Moves.finish (Moves.endBad _ (.refl s)))

theorem garbled_moves (s : State) : Moves true true s (inPhase .window garbled s) :=
  inPhase_moves s (fun x hl hp => Moves.garbled x hl hp (.refl s))

theorem status_moves (n : Nat) (r : StatusFields) (s : State) : Moves true true s (onReply .status n (statusReply r) s) := by
  refine Moves.onReply _ _ _ (fun g hg x p b t ht => ?_) (.refl s)
  unfold statusReply at hg
  split at hg
  · exact absurd hg (by simp)
  · split at hg
    · cases hg
      exact Moves.statusContents _ _ _ _ ht
    · exact absurd hg (by simp)

theorem identity_moves (n : Nat) (r : IdentityFields) (s : State) :
    Moves true true s (onReply .identity n (some (identityContents r)) s) := by
  refine Moves.onReply _ _ _ (fun g hg x p b t ht => ?_) (.refl s)
  cases hg
  unfold identityContents
  split
  · exact Moves.identityReply _ _ ht
  · exact ht

theorem heartbeat_moves (n : Nat) (s : State) :
    Moves true true s (onReply .heartbeat n (some (fun x p stood s => heartbeatContents p x.work stood s)) s) := by
  refine Moves.onReply _ _ _ (fun g hg x p b t ht => ?_) (.refl s)
  cases hg
  exact Moves.heartbeatContents _ _ _ ht

theorem ack_moves (n : Nat) (s : State) :
    Moves true true s (onReply .ack n (some (fun x p _ s => ackContents x p s)) s) := by
  refine Moves.onReply _ _ _ (fun g hg x p b t ht => ?_) (.refl s)
  cases hg
  change Moves true true s (ackContents x p t)
  unfold ackContents
  split
  · exact Moves.acked _ _ _ ht
  · exact ht

theorem nak_moves (n reason : Nat) (s : State) : Moves true true s (onReply .nak n (nakReply reason) s) := by
  refine Moves.onReply _ _ _ (fun g hg x p b t ht => ?_) (.refl s)
  unfold nakReply at hg
  split at hg
  · exact absurd hg (by simp)
  · next r _ =>
    cases hg
    change Moves true true s (nakContents r x p t)
    unfold nakContents
    split
    · exact Moves.naked _ _ _ _ ht
    · exact ht

/-! ### Every command -/

/-- Every command but the resets and the decisecond is a run of the changes of `Commanded`. -/
theorem exec_commanded {c : Instr} {s t : State} (h : exec c s = .next t) (hp : ∀ a b, c ≠ .powerOnReset a b)
    (hr : c ≠ .partResetActs) (ht : c ≠ .decisecondTick) : Commanded s t := by
  have ofMoves {u : State} (k : Moves true true s u) (e : Host.Outcome.next u = (.next t : Result)) : Commanded s t := by
    cases e
    exact .moves true k
  have of {u : State} (k : Commanded s u) (e : Host.Outcome.next u = (.next t : Result)) : Commanded s t := by
    cases e
    exact k
  cases c with
  | powerOnReset a b => exact absurd rfl (hp a b)
  | decisecondTick => exact absurd rfl ht
  | partResetActs => exact absurd rfl hr
  | cycleMark => exact of (Commanded.markEvent s) h
  | beaconDeadlineExpiry => exact of (Commanded.beaconEvent s) h
  | commandPoint p => exact ofMoves (Moves.commandPointEvent p (.refl s)) h
  | settleStampExpiry p => exact ofMoves (Moves.settleEvent p (.refl s)) h
  | windowCloseExpiry n => exact ofMoves (Moves.windowEvent n (.refl s)) h
  | approachSilenceExpiry p a => exact ofMoves (Moves.approachEvent p a (.refl s)) h
  | routeTimeout p => exact ofMoves (Moves.routeEvent p (.refl s)) h
  | retryDeadlineExpiry p => exact ofMoves (Moves.retryEvent p (.refl s)) h
  | reprobeDeadlineExpiry p => exact ofMoves (Moves.reprobeEvent p (.refl s)) h
  | probeDeadlineExpiry p => exact ofMoves (Moves.probeEvent p (.refl s)) h
  | quietTimerExpiry p => exact ofMoves (Moves.quietEvent p (.refl s)) h
  | lineSilenceExpiry => exact ofMoves (Moves.silenceEvent (.refl s)) h
  | lineBreakEnd => exact ofMoves (Moves.breakEvent (.refl s)) h
  | roundDeadlineExpiry => exact ofMoves (Moves.roundEvent (.refl s)) h
  | queueDrained => exact ofMoves (Moves.drainedEvent (.refl s)) h
  | commandFrameSent => exact ofMoves (onExchange_moves s (fun x _ => Moves.frameSent x (.refl s))) h
  | broadcastExchangeEnd => exact ofMoves (onExchange_moves s (fun x _ => Moves.broadcastEnd x (.refl s))) h
  | responseWindowExpiry => exact ofMoves (endBad_moves .window s) h
  | lineQuietExpiry => exact ofMoves (endBad_moves .quieting s) h
  | replyGarbled f => exact ofMoves (garbled_moves s) h
  | replyByteGapExpiry => exact ofMoves (garbled_moves s) h
  | status n r => exact ofMoves (status_moves n r s) h
  | identity n r => exact ofMoves (identity_moves n r s) h
  | heartbeat n => exact ofMoves (heartbeat_moves n s) h
  | ack n => exact ofMoves (ack_moves n s) h
  | nak n r => exact ofMoves (nak_moves n r s) h
  | commitComplete => exact of ((Commanded.commitDone s).trans (Commanded.transmit _)) h
  | eraseComplete => exact of ((Commanded.eraseDone s).trans (Commanded.transmit _)) h
  | supRxGapExpiry r => exact of (Commanded.receiver s _) h
  | supRxFrameAbandoned r => exact of (Commanded.receiver s _) h
  | frameError => exact of (Commanded.onFrame s (Commanded.reply _)) h
  | unknownKind k => exact of (Commanded.onFrame s (Commanded.reply _)) h
  | transmitFrameDone => exact of (Commanded.transmitFrameDone s) h
  | goLive b => exact of (Commanded.onRequest b s Commanded.goLive) h
  | goSetup b => exact of (Commanded.onRequest b s (fun _ => Commanded.goSetup)) h
  | partReset b =>
    exact of (Commanded.onRequest b s
      (fun _ u => .supervisory u { u.sli with resetPending := true } (fun h => h) (fun h => h))) h
  | coordRestart b => exact of (Commanded.onRequest b s (fun _ => Commanded.coordRestart)) h
  | getPartStatus b => exact of (Commanded.onRequest b s (fun _ u => .refl u)) h
  | setNoticeMask b => exact of (Commanded.onRequest b s Commanded.setNoticeMask) h
  | setTime b => exact of (Commanded.onRequest b s Commanded.setTime) h
  | getTime b => exact of (Commanded.onRequest b s (fun _ u => .refl u)) h
  | setBeacon b => exact of (Commanded.onRequest b s Commanded.setBeacon) h
  | setPosition b => exact of (Commanded.onRequest b s Commanded.setPosition) h
  | clearPosition b => exact of (Commanded.onRequest b s Commanded.clearPosition) h
  | getPosition b => exact of (Commanded.onRequest b s Commanded.getPosition) h
  | reIdentify b => exact of (Commanded.onRequest b s Commanded.reIdentify) h
  | rejoin b => exact of (Commanded.onRequest b s Commanded.rejoin) h
  | setLink b => exact of (Commanded.onRequest b s Commanded.setLink) h
  | getLink b => exact of (Commanded.onRequest b s Commanded.getLink) h
  | getPlatoons b => exact of (Commanded.onRequest b s Commanded.getPlatoons) h
  | setSlack b => exact of (Commanded.onRequest b s Commanded.setSlack) h
  | setTransitionLimits b => exact of (Commanded.onRequest b s Commanded.setTransitionLimits) h
  | setRule b => exact of (Commanded.onRequest b s Commanded.setRule) h
  | clearRule b => exact of (Commanded.onRequest b s Commanded.clearRule) h
  | getRuleRead b => exact of (Commanded.onRequest b s Commanded.readRule) h
  | getRuleReadAndZero b => exact of (Commanded.onRequest b s Commanded.readAndZeroRule) h
  | stageOpenBlank b => exact of (Commanded.onRequest b s Commanded.openBlank) h
  | stageOpenCopy b => exact of (Commanded.onRequest b s Commanded.openCopy) h
  | stageHeader b => exact of (Commanded.onRequest b s Commanded.stageHeader) h
  | stageSeek b => exact of (Commanded.onRequest b s Commanded.stageSeek) h
  | stageEntryWrite b => exact of (Commanded.onRequest b s Commanded.stageEntryWrite) h
  | stageEntryClear b => exact of (Commanded.onRequest b s Commanded.stageEntryClear) h
  | stageRead b => exact of (Commanded.onRequest b s (fun _ => Commanded.stageRead)) h
  | stageDiscard b => exact of (Commanded.onRequest b s (fun _ => Commanded.stageDiscard)) h
  | commitPlan b => exact of (Commanded.onRequest b s (fun _ => Commanded.commitPlan)) h
  | erasePlan b => exact of (Commanded.onRequest b s Commanded.erasePlan) h
  | getSlot b => exact of (Commanded.onRequest b s Commanded.getSlot) h
  | setSelectModeFree b => exact of (Commanded.onRequest b s Commanded.selectFree) h
  | setSelectModePinned b => exact of (Commanded.onRequest b s Commanded.selectPinned) h
  | setSelectModeResponsive b => exact of (Commanded.onRequest b s Commanded.selectResponsive) h
  | setSelectEntryWrite b => exact of (Commanded.onRequest b s Commanded.writeSelect) h
  | setSelectEntryClear b => exact of (Commanded.onRequest b s Commanded.clearSelect) h
  | getSelection b => exact of (Commanded.onRequest b s (fun _ u => .refl u)) h
  | setQueueLimits b => exact of (Commanded.onRequest b s Commanded.setQueueLimits) h
  | getQueue b => exact of (Commanded.onRequest b s Commanded.getQueue) h
  | setPriorityPolicy b => exact of (Commanded.onRequest b s Commanded.setPriorityPolicy) h
  | getPreemption b => exact of (Commanded.onRequest b s (fun _ u => .refl u)) h
  | cancelRoute b => exact of (Commanded.onRequest b s Commanded.cancelRoute) h

end Sys2Proof.Machine
end

