-- ==== Sys2Proof/Laws/Fields.lean ====
section
/-! SUPPORT. What the fields of a request name: the numbers of positions, slots, places, segments, rules, and the first
failing check. -/

namespace Sys2Proof.Machine

theorem posOf_number (p : Pos) : posOf (p.val + 1) = some p := by
  unfold posOf
  rw [dif_pos (by have := p.isLt; omega)]
  rfl

theorem posOf_outside {n : Nat} (h : n = 0 ∨ 12 < n) : posOf n = none := by
  unfold posOf
  rw [dif_neg]
  omega

theorem slotOf_number (i : SlotIx) : slotOf (i.val + 1) = some i := by
  unfold slotOf
  rw [dif_pos (by have := i.isLt; omega)]
  rfl

theorem slotOf_outside {n : Nat} (h : n = 0 ∨ 24 < n) : slotOf n = none := by
  unfold slotOf
  rw [dif_neg]
  omega

theorem selectOf_number (i : SelectIx) : selectOf (i.val + 1) = some i := by
  unfold selectOf
  rw [dif_pos (by have := i.isLt; omega)]
  rfl

theorem selectOf_outside {n : Nat} (h : n = 0 ∨ 8 < n) : selectOf n = none := by
  unfold selectOf
  rw [dif_neg]
  omega

theorem selectOf_inside {n : Nat} (h : 1 ≤ n) (h' : n ≤ 8) : ∃ i, selectOf n = some i := by
  unfold selectOf
  rw [dif_pos ⟨h, h'⟩]
  exact ⟨_, rfl⟩

theorem ruleOf_number (i : RuleIx) : ruleOf (i.val + 1) = some i := by
  unfold ruleOf
  rw [dif_pos (by have := i.isLt; omega)]
  rfl

theorem ruleOf_outside {n : Nat} (h : n = 0 ∨ 48 < n) : ruleOf n = none := by
  unfold ruleOf
  rw [dif_neg]
  omega

theorem segmentOf_number (k : Segment) : segmentOf (k.val + 1) = some k := by
  unfold segmentOf
  rw [dif_pos (by have := k.isLt; omega)]
  rfl

theorem segmentOf_outside {n : Nat} (h : n = 0 ∨ 11 < n) : segmentOf n = none := by
  unfold segmentOf
  rw [dif_neg]
  omega

theorem segmentOf_inside {n : Nat} (h : 1 ≤ n) (h' : n ≤ 11) : ∃ k, segmentOf n = some k := by
  unfold segmentOf
  rw [dif_pos ⟨h, h'⟩]
  exact ⟨_, rfl⟩

theorem mem_positions (p : Pos) : p ∈ positions := by fin_cases p <;> simp [positions]

/-- A failing check carries one of the numbers listed. -/
theorem firstBad_range {l : List (Nat × Bool)} {lo hi f : Nat} (h : ∀ x ∈ l, lo ≤ x.1 ∧ x.1 ≤ hi)
    (hf : firstBad l = some f) : lo ≤ f ∧ f ≤ hi := by
  induction l with
  | nil => simp [firstBad] at hf
  | cons x l ih =>
    obtain ⟨a, b⟩ := x
    simp only [firstBad] at hf
    split at hf
    · exact ih (fun x hx => h x (by simp [hx])) hf
    · cases hf
      exact h _ List.mem_cons_self

/-- A request taken whole whose rule leaves the receiver and the reply slot as the frame found them. -/
theorem onRequest_done {α : Type} {k : RequestKind} {x : α} {handle : α → State → State × Answer} {s t : State}
    {a : Answer} (h : Ready s) (hr : handle x (frameTaken s) = (frameTaken t, a)) :
    onRequest k (.fields x) handle s = t.answered k a := by
  rw [onRequest_result h hr]
  rfl

end Sys2Proof.Machine
end

