-- ==== Sys2Proof/Laws/Frames.lean ====
section
/-! SUPPORT. Reading back what the frames of the Supervisory Line hold: fields, bodies, and the frame as the receiver takes
it. -/

namespace Sys2Proof.Machine

/-! ### Fields -/

theorem fieldBytes_length (w n : Nat) : (fieldBytes w n).length = w := by
  induction w with
  | zero => rfl
  | succ w ih => simp [fieldBytes, ih]

theorem foldl_fieldBytes (w n acc : Nat) :
    (fieldBytes w n).foldl (fun n b => n * 256 + b.toNat) acc = acc * 256 ^ w + n % 256 ^ w := by
  induction w generalizing acc with
  | zero => simp [fieldBytes, Nat.mod_one]
  | succ w ih =>
    simp only [fieldBytes, List.foldl_cons, ih, BitVec.toNat_ofNat, show (2 : Nat) ^ 8 = 256 from rfl]
    have h : n % 256 ^ (w + 1) = 256 ^ w * (n / 256 ^ w % 256) + n % 256 ^ w := by
      rw [pow_succ, Nat.mod_mul, Nat.add_comm]
    rw [h]
    ring

/-- A field that its bytes can hold reads back. -/
theorem fieldValue_fieldBytes {w n : Nat} (h : n < 256 ^ w) : fieldValue (fieldBytes w n) = n := by
  unfold fieldValue
  rw [foldl_fieldBytes, Nat.zero_mul, Nat.zero_add, Nat.mod_eq_of_lt h]

/-- A body reads back field by field. -/
theorem readFields_bodyBytes (fields : List Field) (h : ∀ f ∈ fields, f.value < 256 ^ f.width) :
    readFields (fields.map Field.width) (bodyBytes fields) = some (fields.map Field.value) := by
  induction fields with
  | nil => rfl
  | cons f fields ih =>
    have hb : bodyBytes (f :: fields) = fieldBytes f.width f.value ++ bodyBytes fields := rfl
    have hl := fieldBytes_length f.width f.value
    have hr := ih (fun g hg => h g (List.mem_cons_of_mem _ hg))
    simp only [List.map_cons, readFields, hb]
    rw [if_neg (by simp [hl]), List.drop_left' hl, List.take_left' hl, hr,
      fieldValue_fieldBytes (h f List.mem_cons_self)]
    rfl

theorem bodyBytes_length (fields : List Field) : (bodyBytes fields).length = (fields.map Field.width).sum := by
  induction fields with
  | nil => rfl
  | cons f fields ih =>
    have hb : bodyBytes (f :: fields) = fieldBytes f.width f.value ++ bodyBytes fields := rfl
    rw [hb, List.length_append, ih, fieldBytes_length]
    rfl

/-- A body of the layout `widths` whose figures fit gives its fields. -/
theorem readBody_bodyBytes {α : Type} {make : List Nat → Option α} {x : α} (fields : List Field)
    (h : ∀ f ∈ fields, f.value < 256 ^ f.width) (hm : make (fields.map Field.value) = some x) :
    readBody (fields.map Field.width) make (bodyBytes fields) = .fields x := by
  unfold readBody
  rw [readFields_bodyBytes fields h, Option.bind_some, hm]

/-! ### Frames -/

/-- The receiver in state BODY keeps the bytes up to the body's length. -/
theorem receiveBytes_body (n : Nat) (kind : Byte) (done rest tail : List Byte) (h : rest ≠ [])
    (hn : done.length + rest.length = n) :
    receiveBytes { state := .body, length := n, kind := kind, body := done, check := [] } (rest ++ tail) =
      receiveBytes { state := .check, length := n, kind := kind, body := done ++ rest, check := [] } tail := by
  induction rest generalizing done with
  | nil => exact absurd rfl h
  | cons b rest ih =>
    by_cases hr : rest = []
    · subst hr
      have hge : (done ++ [b]).length ≥ n := by simpa using Nat.le_of_eq hn.symm
      simp only [List.cons_append, List.nil_append, receiveBytes, receiveByte, Receiver.take]
      rw [if_pos hge]
    · have hlt : ¬ (done ++ [b]).length ≥ n := by
        have := List.length_pos_iff.mpr hr
        simp only [List.length_cons, List.length_append, List.length_nil] at *
        omega
      have step := ih (done ++ [b]) hr (by simp only [List.length_cons, List.length_append, List.length_nil] at *; omega)
      simp only [List.cons_append, receiveBytes, receiveByte, Receiver.take]
      rw [if_neg hlt]
      simpa using step

/-- The receiver takes a whole frame as the command that it makes, and no other. -/
theorem receiveBytes_frame (code : Nat) (body : List Byte) (h : body.length ≤ 250) :
    receiveBytes Receiver.hunt (supervisoryFrame code body) =
      [commandOfFrame (BitVec.ofNat 8 code) body (frameCheck (BitVec.ofNat 8 code) body)] := by
  have hc : ∃ a b, frameCheck (BitVec.ofNat 8 code) body = [a, b] := ⟨_, _, rfl⟩
  obtain ⟨a, b, hc⟩ := hc
  have hlen : (BitVec.ofNat 8 body.length : Byte).toNat = body.length := by
    rw [BitVec.toNat_ofNat, Nat.mod_eq_of_lt (by omega)]
  have tail : ∀ done : List Byte,
      receiveBytes { state := .check, length := body.length, kind := BitVec.ofNat 8 code, body := done, check := [] } [a, b] =
        [commandOfFrame (BitVec.ofNat 8 code) done [a, b]] := fun _ => rfl
  have head : receiveBytes Receiver.hunt (supervisoryFrame code body) =
      receiveBytes { state := if body.length = 0 then .check else .body, length := body.length,
                     kind := BitVec.ofNat 8 code, body := [], check := [] } (body ++ [a, b]) := by
    simp only [supervisoryFrame, hc, List.cons_append, receiveBytes, receiveByte, Receiver.take, Receiver.hunt, if_true]
    rw [hlen, show Config.supervisoryBodyLimit = 250 from rfl, if_pos h]
  rw [head, hc]
  by_cases hb : body = []
  · subst hb
    exact tail []
  · have hn : ¬ body.length = 0 := fun hl => hb (List.length_eq_zero_iff.mp hl)
    rw [if_neg hn, receiveBytes_body _ _ [] body _ hb (by simp), List.nil_append]
    exact tail body

/-- The frame of a request code, byte for byte, is read as the request of that code. -/
theorem receiveBytes_request (k : RequestKind) (body : List Byte) (h : body.length ≤ 250) :
    receiveBytes Receiver.hunt (supervisoryFrame (requestCode k) body) = [readRequest k body] := by
  rw [receiveBytes_frame _ _ h]
  unfold commandOfFrame
  rw [if_neg (fun hne => hne rfl)]
  cases k <;> rfl

end Sys2Proof.Machine
end

