-- ==== Sys2Proof/Laws/Outcomes.lean ====
section
/-! SUPPORT. What an event of the Corridor Line meets: exchanges in a phase, replies, the outcome at Identification and Health. -/

namespace Sys2Proof.Machine

/-- An event of the exchange in progress. -/
theorem onExchange_of {f : Exchange → State → State} {s : State} {x : Exchange} (hl : s.clc.line = .exchange x) :
    onExchange f s = f x s := by
  unfold onExchange
  rw [hl]

/-- An event of an exchange in its phase. -/
theorem inPhase_of {phase : Phase} {f : Exchange → State → State} {s : State} {x : Exchange}
    (hl : s.clc.line = .exchange x) (hp : x.phase = phase) : inPhase phase f s = f x s := by
  unfold inPhase
  rw [onExchange_of hl, if_pos hp]

/-- A reply that the exchange does not expect, or that comes from another address, or whose codes are outside their sets. -/
theorem onReply_garbles {s : State} {x : Exchange} {p : Pos} (h : awaiting s x p) {k : ReplyKind} {n : Nat}
    {f : Option Contents} (hf : n ≠ x.address ∨ expects x.work k = false ∨ f = none) :
    onReply k n f s = garbled x s := by
  obtain ⟨hl, hp, hx⟩ := h
  unfold onReply
  rw [hl]
  dsimp only
  rw [hp, hx]
  dsimp only
  split
  · next hc =>
    rcases hf with h | h | h
    · exact absurd hc.1 h
    · exact absurd hc.2 (by simp [h])
    · rw [h]
  · rfl

/-- A reply that settles the outcome GOOD. -/
theorem onReply_good {s : State} {x : Exchange} {p : Pos} (h : awaiting s x p) {k : ReplyKind} {n : Nat}
    {f : Contents} (hn : n = x.address) (he : expects x.work k = true) :
    onReply k n (some f) s = finish (endGood x p (f x p) s) := by
  obtain ⟨hl, hp, hx⟩ := h
  unfold onReply
  rw [hl]
  dsimp only
  rw [hp, hx]
  dsimp only
  rw [if_pos ⟨hn, he⟩]

/-- A reply that comes while no response window is open has no effect. -/
theorem onReply_closed {s : State} (h : ∀ x, s.clc.line = .exchange x → x.phase ≠ .window) (k : ReplyKind) (n : Nat)
    (f : Option Contents) : onReply k n f s = s := by
  unfold onReply
  split
  · next x hx =>
    have hw := h x hx
    cases hp : x.phase <;> simp_all
  · rfl

/-- With nothing queued and nothing due, the arbiter begins nothing. -/
theorem settleLine_nothing {s : State} (hq : s.clc.queue = []) (hd : ∀ p, s.clc.due.get p = none) :
    settleLine s = followSilence (dropDue s) := by
  have hb : dropBeacon s = s := by
    unfold dropBeacon
    split
    · rfl
    · have hf : s.clc.queue.filter (fun e => !(e.command == LineCommand.beacon)) = s.clc.queue := by simp [hq]
      exact congrArg s.withQueue hf
  have hn : nextDue (followSilence (dropDue s)) = none := by
    have : ∀ p, (followSilence (dropDue s)).clc.due.get p = none := by
      intro p
      change (dropDue s).clc.due.get p = none
      unfold dropDue
      simp only [get_ofFn]
      split
      · exact hd p
      · rfl
    simp [nextDue, positions, this]
  have hc : choose (followSilence (dropDue s)) = .nothing := by
    have hq' : (followSilence (dropDue s)).clc.queue = [] := hq
    unfold choose overduePoll
    rw [hn, hq']
  unfold settleLine
  rw [hb]
  unfold arbiterRun
  rw [hc]
  split <;> rfl

/-! ### The outcome at Identification and Health -/

/-- From `s` to `t` by an outcome at position `p` that begins no other report: only the scores, the silence deadline, the last
GOOD exchange and the notices differ. -/
structure Scored (p : Pos) (s t : State) : Prop where
  pending : t.pending = s.pending
  ctb : t.ctb = s.ctb
  oc : t.oc = s.oc
  pt : t.pt = s.pt
  qw : t.qw = s.qw
  pm : t.pm = s.pm
  pl : t.pl = s.pl
  ps : t.ps = s.ps
  clc : t.clc = s.clc
  er : t.er = s.er
  config : t.config = s.config
  ident : t.ih.ident = s.ih.ident
  wasAbsent : t.ih.wasAbsent = s.ih.wasAbsent
  lineResets : t.ih.lineResets = s.ih.lineResets
  others : ∀ q, q ≠ p → t.health q = s.health q
  mode : t.sli.mode = s.sli.mode

theorem health_withHealth (s : State) (p q : Pos) (f : Health → Health) :
    (s.withHealth p f).health q = if p = q then f (s.health p) else s.health q := by
  change (update s.ih.health p f).get q = _
  simp
  rfl

theorem ident_withIdent (s : State) (p q : Pos) (f : Ident → Ident) :
    (s.withIdent p f).ident q = if p = q then f (s.ident p) else s.ident q := by
  change (update s.ih.ident p f).get q = _
  simp
  rfl

theorem coord_withCoord (s : State) (p q : Pos) (f : Coord → Coord) :
    (s.withCoord p f).coord q = if p = q then f (s.coord p) else s.coord q := by
  change (update s.oc.positions p f).get q = _
  simp
  rfl

theorem Scored.withHealth (s : State) (p : Pos) (f : Health → Health) : Scored p s (s.withHealth p f) := by
  constructor <;> try rfl
  intro q hq
  rw [health_withHealth, if_neg (Ne.symm hq)]

theorem Scored.trans {p : Pos} {a b c : State} (h : Scored p a b) (k : Scored p b c) : Scored p a c := by
  constructor
  · exact k.pending.trans h.pending
  · exact k.ctb.trans h.ctb
  · exact k.oc.trans h.oc
  · exact k.pt.trans h.pt
  · exact k.qw.trans h.qw
  · exact k.pm.trans h.pm
  · exact k.pl.trans h.pl
  · exact k.ps.trans h.ps
  · exact k.clc.trans h.clc
  · exact k.er.trans h.er
  · exact k.config.trans h.config
  · exact k.ident.trans h.ident
  · exact k.wasAbsent.trans h.wasAbsent
  · exact k.lineResets.trans h.lineResets
  · exact fun q hq => (k.others q hq).trans (h.others q hq)
  · exact k.mode.trans h.mode

theorem Scored.notice (p : Pos) (b : NoticeBody) (s : State) : Scored p s (raiseNotice b s) := by
  constructor <;> try first | rfl | exact fun _ _ => rfl
  change (s.sli.offered s.ctb.timeOfDay b).mode = _
  unfold Supervisory.offered
  repeat' (first | rfl | split)

theorem Scored.setHealth (p : Pos) (x : HealthState) (c : HealthCause) (s : State) : Scored p s (setHealth p x c s) :=
  (Scored.withHealth s p _).trans (.notice p _ _)

theorem setHealth_health (p : Pos) (x : HealthState) (c : HealthCause) (s : State) :
    (setHealth p x c s).health p = { s.health p with state := x } := by
  change (s.withHealth p (fun h => { h with state := x })).health p = _
  rw [health_withHealth, if_pos rfl]

/-- The health state that follows new figures when nothing is cut off (R152). -/
def followedState (h : Health) : HealthState :=
  match h.state with
  | .sound => if 64 ≤ h.score then .degraded else .sound
  | .degraded => if h.score < 48 then .sound else .degraded
  | .cutOff => .cutOff

theorem followScore_scored {p : Pos} {s : State} (h : cutOffCause s p = none) :
    Scored p s (followScore p s) ∧
      (followScore p s).health p = { s.health p with state := followedState (s.health p) } ∧
      (followScore p s).ih.lastGood = s.ih.lastGood ∧ (followScore p s).ih.silence = s.ih.silence := by
  have hid : Scored p s s := by constructor <;> first | rfl | exact fun _ _ => rfl
  unfold followScore
  rw [h]
  dsimp only
  split
  · next hd => exact ⟨.setHealth _ _ _ _, by
      rw [setHealth_health]
      simp only [Config.degradedScore] at hd
      simp [followedState, hd.1, hd.2], rfl, rfl⟩
  · next h1 =>
    split
    · next hd => exact ⟨.setHealth _ _ _ _, by
        rw [setHealth_health]
        simp only [Config.soundScore] at hd
        simp [followedState, hd.1, hd.2], rfl, rfl⟩
    · next h2 =>
      refine ⟨hid, ?_, rfl, rfl⟩
      have : followedState (s.health p) = (s.health p).state := by
        simp only [Config.degradedScore, Config.soundScore] at h1 h2
        unfold followedState
        split <;> next hs => simp_all
      rw [this]

/-- When the CUT-OFF test passes a position by (R152). -/
theorem cutOffCause_none {s : State} {p : Pos} :
    cutOffCause s p = none ↔
      (s.health p).state = .cutOff ∨ (s.ident p).state ≠ .identified ∨
        ((s.health p).failures ≠ 3 ∧ (s.health p).score < 160) := by
  unfold cutOffCause
  dsimp only
  split
  · next h => simp only [true_iff]; exact h.imp id Or.inl
  · next h =>
    rw [not_or] at h
    split
    · next h3 => simp [h3, h.1, h.2]
    · next h3 =>
      split
      · next hs =>
        have : 160 ≤ (s.health p).score := hs
        simp only [reduceCtorEq, false_iff, not_or, not_and]
        exact ⟨h.1, h.2, fun _ => by omega⟩
      · next hs =>
        have : (s.health p).score < 160 := not_le.mp hs
        simp [h3, this]

/-- The figures after a GOOD outcome (R152). -/
theorem takeOutcome_good {p : Pos} {s : State} (h : (s.health p).state = .cutOff ∨ (s.health p).score < 160) :
    Scored p s (takeOutcome p true s) ∧
      (takeOutcome p true s).health p =
        { s.health p with score := (s.health p).score - 1, failures := 0,
                          state := followedState { s.health p with score := (s.health p).score - 1 } } ∧
      (takeOutcome p true s).ih.lastGood = some s.now ∧
      (takeOutcome p true s).ih.silence = s.ih.silence.map (fun _ => later s.now 25) := by
  have h0 : Scored p s (noteGood s) := by constructor <;> first | rfl | exact fun _ _ => rfl
  have h1 := h0.trans (.withHealth (noteGood s) p (fun h => h.scored true))
  have hh : ((noteGood s).withHealth p (fun h => h.scored true)).health p =
      { s.health p with score := (s.health p).score - 1, failures := 0 } := by
    rw [health_withHealth, if_pos rfl]
    rfl
  have hc : cutOffCause ((noteGood s).withHealth p (fun h => h.scored true)) p = none := by
    rw [cutOffCause_none, hh]
    dsimp only
    rcases h with h | h
    · exact .inl h
    · exact .inr (.inr ⟨by decide, by omega⟩)
  have h2 := followScore_scored hc
  unfold takeOutcome
  dsimp only
  rw [if_pos rfl]
  refine ⟨h1.trans h2.1, ?_, h2.2.2.1, h2.2.2.2⟩
  rw [h2.2.1, hh]
  rfl

/-- A GOOD exchange that was no probe: the entry leaves, the outcome is taken, then the reply is handled. -/
theorem endGood_plain {x : Exchange} {p : Pos} {f : Bool → State → State} {s : State}
    (h : ∀ route, x.work ≠ .command .probePoll route) :
    endGood x p f s =
      f (onLineEntry s).isSome (takeOutcome p true (takeOffLine { s with clc := s.clc.released })) := by
  have hp : standingProbe x s = false := by
    unfold standingProbe
    split
    · next r hr => exact absurd hr (h r)
    · rfl
  unfold endGood
  dsimp only
  rw [hp]
  rfl

end Sys2Proof.Machine
end

