-- ==== Sys2Proof/Laws/Offers.lean ====
section
/-! SUPPORT. What an offer to the Link Command Queue does and leaves: who is accepted, and that nothing else is touched but a
retry deadline. -/

namespace Sys2Proof.Machine

/-- From `s` to `t` by offers, withdrawals and retry deadlines: the queue and retry deadlines apart, nothing differs. -/
structure Offered (s t : State) : Prop where
  pending : t.pending = s.pending
  ctb : t.ctb = s.ctb
  oc : t.oc = s.oc
  pt : t.pt = s.pt
  qw : t.qw = s.qw
  pm : t.pm = s.pm
  pl : t.pl = s.pl
  ps : t.ps = s.ps
  er : t.er = s.er
  sli : t.sli = s.sli
  config : t.config = s.config
  accepted : t.clc.accepted = s.clc.accepted
  outcomes : LeavesOutcomes s t

theorem Offered.rfl' (s : State) : Offered s s := by constructor <;> first | rfl | exact .rfl' s

theorem Offered.trans {a b c : State} (h : Offered a b) (k : Offered b c) : Offered a c := by
  constructor
  · exact k.pending.trans h.pending
  · exact k.ctb.trans h.ctb
  · exact k.oc.trans h.oc
  · exact k.pt.trans h.pt
  · exact k.qw.trans h.qw
  · exact k.pm.trans h.pm
  · exact k.pl.trans h.pl
  · exact k.ps.trans h.ps
  · exact k.er.trans h.er
  · exact k.sli.trans h.sli
  · exact k.config.trans h.config
  · exact k.accepted.trans h.accepted
  · exact h.outcomes.trans k.outcomes

theorem Offered.queue (s : State) (q : List QueueEntry) : Offered s (s.withQueue q) := by
  constructor <;> first | rfl | (constructor <;> rfl)

theorem Offered.withdraw (w : QueueEntry → Bool) (s : State) : Offered s (withdraw w s) := .queue s _

theorem Offered.setRetry (p : Pos) (s : State) : Offered s (setRetry p s) := by
  constructor <;> first | rfl | (constructor <;> rfl)

theorem Offered.evicted (e : QueueEntry) (s : State) : Offered s (evicted e s) := by
  unfold Machine.evicted
  split
  · exact .setRetry _ s
  · exact .setRetry _ s
  · exact .rfl' s

theorem Offered.offerEntry (e : QueueEntry) (s : State) : Offered s (offerEntry e s).1 := by
  unfold Machine.offerEntry
  dsimp only
  split
  · exact .rfl' s
  · split
    · exact .rfl' s
    · split
      · exact .queue s _
      · split
        · exact .queue s _
        · split
          · exact .rfl' s
          · split
            · exact .rfl' s
            · exact (Offered.queue s _).trans (.evicted _ _)

theorem Offered.offerTo (c : LineCommand) (p : Pos) (r : Option RouteRef) (s : State) : Offered s (offerTo c p r s).1 := by
  unfold Machine.offerTo
  split
  · exact .rfl' s
  · exact .offerEntry _ s

theorem Offered.offerIdentify (p : Pos) (s : State) : Offered s (offerIdentify p s) := by
  unfold Machine.offerIdentify
  dsimp only
  split
  · exact .offerTo _ _ _ s
  · exact (Offered.offerTo _ _ _ s).trans (.setRetry _ _)

theorem Offered.offerQuiet (p : Pos) (s : State) : Offered s (offerQuiet p s) := by
  unfold Machine.offerQuiet
  dsimp only
  split
  · exact .offerTo _ _ _ s
  · exact (Offered.offerTo _ _ _ s).trans (.setRetry _ _)

/-- An entry that takes no entry's place joins a queue that is open and has room. -/
theorem offerEntry_joins {e : QueueEntry} {s : State} (ho : offerOpen s e.command = true) (hc : e.command ≠ .runLocal)
    (hr : s.clc.queue.any (replaces e.command e.position) = false) (hl : s.clc.queue.length < 24) :
    offerEntry e s = (s.withQueue (joinQueue e s.clc.queue), true) := by
  unfold offerEntry
  dsimp only
  rw [if_neg (by simp [ho]), if_neg (by simp [hc]), if_neg (by simp [hr]),
    if_pos (show s.clc.queue.length < Config.queueCapacity from hl)]

/-- A command for a configured position that takes no entry's place joins a queue that is open and has room. -/
theorem offerTo_joins {c : LineCommand} {p : Pos} {r : Option RouteRef} {s : State} {cfg : PositionConfig}
    (hg : s.config.get p = some cfg) (ho : offerOpen s c = true) (hc : c ≠ .runLocal)
    (hr : s.clc.queue.any (replaces c (some p)) = false) (hl : s.clc.queue.length < 24) :
    offerTo c p r s =
      (s.withQueue (joinQueue
        { command := c, address := cfg.address, position := some p, route := r, joined := s.now, attempts := 0,
          onLine := false } s.clc.queue), true) := by
  unfold offerTo
  rw [hg]
  exact offerEntry_joins ho hc hr hl

/-- A command that takes the place of no other. -/
theorem any_replaces_none {c : LineCommand} {p : Option Pos} {q : List QueueEntry}
    (h : c = .identify ∨ c = .probePoll) : q.any (replaces c p) = false := by
  rw [List.any_eq_false]
  intro e _
  rcases h with rfl | rfl <;> simp [replaces]

/-- A RUN-LOCAL for a configured position stands in the queue once it is offered to one that is open, has room and holds no
QUIET for the position (R16, R137, R138). -/
theorem offerTo_runLocal {p : Pos} {r : Option RouteRef} {s : State} (ho : offerOpen s .runLocal = true)
    (hg : s.config.get p ≠ none) (hl : s.clc.queue.length < Config.queueCapacity)
    (hq : ∀ e ∈ s.clc.queue, e.position = some p → e.command ≠ .quiet) :
    runLocalQueued (offerTo .runLocal p r s).1 p := by
  obtain ⟨cfg, hc⟩ := Option.ne_none_iff_exists'.mp hg
  have hn : ¬ s.clc.queue.any (fun x => x.command == .quiet && x.position == some p) := by
    simp only [List.any_eq_true, Bool.and_eq_true, beq_iff_eq]
    rintro ⟨e, he, h₁, h₂⟩
    exact hq e he h₂ h₁
  unfold offerTo offerEntry
  simp only [hc]
  rw [if_neg (by simp [ho]), if_neg (fun h => hn h.2), if_pos hl]
  split
  · exact ⟨_, mem_joinQueue.mpr (.inl rfl), rfl, rfl⟩
  · exact ⟨_, mem_joinQueue.mpr (.inl rfl), rfl, rfl⟩

/-- A coordinated position that goes to LOCAL has its RUN-LOCAL queued where it fits (R16). -/
theorem leaveToLocal_runLocal {p : Pos} {reason : LocalReason} {s : State} (h : runLocalFits s p 1) :
    runLocalQueued (leaveToLocal p reason true s) p := by
  obtain ⟨hm, hg, hl, hq⟩ := h
  unfold leaveToLocal
  dsimp only
  rw [if_pos rfl]
  apply offerTo_runLocal
  · simp [offerOpen, State.isLive, notePosition, withdrawTiming, withdraw, State.withQueue, hm]
  · simpa [notePosition, withdrawTiming, withdraw, State.withQueue] using hg
  · simp [notePosition, withdrawTiming, withdraw, State.withQueue]
    exact Nat.lt_of_le_of_lt (List.length_filter_le _ _) (Nat.lt_of_succ_le hl)
  · simp only [notePosition, raiseNotice_clc, withdrawTiming, withdraw, State.withQueue]
    exact fun e he => hq e (List.mem_of_mem_filter he)

/-- In LIVE every command may be offered. -/
theorem offerOpen_live {s : State} (h : s.isLive = true) (c : LineCommand) : offerOpen s c = true := by
  simp [offerOpen, h]

end Sys2Proof.Machine
end

