-- ==== Sys2Proof/Laws/Reports.lean ====
section
/-! SUPPORT. What a STATUS that answers a scheduled poll does, step by step: its outcome, its records, the record delivered. -/

namespace Sys2Proof.Machine

/-- The state in which steps 3 to 6 of R133 find a polled position: the line released, the entry of the exchange gone, the
outcome GOOD taken and the summary replaced. -/
def beforeStatus (p : Pos) (reply : StatusFields) (stage : SignalStage) (s : State) : State :=
  setSummary p (some (statusFigures reply stage)) (takeOutcome p true (takeOffLine { s with clc := s.clc.released }))

/-- What stands before the steps: only the line, the queue, the summary and the figures of the outcome have changed. -/
theorem beforeStatus_kept {p : Pos} {reply : StatusFields} {stage : SignalStage} {s : State} (h : (s.health p).score < 160) :
    let t := beforeStatus p reply stage s
    t.ctb = s.ctb ∧ t.oc = s.oc ∧ t.pt = s.pt ∧ t.qw = s.qw ∧ t.pm = s.pm ∧ t.pl = s.pl ∧ t.ps = s.ps ∧ t.er = s.er ∧
      t.config = s.config ∧ t.ih.ident = s.ih.ident ∧ t.clc.accepted = s.clc.accepted ∧ t.sli.mode = s.sli.mode ∧
      (t.health p).state = followedState { s.health p with score := (s.health p).score - 1 } ∧
      (t.health p).quietTimer = (s.health p).quietTimer ∧ t.clc.queue = s.clc.queue.filter (fun e => !e.onLine) := by
  have hg := takeOutcome_good (p := p) (s := takeOffLine { s with clc := s.clc.released }) (.inr h)
  have hs := hg.1
  have hh := hg.2.1
  exact ⟨hs.ctb, hs.oc, hs.pt, hs.qw, hs.pm, hs.pl, hs.ps, hs.er, hs.config, hs.ident, (congrArg LineController.accepted hs.clc :),
    hs.mode, (congrArg Health.state hh :), (congrArg Health.quietTimer hh :), (congrArg LineController.queue hs.clc :)⟩

/-- A polled position stays poll-eligible over its GOOD outcome. -/
theorem pollEligible_beforeStatus {p : Pos} {reply : StatusFields} {stage : SignalStage} {s : State}
    (he : pollEligible s p = true) (h : (s.health p).score < 160) :
    pollEligible (beforeStatus p reply stage s) p = true := by
  obtain ⟨-, -, -, -, -, -, -, -, -, hi, -, hm, hst, hq, -⟩ := beforeStatus_kept (p := p) (reply := reply) (stage := stage) h
  unfold pollEligible State.isLive State.ident at he ⊢
  rw [hi, hm, hst, hq]
  simp only [Bool.and_eq_true, beq_iff_eq, bne_iff_ne, ne_eq, Option.isNone_iff_eq_none] at he ⊢
  refine ⟨⟨he.1.1, ?_⟩, he.2⟩
  unfold followedState
  dsimp only
  split
  · split <;> simp
  · split <;> simp
  · next hc => exact absurd hc he.1.2

/-- A STATUS that answers a poll, with a known stage and at most 8 records, runs steps 3 to 6 of R133 on that state. -/
theorem exec_status_polled {p : Pos} {x : Exchange} {reply : StatusFields} {stage : SignalStage} {s : State} (h : Polled s x p)
    (hs : stageOf reply.stage = some stage) (hn : reply.records.length ≤ 8) :
    exec (.status x.address reply) s = .next (finish (takeStatus p reply (beforeStatus p reply stage s))) := by
  have hr : statusReply reply = some (fun x p _ s => statusContents p x.work reply stage s) := by
    unfold statusReply
    rw [hs]
    exact if_pos hn
  change execStatus x.address reply s = _
  unfold execStatus
  rw [hr, onReply_good h.awaits rfl (by rw [h.poll]; rfl), endGood_plain (by rw [h.poll]; nofun)]
  unfold statusContents
  have he := pollEligible_beforeStatus (reply := reply) (stage := stage) h.eligible h.score
  unfold beforeStatus at he ⊢
  dsimp only
  rw [if_pos ⟨h.poll, he⟩]

/-- Without records nothing is routed; the flag tells whether the position is steered (R134). -/
theorem takeRecords_nil (p : Pos) (s : State) : takeRecords p [] s = (s, steered (s.coord p).state) := by
  unfold takeRecords newRecords
  cases s.clc.accepted.get p <;> rfl

/-- A record alone is new when its number is 1 to 127 above the last accepted, or when none was accepted (R134). -/
theorem newRecords_one {accepted : Option Nat} {r : EventRecord}
    (h : ∀ n, accepted = some n → inRange 1 127 (sequenceStep n r) = true) : newRecords accepted [r] = [r] := by
  have hr : inRange 1 127 (sequenceStep (reference accepted [r]) r) = true := by
    cases accepted with
    | some n => exact h n rfl
    | none =>
      have : sequenceStep (reference none [r]) r = 1 := by
        unfold sequenceStep reference modC
        have h0 : 0 ≤ Int.emod ((r.sequence : Int) - 1) 256 := Int.emod_nonneg _ (by decide)
        change (Int.emod ((r.sequence : Int) - ((Int.emod ((r.sequence : Int) - 1) 256).toNat : Int)) 256).toNat = 1
        rw [Int.toNat_of_nonneg h0]
        change (((r.sequence : Int) - ((r.sequence : Int) - 1) % 256) % 256).toNat = 1
        omega
      rw [this]
      rfl
  unfold newRecords
  dsimp only
  rw [List.filter_cons_of_pos (p := fun x => inRange 1 127 (sequenceStep (reference accepted [r]) x)) hr]
  rfl

/-- One new record is routed and its number accepted; the flag tells whether the position was steered before and after it
(R23, R134). -/
theorem takeRecords_one {p : Pos} {r : EventRecord} {s : State}
    (h : ∀ n, s.clc.accepted.get p = some n → inRange 1 127 (sequenceStep n r) = true) :
    let t := routeRecord p r s
    takeRecords p [r] s =
      ({ t with clc := { t.clc with accepted := t.clc.accepted.set p.val (some r.sequence) } },
        steered (s.coord p).state && steered (t.coord p).state) := by
  unfold takeRecords
  rw [newRecords_one h]
  rfl

/-- A record that the table delivers goes to the destinations of its rule, and the rule counts a hit (R162, R163). -/
theorem routeRecord_delivered {s : State} {p : Pos} {r : EventRecord} {d : EventDirection} {rule : Rule}
    (h : deliveredBy s p r d rule) :
    ∃ kind i, recordKindOf r.kind = some kind ∧
      routeRecord p r s = deliver p i rule { kind := kind, direction := d, record := r } (eventTime s.now r) (countHit i s) := by
  obtain ⟨hd, hn, kind, i, hk, hf, hm⟩ := h
  refine ⟨kind, i, hk, ?_⟩
  unfold routeRecord readRecord
  rw [hk, hd]
  dsimp only
  rw [if_pos hn]
  dsimp only
  rw [if_neg (by simp [hf]), hm]

/-- A record on the fixed route goes to the Priority Manager (R161). -/
theorem routeRecord_fixed {s : State} {p : Pos} {r : EventRecord} {kind : RecordKind} {d : EventDirection}
    (h : fixedRecord r kind d) :
    routeRecord p r s = takeFixed p { kind := kind, direction := d, record := r } (eventTime s.now r) s := by
  obtain ⟨hd, hn, hk, hf⟩ := h
  unfold routeRecord readRecord
  rw [hk, hd]
  dsimp only
  rw [if_pos hn]
  dsimp only
  rw [if_pos hf]

end Sys2Proof.Machine
end

