-- ==== Sys2Proof/Machine/ReplyFrames.lean ====
section
/-! DEFINITION. The frames that the part sends to the host, in bytes: replies, short answers and notices
(11_the_supervisory_line.md 11.5 and 11.6). Fields follow the order of their rules; widths and codes that section 11.6 leaves
to its general lines are taken as notes/assumptions/35.md says, and presence bytes, lists and codes that no layout gives as
notes/assumptions/37.md says. -/

namespace Sys2Proof.Machine

/-! ### Fields -/

/-- Yes 0, no 1; also SET 0, CLEAR 1: the order in which the tables list them. -/
def yesNo (b : Bool) : Field := byteField (if b then 0 else 1)

/-- A position by its number. -/
def positionField (p : Pos) : Field := byteField (posNumber p)

/-- A slot by its number. -/
def slotField (i : SlotIx) : Field := byteField (i.val + 1)

/-- A running time. -/
def runningField (t : Time) : Field := timeField t.toNat

/-- A signed figure in ds: two bytes, two's complement. -/
def signedField (n : Int) : Field := wordField (modC n 65536)

/-- A set as a bit field, the first value at bit 0. -/
def setOf (bits : List Bool) : Nat := bits.foldr (fun b n => (if b then 1 else 0) + 2 * n) 0

/-- Coordination state: UNSEEN, LOCAL, SEEKING, IN-STEP, PREEMPTED. -/
def coordCode : CoordState → Nat
  | .unseen => 0
  | .inLocal _ => 1
  | .seeking _ => 2
  | .inStep => 3
  | .preempted => 4

/-- Local reasons in the order of section 2.1. -/
def reasonCode : LocalReason → Nat
  | .setup => 0
  | .free => 1
  | .notInPlan => 2
  | .cutOff => 3
  | .quiet => 4
  | .fieldLocal => 5
  | .refusing => 6
  | .relay => 7
  | .noCommonMode => 8
  | .awaitingMark => 9

/-- The local reason of a coordination state. -/
def localReason : CoordState → Option LocalReason
  | .inLocal reason => some reason
  | _ => none

/-- The seek direction of a coordination state: LENGTHEN 0, SHORTEN 1. -/
def seekField : CoordState → Option Field
  | .seeking .lengthen => some (byteField 0)
  | .seeking .shorten => some (byteField 1)
  | _ => none

/-- Identification states in the order of section 9.2. -/
def idCode : IdState → Nat
  | .unknown => 0
  | .probing => 1
  | .identified => 2
  | .absent => 3
  | .mismatch => 4

/-- Health states in the order of section 9.3. -/
def healthCode : HealthState → Nat
  | .sound => 0
  | .degraded => 1
  | .cutOff => 2

/-- Resolved modes in the order of section 9.2. -/
def modeCode : ResolvedMode → Nat
  | .full => 0
  | .timed => 1
  | .paced => 2
  | .relay => 3
  | .none => 4

/-- Stages in the order of section 9.3. -/
def stageCode : Stage → Nat
  | .none => 0
  | .quieting => 1
  | .quiet => 2

/-- Causes of a HEALTH-CHANGE in the order of R152. -/
def healthCauseCode : HealthCause → Nat
  | .score => 0
  | .failures => 1
  | .probes => 2
  | .identification => 3

/-- States of an approach record in the order of section 4.1: CLEAR, BUILDING, BLOCKED, UNKNOWN. -/
def queueCode : QueueState → Nat
  | .clear => 0
  | .building => 1
  | .blocked => 2
  | .unknown => 3

/-- Slot states in the order of section 6.2: EMPTY, VALID, DAMAGED. PLAN-CHANGE-FAILED, for which R126 lists EMPTY and DAMAGED
alone, takes the same codes (notes/assumptions/37.md). -/
def slotCode : SlotState → Nat
  | .empty => 0
  | .valid => 1
  | .damaged => 2

/-- INBOUND 0, OUTBOUND 1, TWO-WAY 2. -/
def waveCode : Wave → Nat
  | .inbound => 0
  | .outbound => 1
  | .twoWay => 2

/-- HOLD 0, ON-WRITE 1, ON-ACCESS 2. -/
def incrementCode : IncrementMode → Nat
  | .hold => 0
  | .onWrite => 1
  | .onAccess => 2

/-- PIN 0, DEMAND 1, RELOAD 2. -/
def causeCode : PlanCause → Nat
  | .pin => 0
  | .demand => 1
  | .reload => 2

/-- The three approaches in the order of section 4.1. -/
def approachCode : Approach → Nat
  | .inboundArterial => 0
  | .outboundArterial => 1
  | .side => 2

/-- MAIN-GREEN 0, CHANGE 1, SIDE-SERVICE 2, PREEMPTING 3. -/
def signalCode : SignalStage → Nat
  | .mainGreen => 0
  | .change => 1
  | .sideService => 2
  | .preempting => 3

/-- Notice codes (section 11.5). -/
def noticeCode : NoticeKind → Nat
  | .positionState => 0x81
  | .healthChange => 0x82
  | .lineReset => 0x83
  | .identified => 0x84
  | .siteMismatch => 0x85
  | .planChange => 0x86
  | .planChangeFailed => 0x87
  | .commitDone => 0x88
  | .eraseDone => 0x89
  | .queueState => 0x8A
  | .gridlockRisk => 0x8B
  | .poolEmpty => 0x8C
  | .linkTracking => 0x8D
  | .preemptStart => 0x8E
  | .preemptEnd => 0x8F
  | .transitGrant => 0x90
  | .timingRefused => 0x91
  | .detectorEvent => 0x92
  | .overrun => 0x93

/-- The overlay set: FLUSH, GATE, SIDE-RELIEF. That it is a set of section 11.6 is the model's choice (notes/assumptions/37.md). -/
def overlayField (o : Overlays) : Field := byteField (setOf [o.flush, o.gate, o.sideRelief])

/-- The ability set: OFFSET, SPLIT, PLATOON, PRIORITY. -/
def abilityField (a : Abilities) : Field := byteField (setOf [a.offset, a.split, a.platoon, a.priority])

/-- A link: segment and direction. -/
def linkNameFields (l : Link) : List Field := [byteField (l.segment.val + 1), byteField (directionCode l.direction)]

/-- A plan header. -/
def headerBytes (h : PlanHeader) : List Field := [wordField h.cycleLength, byteField (waveCode h.wave)]

/-- A plan entry, its seven fields; one presence byte stands before the seven (R110, R116, notes/assumptions/37.md). -/
def entryBytes (e : PlanEntry) : List Field :=
  [wordField e.offset, wordField e.mainGreen, wordField e.minMain, wordField e.maxMain, wordField e.sideMin,
   wordField e.lostTime, yesNo e.adapt]

/-- A selector mode, with its slot when pinned, after a presence byte (notes/assumptions/37.md). -/
def selectorFields : SelectorMode → List Field
  | .free => [byteField 0, byteField 0]
  | .pinned slot => [byteField 1, byteField 1, slotField slot]
  | .responsive => [byteField 2, byteField 0]

/-- A requested mode, with its slot or persistence setting, after a presence byte (notes/assumptions/37.md). -/
def requestedFields : RequestedMode → List Field
  | .free => [byteField 0, byteField 0]
  | .pinned slot => [byteField 1, byteField 1, slotField slot]
  | .responsive n => [byteField 2, byteField 1, byteField n]

/-- The write state, with its slot unless IDLE, after a presence byte (notes/assumptions/37.md). -/
def writeFields : WriteState → List Field
  | .idle => [byteField 0, byteField 0]
  | .committing slot _ => [byteField 1, byteField 1, slotField slot]
  | .erasing slot => [byteField 2, byteField 1, slotField slot]

/-- An owner: NONE, LOCAL-CALL with its direction, ROUTE with its origin, and no presence byte (R100,
notes/assumptions/37.md). -/
def ownerFields : Owner → List Field
  | .none => [byteField 0]
  | .localCall d => [byteField 1, byteField (eventDirectionCode d)]
  | .route origin => [byteField 2, positionField origin]

/-- The four queue limits of a class. -/
def queueLimitBytes (l : QueueLimits) : List Field :=
  [byteField l.exponent, byteField l.buildingOn, byteField l.blockedOn, byteField l.hysteresis]

/-- An approach record as GET-QUEUE gives it (R76). The latched worst state is coded in its own order,
UNKNOWN, CLEAR, BUILDING, BLOCKED. -/
def approachFields (r : ApproachRecord) : List Field :=
  [byteField (queueCode r.state), byteField (queueRank r.worst)] ++ optional (fun h => [byteField h.smoothed]) r.heard
    ++ optional (fun h => [runningField h.lastSample]) r.heard

/-! ### Reply fields -/

/-- GET-TIME (R5). -/
def timeReportFields (r : TimeReport) : List Field :=
  [timeField r.timeOfDay, runningField r.runningTime, wordField r.cyclePosition, wordField r.cycleLength,
   runningField r.anchor] ++ optional (fun i => [slotField i]) r.activePlan
    ++ [wordField r.beaconInterval, runningField r.beaconDeadline]

/-- GET-PART-STATUS (R178). The rates are low 0, high 1. -/
def partReportFields (r : PartReport) : List Field :=
  [byteField (if r.mode = .setup then 0 else 1), yesNo r.draining, byteField r.supRate.toNat, byteField r.corRate.toNat,
   runningField r.runningTime, timeField r.timeOfDay] ++ optional (fun i => [slotField i]) r.activeSlot
    ++ selectorFields r.selector ++ writeFields r.write ++ [yesNo r.stagingOpen]
    ++ [byteField (match r.line with
        | .idle => 0
        | .exchange => 1
        | .lineBreak => 2), byteField r.queued]
    ++ r.positions.flatMap (fun x =>
        [yesNo x.configured, byteField (idCode x.identification), byteField (healthCode x.health),
         byteField (coordCode x.coordination)])
    ++ [byteField r.lineResets, byteField r.notices, wordField r.overrun, wordField r.unanswered,
        { width := 3, value := setOf (NoticeKind.all.map (fun k => r.enabled.contains k)) }]

/-- Identification fields (section 9.2). Ended-by-request is always held and sent, yes or no (notes/assumptions/37.md). -/
def identFields (i : Ident) : List Field :=
  [byteField (idCode i.state)] ++ optional (fun n => [wordField n]) i.site ++ optional (fun a => [abilityField a]) i.abilities
    ++ optional (fun n => [byteField n]) i.detectors ++ optional (fun m => [byteField (modeCode m)]) i.mode
    ++ optional (fun b => [yesNo b]) i.basic ++ optional (fun t => [runningField t]) i.retry
    ++ optional (fun t => [runningField t]) i.reprobe ++ [yesNo i.byRequest]

/-- Health fields (section 9.3). -/
def healthFields (h : Health) : List Field :=
  [byteField h.score, byteField h.failures, byteField (healthCode h.state), byteField h.probes]
    ++ optional (fun t => [runningField t]) h.probeDeadline ++ optional (fun t => [runningField t]) h.quietTimer
    ++ [byteField (stageCode h.stage)]

/-- Coordination fields (section 2.1). -/
def coordFields (c : Coord) : List Field :=
  [byteField (coordCode c.state)] ++ optional (fun r => [byteField (reasonCode r)]) (localReason c.state)
    ++ optional (fun t => [wordField t.offset]) c.target ++ optional (fun t => [wordField t.commandPoint]) c.target
    ++ [signedField c.trim] ++ optional (fun m => [wordField m.offset]) c.measured
    ++ optional (fun m => [runningField m.time]) c.measured ++ optional (fun x => [runningField x.stamp]) c.settle
    ++ [byteField c.refusals] ++ optional (fun f => [f]) (seekField c.state) ++ [yesNo c.fieldLocal]
    ++ optional (fun n => [wordField n]) c.grant ++ [yesNo c.commanded]

/-- A last status summary (R133): the time of receipt, then one presence byte for the six other figures together, a choice of
the model (notes/assumptions/37.md). -/
def summaryFields (x : Summary) : List Field :=
  [runningField x.received] ++ optional (fun f =>
    [byteField (signalCode f.stage), yesNo f.fieldLocal, yesNo f.preempting, yesNo f.unitFault, byteField f.planInUse,
     wordField f.localLength]) x.figures

/-- GET-POSITION (R148). One presence byte stands for the whole configuration and one for the whole status summary, a choice of
the model (notes/assumptions/37.md). -/
def positionReportFields (r : PositionReport) : List Field :=
  optional (fun (cfg : PositionConfig) =>
      [byteField cfg.address, wordField cfg.site, byteField cfg.permittedModes,
       byteField (if cfg.recovery = .auto then 0 else 1), byteField cfg.routeLength]) r.config
    ++ identFields r.ident ++ healthFields r.health ++ coordFields r.coord
    ++ [byteField r.limits.lengthen, byteField r.limits.shorten, wordField r.limits.tolerance, wordField r.limits.trimLimit,
        byteField r.limits.sideLow, byteField r.limits.sideRange]
    ++ optional (fun n => [byteField n]) r.accepted ++ optional summaryFields r.summary

/-- A platoon record (R64). -/
def platoonFields (x : Platoon) : List Field :=
  [wordField x.number, runningField x.head, wordField x.duration, byteField x.size, runningField x.predictedHead,
   runningField x.predictedTail, runningField x.windowOpen, runningField x.windowClose]

/-- The seven fields of a rule (R165). -/
def ruleBytes (r : Rule) : List Field :=
  [byteField (r.kind.elim 9 recordKindCode), byteField (r.direction.elim 3 eventDirectionCode), byteField r.detectorLow,
   byteField r.detectorHigh, wordField r.positions,
   byteField (setOf [r.destinations.platoon, r.destinations.queue, r.destinations.demand, r.destinations.notice]),
   byteField r.tag]

/-- A selection entry (section 7.3). -/
def selectEntryFields (e : SelectEntry) : List Field :=
  [slotField e.slot, wordField e.minTotal, wordField e.maxTotal, byteField e.minShare, byteField e.maxShare]

/-- GET-SELECTION (R128). Each of the eight selection entries is one presence byte and then its five fields together; this and
the other presence bytes are choices of the model (notes/assumptions/37.md). -/
def selectionFields (r : SelectionReport) : List Field :=
  selectorFields r.selector.mode ++ [byteField r.selector.persistenceSetting]
    ++ optional requestedFields r.selector.requested
    ++ optional (fun (x : ActiveImage) => slotField x.slot :: headerBytes x.plan.header) r.selector.image
    ++ optional (fun (x : PendingPlan) => [slotField x.slot, byteField (causeCode x.cause), byteField r.selector.deferrals])
        r.selector.pendingPlan
    ++ optional (fun i => [slotField i]) r.selector.previousCandidate
    ++ [byteField r.selector.persistenceCount, wordField r.selector.inboundAccumulator,
        wordField r.selector.outboundAccumulator, wordField r.selector.inboundFlow, wordField r.selector.outboundFlow,
        wordField r.totalFlow, byteField r.inboundShare]
    ++ selectPlaces.flatMap (fun i => optional selectEntryFields (r.selector.table.get i))

/-- A route as GET-PREEMPTION gives it (R100). -/
def routeFields (r : Route) : List Field :=
  [positionField r.ref.origin, byteField (directionCode r.direction), runningField r.start, runningField r.deadline]
    ++ listed (fun (m : Member) => [positionField m.position, byteField m.held.toNat]) r.members

/-- The reply fields of a DONE, from byte 1 of the body. The model's choices here (notes/assumptions/37.md): the number of
records that GET-PLATOONS gives is the count byte of the list (R64); the gridlock conditions of GET-QUEUE are a set, CROSS at
bit 0 (R76); an empty place of the rule table is one presence byte of 0 in place of the seven fields, and the indexes of the
places held are a counted list (R167). -/
def replyFields : ReplyData → List Field
  | .none => []
  | .time r => timeReportFields r
  | .part r => partReportFields r
  | .position r => positionReportFields r
  | .link r design held =>
    [wordField r.distance, byteField r.speed, wordField r.estimate, wordField r.lead, byteField r.depth,
     byteField (if r.tracked then 0 else 1), byteField r.lost, wordField design, byteField held]
  | .platoons free raised records => [byteField free, byteField raised.toNat] ++ listed platoonFields records
  | .rule r hits => optional ruleBytes r ++ [wordField hits]
  | .ruleTable indexes fixed noMatch =>
    listed (fun (i : RuleIx) => [byteField (i.val + 1)]) indexes ++ [wordField fixed, wordField noMatch]
  | .cursor p => [positionField p]
  | .stage r =>
    [positionField r.positionRead] ++ optional entryBytes r.entry ++ optional headerBytes r.header
      ++ [slotField r.target, positionField r.cursor, byteField (incrementCode r.mode)]
  | .slot (.valid plan) active =>
    [byteField (slotCode .valid)] ++ headerBytes plan.header
      ++ positions.flatMap (fun p => optional entryBytes (plan.entries.get p)) ++ (active.toList.map yesNo)
  | .slot other _ => [byteField (slotCode (slotState other))]
  | .selection r => selectionFields r
  | .queue r =>
    approachFields r.approaches.inbound ++ approachFields r.approaches.outbound ++ approachFields r.approaches.side
      ++ [overlayField r.overlays,
          byteField (setOf [r.gridlock.cross, r.gridlock.chainInbound, r.gridlock.chainOutbound])]
      ++ queueLimitBytes r.arterialLimits ++ queueLimitBytes r.sideLimits
  | .preemption r =>
    [wordField r.policy.routeTimeout, wordField r.policy.extensionMax, byteField r.policy.recovery]
      ++ r.positions.flatMap (fun x => ownerFields x.1 ++ [yesNo x.2.1, byteField x.2.2])
      ++ listed routeFields r.routes

/-! ### Replies -/

/-- The body of a reply: the status, then what it carries (11.6). -/
def answerBody : Answer → List Field
  | .done data => byteField 0x00 :: replyFields data
  | .accepted => [byteField 0x01]
  | .busy => [byteField 0x02]
  | .wrongMode => [byteField 0x03]
  | .badValue position field => [byteField 0x04, byteField position, byteField field]
  | .noSuch => [byteField 0x05]
  | .inProgress => [byteField 0x06]

/-- The kind byte and the body of a reply or short answer (11.6). -/
def replyFrame : Reply → Nat × List Field
  | .request k answer => (requestCode k + 0x40, answerBody answer)
  | .unknownKind kind => (0x7F, [byteField 0x07, byteField kind])
  | .busyUnknown kind => (0x7F, [byteField 0x02, byteField kind])
  | .frameError => (0x40, [byteField 0x08])

/-! ### Notices -/

/-- An event record as a DETECTOR-EVENT carries it (R164). -/
def recordReportFields (r : RecordReport) : List Field :=
  [byteField r.sequence, byteField (recordKindCode r.kind), byteField (eventDirectionCode r.direction), byteField r.detector,
   wordField r.value, wordField r.extra, runningField r.eventTime]

/-- The outcome of a PREEMPT-START, with the members of a formed route after a presence byte (R95, notes/assumptions/37.md). -/
def outcomeFields : RouteOutcome → List Field
  | .formed members => byteField 0 :: byteField 1 :: listed (fun p => [positionField p]) members
  | .noneRequested => [byteField 1, byteField 0]
  | .noMembers => [byteField 2, byteField 0]
  | .tableFull => [byteField 3, byteField 0]

/-- Outcome of a transit call, then the extension of a grant or the reason of a denial, which is coded as in a PRIORITY-ANSWER
(R97, notes/assumptions/37.md). -/
def transitFields : TransitAnswer → List Field
  | .grant extension => [byteField 0, wordField extension]
  | .deny reason => [byteField 1, byteField (denyCode reason)]

/-- A notice's fields, the time of day apart. The model's choices here (notes/assumptions/37.md): the positions of a COMMIT-DONE
are a counted list (R112), rule index and tag of a DETECTOR-EVENT each follow a presence byte (R164), and the result of an
IDENTIFIED is coded as the identification state, IDENTIFIED 2 or ABSENT 3 (R150). -/
def noticeFields : NoticeBody → List Field
  | .positionState p state target measured =>
    [positionField p, byteField (coordCode state)] ++ optional (fun r => [byteField (reasonCode r)]) (localReason state)
      ++ optional (fun n => [wordField n]) target ++ optional (fun n => [wordField n]) measured
  | .healthChange p previous new score failures cause =>
    [positionField p, byteField (healthCode previous), byteField (healthCode new), byteField score, byteField failures,
     byteField (healthCauseCode cause)]
  | .lineReset lastGood serving count =>
    optional (fun t => [runningField t]) lastGood ++ listed (fun p => [positionField p]) serving ++ [byteField count]
  | .identified p r =>
    [positionField p, byteField (idCode r.result)] ++ optional (fun n => [wordField n]) r.site
      ++ optional (fun a => [abilityField a]) r.abilities ++ optional (fun n => [byteField n]) r.detectors
      ++ optional (fun m => [byteField (modeCode m)]) r.mode ++ optional (fun b => [yesNo b]) r.basic
  | .siteMismatch p configured reported reason =>
    [positionField p, wordField configured] ++ optional (fun n => [wordField n]) reported
      ++ [byteField (if reason = .site then 0 else 1)]
  | .planChange x =>
    optional (fun i => [slotField i]) x.previousSlot
      ++ [slotField x.newSlot, wordField x.previousLength, wordField x.newLength, byteField (waveCode x.wave),
          byteField (causeCode x.cause), byteField x.deferrals, wordField x.totalFlow, byteField x.inboundShare]
  | .planChangeFailed slot cause found deferrals =>
    [slotField slot, byteField (causeCode cause), byteField (slotCode found), byteField deferrals]
  | .commitDone slot header held => slotField slot :: headerBytes header ++ listed (fun p => [positionField p]) held
  | .eraseDone slot => [slotField slot]
  | .queueState x =>
    [positionField x.position, byteField (approachCode x.approach), byteField (queueCode x.previous),
     byteField (queueCode x.new)] ++ optional (fun n => [byteField n]) x.smoothed ++ [overlayField x.overlays]
      ++ optional (fun g => [positionField g.1]) x.gated ++ optional (fun g => [overlayField g.2]) x.gated
  | .gridlockRisk p condition start o =>
    [positionField p, byteField (match condition with
      | .cross => 0
      | .chainInbound => 1
      | .chainOutbound => 2), byteField (if start then 0 else 1), overlayField o]
  | .poolEmpty l size => linkNameFields l ++ [byteField size]
  | .linkTracking l tracked estimate lost =>
    linkNameFields l ++ [byteField (if tracked then 0 else 1), wordField estimate, byteField lost]
  | .preemptStart p d cause outcome =>
    [positionField p, byteField (eventDirectionCode d), byteField (match cause with
      | .call => 0
      | .flag => 1
      | .nak => 2)] ++ outcomeFields outcome
  | .preemptEnd p cause ended =>
    [positionField p, byteField (match cause with
      | .clear => 0
      | .flag => 1
      | .originLost => 2
      | .timeout => 3
      | .cancelled => 4)] ++ listed (fun p => [positionField p]) ended
  | .transitGrant x =>
    [positionField x.position, byteField (eventDirectionCode x.direction), wordField x.arrival, wordField x.extra]
      ++ transitFields x.answer ++ [byteField (if x.queued then 0 else 1), byteField x.budget]
  | .timingRefused p reason refusals plan =>
    [positionField p, byteField (nakCode reason), byteField refusals, byteField plan]
  | .detectorEvent p (some (i, tag)) r =>
    [positionField p, byteField 0, byteField 1, byteField (i.val + 1), byteField 1, byteField tag] ++ recordReportFields r
  | .detectorEvent p none r => [positionField p, byteField 1, byteField 0, byteField 0] ++ recordReportFields r
  | .overrun count => [wordField count]

/-- The kind byte and the body of a notice: the time of day first (11.6). -/
def noticeFrame (n : Notice) : Nat × List Field := (noticeCode n.body.kind, timeField n.stamp :: noticeFields n.body)

/-- The kind byte and the body of the frame being sent. -/
def sendingFrame : Sending → Nat × List Field
  | .reply r => replyFrame r
  | .shortAnswer r => replyFrame r
  | .notice n => noticeFrame n

/-- The bytes that the transmitter sends on SUP-TX. -/
def Sending.bytes (x : Sending) : List Byte := supervisoryFrame (sendingFrame x).1 (bodyBytes (sendingFrame x).2)

end Sys2Proof.Machine
end

