-- ==== Sys2Proof/Tests/Slice0.lean ====
section
/-! SUPPORT. Tests of the model on small states: ill-formed commands refused, frames written out from their layouts, and for
every obligation with hypotheses a state and operands that meet them, with what the command then does. -/

set_option maxRecDepth 100000
-- The tests are checked one after another: each one waiting for the kernel would hold a thread, with its stack, of its own.
set_option Elab.async false

open Sys2Proof Sys2Proof.Machine

namespace Sys2Proof.Tests

/-! ### Helpers -/

/-- The command answers a next state that passes the check. -/
def runs (c : Instr) (s : State) (check : State → Bool) : Bool :=
  match exec c s with
  | .next t => check t
  | _ => false

/-- The state after a command. -/
def after (c : Instr) (s : State) : State :=
  match exec c s with
  | .next t => t
  | _ => State.reset

/-- The answer in the reply slot. -/
def answer (t : State) : Option Answer :=
  match t.sli.replySlot with
  | some (.request _ a) => some a
  | _ => none

def entry : PlanEntry :=
  { offset := 100, mainGreen := 380, minMain := 250, maxMain := 500, sideMin := 200, lostTime := 120, adapt := true }

def plan : Plan :=
  { header := { cycleLength := 900, wave := .inbound }, entries := (Vector.replicate 12 none).set 0 (some entry) }

def config : PositionConfig := { address := 11, site := 1000, permittedModes := 15, recovery := .auto, routeLength := 0 }

def unit : Ident :=
  { state := .identified, site := some 1000, abilities := some { offset := true, split := true, platoon := true, priority := true },
    detectors := some 4, mode := some .full, basic := some false, retry := none, reprobe := none, byRequest := false }

/-- In SETUP, with position 1 configured and a plan in slot 1. -/
def setup : State :=
  { State.reset with
    config := State.reset.config.set 0 (some config)
    pl := { State.reset.pl with slots := State.reset.pl.slots.set 0 (.valid plan) } }

/-- In LIVE at running time 1000, the cycle begun at 100; position 1 is FULL and IN-STEP under the plan of slot 1. -/
def live : State :=
  let s := { setup with
    sli := { setup.sli with mode := .live }
    ps := { setup.ps with mode := .pinned 0, image := some { slot := 0, plan := plan } }
    ctb := { setup.ctb with runningTime := 1000, anchor := 100, beaconDeadline := 2000 }
    clc := { setup.clc with roundDeadline := 2000 } }
  (s.withIdent 0 (fun _ => unit)).withCoord 0 (fun c =>
    { c with state := .inStep, target := some { offset := 100, commandPoint := 70 } })

/-- The exchange of a piece of work with position 1. -/
def exchange (work : Work) (phase : Phase) : Exchange :=
  { work := work, position := some 0, address := 11, frame := .poll none, phase := phase }

/-- The line carries the exchange. -/
def withLine (x : Exchange) (s : State) : State := { s with clc := { s.clc with line := .exchange x } }

/-- An entry of the queue for position 1. -/
def queued (c : LineCommand) (attempts : Nat) (onLine : Bool) : QueueEntry :=
  { command := c, address := 11, position := some 0, route := none, joined := 900, attempts := attempts, onLine := onLine }

/-- The queue holds the entries. -/
def withEntries (q : List QueueEntry) (s : State) : State := { s with clc := { s.clc with queue := q } }

/-- The running time is `t`. -/
def at' (t : Time) (s : State) : State := { s with ctb := { s.ctb with runningTime := t } }

/-- A poll of position 1 waits for its reply. -/
def polling : State := withLine (exchange .poll .window) live

/-- A command to position 1, on the line for the given time, waits for its reply. -/
def commanding (c : LineCommand) (attempts : Nat) (s : State) : State :=
  withLine (exchange (.command c none) .window) (withEntries [queued c attempts true] s)

def figures (nextCycle : Nat) : TimingSet :=
  { planNumber := 1, cycleLength := 900, nextCycle := nextCycle, mainGreen := some 380 }

def statusOf (localPosition : Nat) : StatusFields :=
  { localPosition := localPosition, localLength := 900, stage := 0, flags := 0, planInUse := 1, records := [] }

/-- The commands that stand in the queue, oldest first. -/
def commands (t : State) : List LineCommand := t.clc.queue.map QueueEntry.command

/-! ### Commands that are not well formed -/

theorem test_wellFormed_holds :
    ([.decisecondTick, .windowCloseExpiry 65535, .status 11 (statusOf 5), .unknownKind 0x07, .goLive (.fields 65535),
      .goLive (.wrongLength 3), .getRuleRead (.fields { index := 0, action := 2 }), .stageEntryClear (.fields 1),
      .setSelectModeFree (.fields 3), .getRuleReadAndZero (.wrongLength 3)] : List Instr).all wellFormed = true := by
  decide +kernel

theorem test_illFormed_events :
    ([.windowCloseExpiry 0, .windowCloseExpiry 65536, .status 256 (statusOf 5), .status 11 { statusOf 5 with flags := 256 },
      .status 11 { statusOf 65536 with stage := 1 },
      .status 11 { statusOf 5 with localLength := 65536 }, .status 11 { statusOf 5 with stage := 256 },
      .status 11 { statusOf 5 with planInUse := 256 },
      .status 11 { statusOf 5 with records := List.replicate 9 ⟨0, 0, 0, 0, 0, 0, 0⟩ },
      .status 11 { statusOf 5 with records := [⟨256, 0, 0, 0, 0, 0, 0⟩] },
      .status 11 { statusOf 5 with records := [⟨0, 256, 0, 0, 0, 0, 0⟩] },
      .status 11 { statusOf 5 with records := [⟨0, 0, 256, 0, 0, 0, 0⟩] },
      .status 11 { statusOf 5 with records := [⟨0, 0, 0, 256, 0, 0, 0⟩] },
      .status 11 { statusOf 5 with records := [⟨0, 0, 0, 0, 65536, 0, 0⟩] },
      .status 11 { statusOf 5 with records := [⟨0, 0, 0, 0, 0, 65536, 0⟩] },
      .status 11 { statusOf 5 with records := [⟨0, 0, 0, 0, 0, 0, 256⟩] },
      .identity 256 ⟨0, 0, 0⟩, .identity 11 ⟨65536, 0, 0⟩, .identity 11 ⟨0, 256, 0⟩, .identity 11 ⟨0, 0, 256⟩,
      .heartbeat 256, .ack 256, .nak 256 0, .nak 11 256, .unknownKind 256, .unknownKind 0x01] : List Instr).any wellFormed
      = false := by decide +kernel

theorem test_illFormed_numbers :
    ([.goLive (.fields 65536), .setNoticeMask (.fields (2 ^ 24)), .setTime (.fields (2 ^ 32)), .setBeacon (.fields 65536),
      .clearPosition (.fields 256), .getPosition (.fields 256), .reIdentify (.fields 256), .rejoin (.fields 256),
      .clearRule (.fields 256), .getRuleReadAndZero (.fields 256), .stageEntryClear (.fields 256), .stageEntryClear (.fields 0),
      .erasePlan (.fields 256), .getSlot (.fields 256), .setSelectModeFree (.fields 256), .setSelectModeFree (.fields 1),
      .setSelectModeFree (.fields 2), .setSelectModePinned (.fields 256), .setSelectModeResponsive (.fields 256),
      .getQueue (.fields 256), .cancelRoute (.fields 256)] : List Instr).any wellFormed = false := by decide +kernel

theorem test_illFormed_fields :
    ([.setPosition (.fields ⟨256, 0, 0, 0, 0, 0⟩), .setPosition (.fields ⟨0, 256, 0, 0, 0, 0⟩),
      .setPosition (.fields ⟨0, 0, 65536, 0, 0, 0⟩), .setPosition (.fields ⟨0, 0, 0, 256, 0, 0⟩),
      .setPosition (.fields ⟨0, 0, 0, 0, 256, 0⟩), .setPosition (.fields ⟨0, 0, 0, 0, 0, 256⟩),
      .setLink (.fields ⟨256, 0, 0, 0, 0, 0⟩), .setLink (.fields ⟨0, 256, 0, 0, 0, 0⟩),
      .setLink (.fields ⟨0, 0, 65536, 0, 0, 0⟩), .setLink (.fields ⟨0, 0, 0, 256, 0, 0⟩),
      .setLink (.fields ⟨0, 0, 0, 0, 65536, 0⟩), .setLink (.fields ⟨0, 0, 0, 0, 0, 256⟩),
      .getLink (.fields ⟨256, 0⟩), .getLink (.fields ⟨0, 256⟩), .getPlatoons (.fields ⟨256, 0⟩),
      .getPlatoons (.fields ⟨0, 256⟩), .setSlack (.fields ⟨65536, 0, 0⟩), .setSlack (.fields ⟨0, 65536, 0⟩),
      .setSlack (.fields ⟨0, 0, 256⟩), .setTransitionLimits (.fields ⟨256, 0, 0, 0, 0, 0⟩),
      .setTransitionLimits (.fields ⟨0, 256, 0, 0, 0, 0⟩), .setTransitionLimits (.fields ⟨0, 0, 65536, 0, 0, 0⟩),
      .setTransitionLimits (.fields ⟨0, 0, 0, 65536, 0, 0⟩), .setTransitionLimits (.fields ⟨0, 0, 0, 0, 256, 0⟩),
      .setTransitionLimits (.fields ⟨0, 0, 0, 0, 0, 256⟩)] : List Instr).any wellFormed = false := by decide +kernel

theorem test_illFormed_rules_and_plans :
    ([.setRule (.fields ⟨256, 0, 0, 0, 0, 0, 0, 0⟩), .setRule (.fields ⟨0, 256, 0, 0, 0, 0, 0, 0⟩),
      .setRule (.fields ⟨0, 0, 256, 0, 0, 0, 0, 0⟩), .setRule (.fields ⟨0, 0, 0, 256, 0, 0, 0, 0⟩),
      .setRule (.fields ⟨0, 0, 0, 0, 256, 0, 0, 0⟩), .setRule (.fields ⟨0, 0, 0, 0, 0, 65536, 0, 0⟩),
      .setRule (.fields ⟨0, 0, 0, 0, 0, 0, 256, 0⟩), .setRule (.fields ⟨0, 0, 0, 0, 0, 0, 0, 256⟩),
      .getRuleRead (.fields ⟨256, 0⟩), .getRuleRead (.fields ⟨0, 256⟩), .getRuleRead (.fields ⟨0, 1⟩),
      .stageOpenBlank (.fields ⟨256, 1⟩), .stageOpenBlank (.fields ⟨1, 256⟩), .stageOpenBlank (.fields ⟨1, 0⟩),
      .stageOpenCopy (.fields ⟨256, 1⟩), .stageOpenCopy (.fields ⟨1, 256⟩), .stageHeader (.fields ⟨65536, 0⟩),
      .stageHeader (.fields ⟨0, 256⟩), .stageSeek (.fields ⟨256, 0⟩), .stageSeek (.fields ⟨0, 256⟩),
      .stageEntryWrite (.fields ⟨65536, 0, 0, 0, 0, 0, 0⟩), .stageEntryWrite (.fields ⟨0, 65536, 0, 0, 0, 0, 0⟩),
      .stageEntryWrite (.fields ⟨0, 0, 65536, 0, 0, 0, 0⟩), .stageEntryWrite (.fields ⟨0, 0, 0, 65536, 0, 0, 0⟩),
      .stageEntryWrite (.fields ⟨0, 0, 0, 0, 65536, 0, 0⟩), .stageEntryWrite (.fields ⟨0, 0, 0, 0, 0, 65536, 0⟩),
      .stageEntryWrite (.fields ⟨0, 0, 0, 0, 0, 0, 256⟩)] : List Instr).any wellFormed = false := by decide +kernel

theorem test_illFormed_limits :
    ([.setSelectEntryWrite (.fields ⟨256, 0, 0, 0, 0, 0⟩), .setSelectEntryWrite (.fields ⟨0, 256, 0, 0, 0, 0⟩),
      .setSelectEntryWrite (.fields ⟨0, 0, 65536, 0, 0, 0⟩), .setSelectEntryWrite (.fields ⟨0, 0, 0, 65536, 0, 0⟩),
      .setSelectEntryWrite (.fields ⟨0, 0, 0, 0, 256, 0⟩), .setSelectEntryWrite (.fields ⟨0, 0, 0, 0, 0, 256⟩),
      .setSelectEntryClear (.fields ⟨256, 1⟩), .setSelectEntryClear (.fields ⟨1, 256⟩),
      .setSelectEntryClear (.fields ⟨1, 0⟩), .setQueueLimits (.fields ⟨256, 0, 0, 0, 0⟩),
      .setQueueLimits (.fields ⟨0, 256, 0, 0, 0⟩), .setQueueLimits (.fields ⟨0, 0, 256, 0, 0⟩),
      .setQueueLimits (.fields ⟨0, 0, 0, 256, 0⟩), .setQueueLimits (.fields ⟨0, 0, 0, 0, 256⟩),
      .setPriorityPolicy (.fields ⟨65536, 0, 0⟩), .setPriorityPolicy (.fields ⟨0, 65536, 0⟩),
      .setPriorityPolicy (.fields ⟨0, 0, 256⟩)] : List Instr).any wellFormed = false := by decide +kernel

/-- A wrong length is not the right one, is one a length byte can give, and has bytes enough to tell the row. -/
theorem test_illFormed_lengths :
    ([.goLive (.wrongLength 2), .goLive (.wrongLength 251), .goSetup (.wrongLength 0), .partReset (.wrongLength 0),
      .coordRestart (.wrongLength 0), .getPartStatus (.wrongLength 0), .setNoticeMask (.wrongLength 3),
      .setTime (.wrongLength 4), .getTime (.wrongLength 0), .setBeacon (.wrongLength 2), .setPosition (.wrongLength 7),
      .clearPosition (.wrongLength 1), .getPosition (.wrongLength 1), .reIdentify (.wrongLength 1), .rejoin (.wrongLength 1),
      .setLink (.wrongLength 8), .getLink (.wrongLength 2), .getPlatoons (.wrongLength 2), .setSlack (.wrongLength 5),
      .setTransitionLimits (.wrongLength 8), .setRule (.wrongLength 9), .clearRule (.wrongLength 1),
      .getRuleRead (.wrongLength 2), .getRuleReadAndZero (.wrongLength 1), .stageOpenBlank (.wrongLength 2),
      .stageOpenCopy (.wrongLength 1), .stageHeader (.wrongLength 3), .stageSeek (.wrongLength 2)] : List Instr).any wellFormed
      = false := by decide +kernel

theorem test_illFormed_lengths_of_plans :
    ([.stageEntryWrite (.wrongLength 0), .stageEntryClear (.wrongLength 1), .stageRead (.wrongLength 0),
      .stageDiscard (.wrongLength 0), .commitPlan (.wrongLength 0), .erasePlan (.wrongLength 1), .getSlot (.wrongLength 1),
      .setSelectModeFree (.wrongLength 1), .setSelectModePinned (.wrongLength 0), .setSelectModeResponsive (.wrongLength 2),
      .setSelectEntryWrite (.wrongLength 1), .setSelectEntryClear (.wrongLength 2), .getSelection (.wrongLength 0),
      .setQueueLimits (.wrongLength 5), .getQueue (.wrongLength 1), .setPriorityPolicy (.wrongLength 5),
      .getPreemption (.wrongLength 0), .cancelRoute (.wrongLength 1)] : List Instr).any wellFormed = false := by
  decide +kernel

/-! ### Frames, written out byte by byte from section 11.6 -/

/-- The check value of the CRC of section 11.6 over the characters 1 to 9. -/
theorem test_crc : crc16 [0x31, 0x32, 0x33, 0x34, 0x35, 0x36, 0x37, 0x38, 0x39] = 0x29B1 := by decide +kernel

theorem test_setTime_frame :
    receiveBytes Receiver.hunt [0xC3, 0x04, 0x08, 0x00, 0x00, 0xD4, 0x31, 0xF5, 0x0D] = [.setTime (.fields 54321)] := by
  decide +kernel

/-- Noise before the lead byte is discarded; a wrong length, a wrong check and an unknown kind make their own commands. -/
theorem test_faulty_frames :
    receiveBytes Receiver.hunt
        ([0x00, 0x55] ++ [0xC3, 0x03, 0x08, 0x00, 0x00, 0xD4, 0xF1, 0xE4] ++
          [0xC3, 0x04, 0x08, 0x00, 0x00, 0xD4, 0x31, 0xF5, 0x0C] ++ [0xC3, 0x00, 0x07, 0x6D, 0xE8]) =
      [.setTime (.wrongLength 3), .frameError, .unknownKind 7] := by decide +kernel

theorem test_setPosition_frame :
    receiveBytes Receiver.hunt [0xC3, 0x07, 0x0C, 0x03, 0x0E, 0x12, 0x34, 0x05, 0x01, 0x02, 0xBE, 0x0D] =
      [.setPosition (.fields
        { position := 3, address := 14, site := 0x1234, permittedModes := 5, recovery := 1, routeLength := 2 })] := by
  decide +kernel

/-- A STATUS with one record, and the same with a record count that its length does not bear out. -/
theorem test_status_frame :
    commandOfReply
        ([0x5A, 0x0B, 0x21, 0x11, 0x01, 0x60, 0x03, 0x84, 0x02, 0x04, 0x07, 0x01] ++
          [0x09, 0x00, 0x01, 0x03, 0x00, 0x3C, 0x00, 0x0C, 0x02] ++ [0x49, 0xDC]) =
      .status 11
        { localPosition := 352, localLength := 900, stage := 2, flags := 4, planInUse := 7,
          records := [{ sequence := 9, kind := 0, direction := 1, detector := 3, value := 60, extra := 12, age := 2 }] } ∧
    commandOfReply
        ([0x5A, 0x0B, 0x21, 0x11, 0x01, 0x60, 0x03, 0x84, 0x02, 0x04, 0x07, 0x02] ++
          [0x09, 0x00, 0x01, 0x03, 0x00, 0x3C, 0x00, 0x0C, 0x02] ++ [0xF8, 0x13]) =
      .replyGarbled .bodyLength := by decide +kernel

theorem test_identity_and_nak_frames :
    commandOfReply [0x5A, 0x0B, 0x22, 0x04, 0x03, 0xE8, 0x0F, 0x04, 0x4F, 0x59] =
      .identity 11 { site := 1000, abilities := 15, detectors := 4 } ∧
    commandOfReply [0x5A, 0x0B, 0x25, 0x01, 0x04, 0x84, 0x5C] = .nak 11 4 := by decide +kernel

/-- A TIMING-SET with and without main green, and a BEACON, as they leave on the Corridor Line. -/
theorem test_command_frames :
    LineFrame.bytes 11 (.timingSet { planNumber := 7, cycleLength := 900, nextCycle := 792, mainGreen := some 380 }) =
      [0x5A, 0x0B, 0x03, 0x08, 0x07, 0x03, 0x84, 0x03, 0x18, 0x01, 0x01, 0x7C, 0x90, 0xFC] ∧
    LineFrame.bytes 11 (.timingSet { planNumber := 7, cycleLength := 900, nextCycle := 792, mainGreen := none }) =
      [0x5A, 0x0B, 0x03, 0x06, 0x07, 0x03, 0x84, 0x03, 0x18, 0x00, 0x97, 0x49] ∧
    LineFrame.bytes 0 (.beacon 10 900 1) =
      [0x5A, 0x00, 0x04, 0x05, 0x00, 0x0A, 0x03, 0x84, 0x01, 0x45, 0x7F] := by decide +kernel

theorem test_reply_frames :
    Sending.bytes (.reply (.request .setTime (.done .none))) = [0xC3, 0x01, 0x48, 0x00, 0x7F, 0xC9] ∧
    Sending.bytes (.reply (.request .setTime (.badValue 0 1))) = [0xC3, 0x03, 0x48, 0x04, 0x00, 0x01, 0xD8, 0x60] ∧
    Sending.bytes (.shortAnswer (.unknownKind 7)) = [0xC3, 0x02, 0x7F, 0x07, 0x07, 0x74, 0xE1] ∧
    Sending.bytes (.reply .frameError) = [0xC3, 0x01, 0x40, 0x08, 0x77, 0x68] ∧
    Sending.bytes (.notice { stamp := 54321, body := .eraseDone 4 }) =
      [0xC3, 0x05, 0x89, 0x00, 0x00, 0xD4, 0x31, 0x05, 0xCB, 0xFE] := by decide +kernel

/-! ### Witnesses: the queue of commands and the resets -/

theorem ready_setup : Ready setup := ⟨rfl, rfl, rfl⟩

theorem ready_live : Ready live := ⟨rfl, rfl, rfl⟩

theorem witness_StepRunsFrontCommand :
    State.reset.pending = [] ∧
      step { live with pending := [.getTime (.fields ()), .cycleMark] } =
        exec (.getTime (.fields ())) { live with pending := [.cycleMark] } := ⟨rfl, rfl⟩

/-- A commit into slot 4 and an erase of slot 1 are in flight. -/
def committing : State := { setup with pl := { setup.pl with write := .committing 3 plan } }
def erasing : State := { setup with pl := { setup.pl with write := .erasing 0 } }

theorem witness_PowerOnReset :
    committing.pl.write = .committing 3 plan ∧ erasing.pl.write = .erasing 0 ∧
      runs (.powerOnReset true false) committing (fun t =>
        t.pl.slots.get 3 == .damaged && t.pl.slots.get 0 == .valid plan && t.pl.write == .idle && t.sli.supRate
          && t.config.get 0 == none) = true ∧
      runs (.powerOnReset false true) erasing (fun t => t.pl.slots.get 0 == .damaged && t.sli.corRate) = true := by
  decide +kernel

def resetPending : State := { setup with sli := { setup.sli with resetPending := true } }

theorem witness_PartReset :
    Ready setup ∧ (resetPending.sli.resetPending = true ∧ resetPending.sli.replySlot = none ∧ resetPending.pl.write = .idle) ∧
      runs .partResetActs resetPending (fun t => t.config.get 0 == none && t.pl.slots.get 0 == .valid plan) = true ∧
      setup.sli.resetPending = false ∧ (after (.partReset (.fields ())) setup).sli.replySlot ≠ none ∧
      committing.pl.write ≠ .idle := by
  exact ⟨ready_setup, ⟨rfl, rfl, rfl⟩, by decide +kernel, rfl, by decide +kernel, by decide +kernel⟩

/-! ### Requests in general -/

/-- `n` short answers wait. -/
def short (n : Nat) : State := { setup with sli := { setup.sli with shortAnswers := List.replicate n .frameError } }

theorem witness_FramesNotTaken :
    ((requestOf (.getTime (.fields ()))).isSome = true ∧ resetPending.sli.resetPending = true) ∧
      (requestOf (.getTime (.fields ())) = some (.getTime, none) ∧ (short 15).sli.resetPending = false ∧
        (short 15).sli.shortAnswers ≠ [] ∧ (short 15).sli.shortAnswers.length < 16 ∧
        (short 16).sli.shortAnswers.length = 16) ∧
      runs (.getTime (.fields ())) (short 15) (fun t =>
        t.sli.shortAnswers.length == 16 && t.sli.unanswered == 0 && t.sli.sending == some (.shortAnswer .frameError)) ∧
      runs (.getTime (.fields ())) (short 16) (fun t =>
        t.sli.shortAnswers.length == 16 && t.sli.unanswered == 1) := by
  decide +kernel

/-- A frame with a wrong check and one of no request kind, while a reply is owed and while a reset is pending. -/
theorem witness_FramesNotTaken_faulty :
    runs .frameError (short 1) (fun t => t.sli.shortAnswers == [.frameError, .frameError]) = true ∧
      runs (.unknownKind 7) (short 1) (fun t => t.sli.shortAnswers == [.frameError, .busyUnknown 7]) = true ∧
      ([.frameError, .unknownKind 7] : List Instr).all (fun c =>
        runs c (short 16) (fun t => t.sli.shortAnswers.length == 16 && t.sli.unanswered == 1)
          && runs c resetPending (fun t => t == resetPending)) = true := by
  decide +kernel

theorem witness_FaultyFrames :
    requestOf (.getTime (.wrongLength 1)) = some (.getTime, some 1) ∧ Ready setup ∧
      (setup.sli.receiver.takeAll [0xC3]).state = .length ∧ (setup.sli.receiver.takeAll [0xC3, 0x00, 0x07, 0x6D]).state = .check ∧
      runs (.getTime (.wrongLength 1)) setup (fun t => answer t == some (.badValue 0 0)) = true ∧
      runs .frameError setup (fun t => t.sli.replySlot == some .frameError) = true ∧
      runs (.unknownKind 7) setup (fun t => t.sli.replySlot == some (.unknownKind 7)) = true :=
  ⟨rfl, ready_setup, by decide +kernel, by decide +kernel, by decide +kernel, by decide +kernel, by decide +kernel⟩

theorem witness_WrongMode :
    requestOf (.goSetup (.fields ())) = some (.goSetup, none) ∧ takenIn .goSetup = some .live ∧ setup.sli.mode ≠ .live ∧
      Ready setup ∧ requestOf (.clearRule (.fields 0)) = some (.clearRule, none) ∧ takenIn .clearRule = some .setup ∧
      live.sli.mode ≠ .setup ∧ Ready live ∧
      runs (.clearRule (.fields 0)) live (fun t => answer t == some .wrongMode) = true :=
  ⟨rfl, rfl, by decide, ready_setup, rfl, rfl, by decide +kernel, ready_live, by decide +kernel⟩

theorem witness_EveryTaken :
    requestOf (.getSlot (.fields 25)) = some (.getSlot, none) ∧ Ready setup ∧
      runs (.getSlot (.fields 25)) setup (fun t => answer t == some (.badValue 0 1)) = true :=
  ⟨rfl, ready_setup, by decide +kernel⟩

theorem witness_RequestFrames :
    wellFormed (.setTime (.fields 54321)) = true ∧
      requestBytes (.setTime (.fields 54321)) = some [0xC3, 0x04, 0x08, 0x00, 0x00, 0xD4, 0x31, 0xF5, 0x0D] := by
  decide +kernel

/-! ### Corridor time -/

/-- The day ends with this decisecond. -/
def midnight : State := { setup with ctb := { setup.ctb with timeOfDay := 863999, runningTime := 0xFFFFFFFF } }

theorem witness_Tick :
    State.reset.sli.resetPending = false ∧ (after (.partReset (.fields ())) setup).sli.replySlot ≠ none ∧
      committing.pl.write ≠ .idle ∧
      runs .decisecondTick midnight (fun t => t.ctb.timeOfDay == 0 && t.now == 0) = true ∧
      runs .decisecondTick live (fun t => t.now == 1001 && t.ctb.anchor == 1000 && t.pm.policy == live.pm.policy
        && t.qw.sideLimits == live.qw.sideLimits && t.ps.table == live.ps.table
        && (t.link ⟨0, .inbound⟩).speed == (live.link ⟨0, .inbound⟩).speed) = true := by
  decide +kernel

def newPlan : Plan := { plan with header := { cycleLength := 1000, wave := .outbound } }

/-- The plan of slot 2 is pending. -/
def pendingPlan : State :=
  { live with
    pl := { live.pl with slots := live.pl.slots.set 1 (.valid newPlan) }
    ps := { live.ps with mode := .pinned 1, pendingPlan := some { slot := 1, cause := .pin }, inboundAccumulator := 30 } }

/-- The same while a commit is in flight. -/
def pendingWrite : State := { pendingPlan with pl := { pendingPlan.pl with write := .committing 3 plan } }

theorem witness_CycleMark :
    elapsed live.now live.ctb.anchor = live.ctb.cycleLength ∧ elapsed setup.now setup.ctb.anchor ≠ setup.ctb.cycleLength ∧
      (elapsed pendingPlan.now pendingPlan.ctb.anchor = pendingPlan.ctb.cycleLength ∧
        pendingPlan.ps.pendingPlan = some { slot := 1, cause := .pin } ∧ pendingPlan.pl.write = .idle ∧
        pendingPlan.pl.slots.get 1 = .valid newPlan) ∧ pendingWrite.pl.write ≠ .idle ∧
      runs .cycleMark pendingPlan (fun t => t.ctb.cycleLength == 1000 && t.ctb.anchor == 1000 && t.ctb.beaconDeadline == 1100
        && t.ps.image == some { slot := 1, plan := newPlan } && t.ps.inboundFlow == 300
        && t.ps.inboundAccumulator == 0) = true ∧
      runs .cycleMark pendingWrite (fun t => t.ps.image == live.ps.image && t.ctb.cycleLength == 900
        && t.ps.deferrals == 1) = true := by
  decide +kernel

/-- The mark is due, with the line taken; position 1 is in a coordination state. -/
def marking (state : CoordState) : State :=
  (withLine (exchange .poll .window) live).withCoord 0 (fun c => { c with state := state, commanded := true, trim := 79 })

/-- Position 1 has the errors. -/
def erring (sum : Int) (count : Nat) (s : State) : State :=
  { s with pt := { s.pt with accumulators := s.pt.accumulators.set 0 { sum := sum, count := count } } }

/-- Position 1 waits for a mark and may seek, may not, or has no entry; it is steered; the selector mode is FREE. -/
theorem witness_MarkExamines :
    let s := marking (.inLocal .awaitingMark)
    (elapsed s.now s.ctb.anchor = s.ctb.cycleLength ∧ s.ps.pendingPlan = none ∧ s.ps.requested = none ∧
      s.ctb.cycleLength = s.ps.newLength ∧ s.ps.mode ≠ .free ∧ s.imageEntry 0 = some entry ∧ s.imageEntry 1 = none ∧
      (s.health 0).quietTimer = none ∧ s.owner 0 = .none) ∧
      runs .cycleMark s (fun t => (t.coord 0).state == .seeking .lengthen && !(t.coord 0).commanded
        && (t.coord 0).target == some { offset := 179, commandPoint := 149 }) = true ∧
      runs .cycleMark (s.withCoord 0 (fun c => { c with state := .inLocal .free, fieldLocal := true })) (fun t =>
        (t.coord 0).state == .inLocal .awaitingMark) = true ∧
      runs .cycleMark (s.withCoord 1 (fun c => { c with state := .inLocal .awaitingMark })) (fun t =>
        (t.coord 1).state == .inLocal .notInPlan) = true ∧
      runs .cycleMark (s.withCoord 0 (fun c => { c with trim := -70 })) (fun t => (t.coord 0).commanded
        && (t.coord 0).target == some { offset := 30, commandPoint := 0 }) = true ∧
      ([marking .preempted, s] : List State).all (fun s => runs .cycleMark { s with ps := { s.ps with mode := .free } } (fun t =>
        (t.coord 0).state == .inLocal .free)) = true ∧
      ([(4, 2, 80), (8, 2, 80), (100, 1, 79), (3, 2, 79), (-300, 2, 4)].all (fun (x : Int × Nat × Int) =>
        runs .cycleMark (erring x.1 x.2.1 (marking .inStep)) (fun t => (t.coord 0).trim == x.2.2
          && t.pt.accumulators.get 0 == { sum := 0, count := 0 } && steered (t.coord 0).state))) = true ∧
      runs .cycleMark ((marking .inStep).withIdent 0 (fun i => { i with mode := some .timed })) (fun t =>
        t.coord 0 == { (marking .inStep).coord 0 with commanded := false }) = true := by
  decide +kernel

/-- A position that was coordinated goes LOCAL at a mark in FREE with a RUN-LOCAL queued; one that was LOCAL has none. -/
theorem witness_MarkExamines_runLocal :
    let free (s : State) : State := { s with ps := { s.ps with mode := .free } }
    runLocalFits (marking .inStep) 0 12 ∧
      runs .cycleMark (free (marking .inStep)) (fun t => (t.coord 0).measured == none && (commands t).contains .runLocal) = true ∧
      runs .cycleMark (free (marking (.inLocal .notInPlan))) (fun t => !(commands t).contains .runLocal) = true :=
  ⟨⟨rfl, by decide, by decide, by decide⟩, by decide +kernel⟩

/-- A plan of the present length, with the same entry for position 1, and the plan of slot 2 pending in its place. -/
def samePlan : State :=
  { pendingPlan with pl := { pendingPlan.pl with slots := live.pl.slots.set 1 (.valid plan) } }

theorem witness_PlanTakesEffect :
    let s := withEntries [queued (.timingSet (figures 900)) 0 false] (withLine (exchange .poll .window) pendingPlan)
    (s.ps.pendingPlan = some { slot := 1, cause := .pin } ∧ s.pl.write = .idle ∧ s.pl.slots.get 1 = .valid newPlan ∧
      s.ps.requested = none ∧ s.ps.mode ≠ .free ∧ plan.entries.get 1 = none) ∧
      runs .cycleMark (s.withCoord 0 (fun c => { c with trim := 9, grant := some 4, refusals := 4 })) (fun t =>
        (t.coord 0).state == .seeking .lengthen && (t.coord 0).trim == 0 && (t.coord 0).grant == none
          && (t.coord 0).refusals == 0 && t.pt.errorBase == some 1000 && commands t == [.beacon]) = true ∧
      runs .cycleMark (s.withCoord 1 (fun c => { c with state := .preempted })) (fun t =>
        (t.coord 1).state == .inLocal .notInPlan) = true ∧
      runs .cycleMark (s.withCoord 0 (fun c => { c with state := .preempted })) (fun t => (t.coord 0).state == .preempted) = true ∧
      runs .cycleMark samePlan (fun t => (t.coord 0).state == .inStep) = true ∧
      runs .cycleMark (samePlan.withCoord 0 (fun c => { c with
        state := .seeking .shorten, measured := some { offset := 7, time := 990 } })) (fun t =>
        t.coord 0 == { samePlan.coord 0 with state := .seeking .shorten, measured := some { offset := 7, time := 990 } }) = true := by
  decide +kernel

/-- Position 2 is coordinated, and the plan that takes effect has no entry for it: a RUN-LOCAL is queued. -/
theorem witness_PlanTakesEffect_runLocal :
    let s := { (withLine (exchange .poll .window) pendingPlan).withCoord 1 (fun c => { c with state := .inStep }) with
      config := pendingPlan.config.set 1 (some { config with address := 12, site := 1001 }) }
    runLocalFits s 1 13 ∧ coordinated (s.coord 1).state = true ∧ newPlan.entries.get 1 = none ∧
      runs .cycleMark s (fun t => (t.coord 1).state == .inLocal .notInPlan && (t.coord 1).settle == none
        && t.clc.queue.any (fun e => e.position == some 1 && e.command == .runLocal)) = true :=
  ⟨⟨rfl, by decide, by decide, by decide⟩, by decide +kernel⟩

/-- A mark with a requested mode, in a selector mode. -/
def requesting (requested : Option RequestedMode) (mode : SelectorMode) : State :=
  { live with ps := { live.ps with requested := requested, mode := mode, previousCandidate := some 3, persistenceCount := 1 } }

theorem witness_Selector_modes :
    runs .cycleMark (requesting (some .free) .responsive) (fun t => t.ps.mode == .free && t.ps.requested == none
        && t.ps.previousCandidate == none) = true ∧
      runs .cycleMark (requesting (some (.pinned 0)) .free) (fun t => t.ps.mode == .pinned 0
        && t.ps.image == some { slot := 0, plan := plan } && t.ps.pendingPlan == none) = true ∧
      runs .cycleMark (requesting (some (.pinned 0)) .responsive) (fun t => t.ps.mode == .pinned 0
        && t.ps.pendingPlan == none) = true ∧
      runs .cycleMark (requesting (some (.pinned 2)) .responsive) (fun t => t.ps.image == live.ps.image
        && t.ps.pendingPlan == some { slot := 2, cause := .pin }) = true ∧
      runs .cycleMark (requesting (some (.responsive 15)) (.pinned 0)) (fun t => t.ps.mode == .responsive
        && t.ps.persistenceSetting == 15) = true ∧
      runs .cycleMark { pendingPlan with pl := live.pl } (fun t => t.ps.image == live.ps.image
        && t.ps.pendingPlan == none) = true ∧
      runs .cycleMark pendingWrite (fun t => t.ps.pendingPlan == some { slot := 1, cause := .pin }
        && t.ps.deferrals == 1) = true := by
  decide +kernel

/-- A pin taken up from FREE while a write is in flight, and a requested mode on a plan that stands deferred: a PIN of another
slot replaces it, a PIN of the active slot ends it, a RELOAD of the pinned active slot is kept, and RESPONSIVE from PINNED
drops it. -/
theorem witness_Selector_deferred :
    let deferred (x : PendingPlan) (requested : RequestedMode) : State :=
      { pendingWrite with ps := { pendingWrite.ps with
          pendingPlan := some x, deferrals := 7, requested := some requested, previousCandidate := some 3,
          persistenceCount := 2 } }
    let written (s : State) : State := { s with pl := pendingWrite.pl }
    runs .cycleMark (written (requesting (some (.pinned 0)) .free)) (fun t => t.ps.mode == .pinned 0
        && t.ps.pendingPlan == some { slot := 0, cause := .pin } && t.ps.deferrals == 1) = true ∧
      runs .cycleMark (deferred { slot := 1, cause := .pin } (.pinned 2)) (fun t =>
        t.ps.pendingPlan == some { slot := 2, cause := .pin } && t.ps.deferrals == 0
          && t.ps.previousCandidate == none) = true ∧
      runs .cycleMark (deferred { slot := 1, cause := .pin } (.pinned 0)) (fun t =>
        t.ps.pendingPlan == none && t.ps.deferrals == 0) = true ∧
      runs .cycleMark (deferred { slot := 0, cause := .reload } (.pinned 0)) (fun t =>
        t.ps.pendingPlan == some { slot := 0, cause := .reload } && t.ps.deferrals == 8) = true ∧
      runs .cycleMark (deferred { slot := 1, cause := .pin } (.responsive 3)) (fun t => t.ps.mode == .responsive
        && t.ps.pendingPlan == none && t.ps.deferrals == 0 && t.ps.previousCandidate == none) = true := by
  decide +kernel

/-- RESPONSIVE with one selection entry, of a slot, and a flow of 300 inbound. -/
def responsive (slot : SlotIx) (setting count : Nat) : State :=
  { pendingPlan with ps := { pendingPlan.ps with
      mode := .responsive, pendingPlan := none, persistenceSetting := setting, persistenceCount := count,
      previousCandidate := some slot,
      table := pendingPlan.ps.table.set 7 (some
        { slot := slot, minTotal := 300, maxTotal := 300, minShare := 100, maxShare := 100 }) } }

theorem witness_Selector_evaluation :
    runs .cycleMark (responsive 1 3 2) (fun t => t.ps.pendingPlan == some { slot := 1, cause := .demand }
        && t.ps.persistenceCount == 0 && t.ps.image == live.ps.image) = true ∧
      runs .cycleMark (responsive 1 4 2) (fun t => t.ps.pendingPlan == none && t.ps.persistenceCount == 3) = true ∧
      runs .cycleMark (responsive 0 1 0) (fun t => t.ps.previousCandidate == some 0 && t.ps.pendingPlan == none) = true ∧
      runs .cycleMark (responsive 2 1 2) (fun t => t.ps.previousCandidate == none && t.ps.persistenceCount == 0) = true := by
  decide +kernel

/-- The candidate meets a plan that stands deferred: a DEMAND is withdrawn when the candidate is the active slot and a RELOAD
is kept then, a candidate seen through replaces a plan of another slot, one of the same slot stands; and RESPONSIVE taken up
from FREE with a setting of 1 loads the candidate at once. -/
theorem witness_Selector_candidate :
    let standing (slot : SlotIx) (x : PendingPlan) : State :=
      let s := responsive slot 1 0
      { s with pl := pendingWrite.pl, ps := { s.ps with pendingPlan := some x, deferrals := 4 } }
    let fromFree (n : Nat) : State :=
      let s := responsive 1 9 0
      { s with ps := { s.ps with mode := .free, requested := some (.responsive n), previousCandidate := none } }
    runs .cycleMark (standing 0 { slot := 1, cause := .demand }) (fun t => t.ps.pendingPlan == none
        && t.ps.deferrals == 0) = true ∧
      runs .cycleMark (standing 0 { slot := 0, cause := .reload }) (fun t =>
        t.ps.pendingPlan == some { slot := 0, cause := .reload } && t.ps.deferrals == 5) = true ∧
      runs .cycleMark (standing 1 { slot := 0, cause := .reload }) (fun t =>
        t.ps.pendingPlan == some { slot := 1, cause := .demand } && t.ps.deferrals == 0) = true ∧
      runs .cycleMark (standing 1 { slot := 1, cause := .reload }) (fun t =>
        t.ps.pendingPlan == some { slot := 1, cause := .reload } && t.ps.deferrals == 5) = true ∧
      runs .cycleMark (fromFree 1) (fun t => t.ps.image == some { slot := 1, plan := newPlan }
        && t.ps.pendingPlan == none) = true ∧
      runs .cycleMark (fromFree 2) (fun t => t.ps.image == live.ps.image && t.ps.persistenceCount == 1) = true := by
  decide +kernel

/-- The beacon deadline has come, with the line taken by a poll. -/
def beaconTime : State := { polling with ctb := { polling.ctb with beaconDeadline := 1000 } }

theorem witness_Beacon :
    (at' 100 setup).ctb.beaconDeadline = (at' 100 setup).now ∧ beaconCondition (at' 100 setup) = false ∧
      beaconTime.ctb.beaconDeadline = beaconTime.now ∧ beaconCondition beaconTime = true ∧
      beaconTime.clc.line ≠ .idle ∧ beaconTime.clc.queue.length < 24 ∧
      runs .beaconDeadlineExpiry beaconTime (fun t =>
        commands t == [.beacon] && t.ctb.beaconDeadline == 1100) = true ∧
      (let free := { withEntries [queued .beacon 0 false, queued .quiet 0 false] beaconTime with
        ps := { beaconTime.ps with mode := .free } }
       beaconCondition free = false ∧ runs .beaconDeadlineExpiry free (fun t =>
         t.clc.queue == [queued .quiet 0 false] && t.ctb.beaconDeadline == 1100) = true) := by
  decide +kernel

theorem witness_TimeAndBeaconSet :
    Ready setup ∧
      runs (.setTime (.fields 863999)) setup (fun t => t.ctb.timeOfDay == 863999
        && runs .decisecondTick t (fun u => u.ctb.timeOfDay == 0)) = true ∧
      runs (.setTime (.fields 864000)) setup (fun t => answer t == some (.badValue 0 1)) = true ∧
      ([20, 300].all (fun v => runs (.setBeacon (.fields v)) live (fun t =>
        t.ctb.beaconInterval == v && t.ctb.beaconDeadline == later 1000 v)) = true) ∧
      ([19, 301].all (fun v => runs (.setBeacon (.fields v)) live (fun t =>
        answer t == some (.badValue 0 1) && t.ctb.beaconInterval == 100)) = true) ∧
      (let owed := { setup with sli := { setup.sli with resetPending := true } }
       owed.sli.replySlot = none ∧ owed.pl.write = .idle ∧
         runs .partResetActs owed (fun t => t.ctb.beaconInterval == 100 && t.ctb.beaconDeadline == 100) = true) ∧
      ([.coordRestart (.fields ()), .lineSilenceExpiry, .goSetup (.fields ())].all (fun c =>
        runs c { live with ih := { live.ih with silence := some 1000 } } (fun t =>
          t.ctb.beaconInterval == 100 && t.ctb.beaconDeadline == 2000)) = true) :=
  ⟨ready_setup, by decide +kernel, by decide +kernel, by decide +kernel, by decide +kernel, by decide +kernel,
    by decide +kernel⟩

/-! ### Offset coordination -/

/-- At the command point of position 1, the line taken by a poll. -/
def atPoint (state : CoordState) (measured : Option Measured) : State :=
  let s := { polling with ctb := { polling.ctb with runningTime := 1070, anchor := 1000 } }
  s.withCoord 0 (fun c => { c with state := state, measured := measured })

/-- The next-cycle length of the TIMING-SET that the command point offers. -/
def nextCycleOf (s : State) : Option Nat :=
  match (after (.commandPoint 0) s).clc.queue with
  | [{ command := .timingSet t, .. }] => some t.nextCycle
  | _ => none

/-- A plan whose entry leaves no room to shorten. -/
def tightEntry : PlanEntry := { entry with mainGreen := 500, minMain := 500, sideMin := 280 }
def tight (s : State) : State :=
  { s with ps := { s.ps with image := some { slot := 0, plan := { plan with entries := plan.entries.set 0 (some tightEntry) } } } }

theorem witness_CommandPoint :
    let s := atPoint .inStep none
    commandPointDue s 0 = true ∧ s.ps.image = some { slot := 0, plan := plan } ∧ plan.entries.get 0 = some entry ∧
      (s.coord 0).target = some { offset := 100, commandPoint := 70 } ∧ s.config.get 0 = some config ∧ s.ps.mode ≠ .free ∧
      s.clc.line ≠ .idle ∧ s.clc.queue.any (fun x => x.command.isTimingSet && x.position == some 0) = false ∧
      s.clc.queue.length < 24 ∧ (s.coord 0).state = .inStep ∧ nextCycleOf s = some 900 := by
  decide +kernel

/-- Without a measurement, with one that is too old or just not, with the step lengthening, shortening, the two ways alike, and
no room to shorten. -/
theorem witness_CommandPoint_seeking :
    let seeking (m : Option Measured) := atPoint (.seeking .lengthen) m
    nextCycleOf (seeking none) = some 900 ∧ elapsed 1070 169 = 901 ∧ elapsed 1070 170 = 900 ∧
      nextCycleOf (seeking (some { offset := 50, time := 169 })) = some 900 ∧
      nextCycleOf (seeking (some { offset := 50, time := 170 })) = some 950 ∧
      nextCycleOf (seeking (some { offset := 150, time := 1060 })) = some 850 ∧
      nextCycleOf (seeking (some { offset := 438, time := 1060 })) = some 1080 ∧
      nextCycleOf (tight (seeking (some { offset := 150, time := 1060 }))) = some 1080 := by
  decide +kernel

/-- The offer at a command point replaces, and settles with a full queue. -/
theorem witness_CommandPoint_queue :
    let s (q : List QueueEntry) := withEntries q (atPoint .inStep none)
    runs (.commandPoint 0) (s [queued (.timingSet (figures 901)) 2 true]) (fun t =>
        t.clc.queue.map QueueEntry.attempts == [0] && t.clc.queue.map QueueEntry.onLine == [false]) = true ∧
      runs (.commandPoint 0) (s (List.replicate 24 (queued .quiet 0 false))) (fun t => t.clc.queue.length == 24
        && t.clc.queue.map QueueEntry.joined == 1070 :: List.replicate 23 900 && (t.ident 0).retry == some 1080) = true ∧
      runs (.commandPoint 0) (s (List.replicate 24 (queued .routeEnd 0 false))) (fun t =>
        t.clc.queue == List.replicate 24 (queued .routeEnd 0 false) && (t.coord 0).commanded) = true := by
  decide +kernel

theorem witness_MainGreen :
    entry.minMain ≤ entry.mainGreen ∧ entry.mainGreen ≤ entry.maxMain ∧
      entry.maxMain + entry.sideMin + entry.lostTime ≤ live.ctb.cycleLength ∧
      -(room entry live.ctb.cycleLength : Int) ≤ -330 ∧
      (timingFor live 0 0 entry (-330)).mainGreen = some 250 ∧ (timingFor live 0 0 entry 180).mainGreen = some 380 := by
  decide +kernel

theorem witness_Settle :
    let s := live.withCoord 0 (fun c => { c with settle := some { stamp := 100, lapses := 1000 } })
    (s.coord 0).settle = some { stamp := 100, lapses := 1000 } ∧ s.now = 1000 ∧
      runs (.settleStampExpiry 0) s (fun t => (t.coord 0).settle == none && (t.coord 0).state == .inStep) = true := by
  decide +kernel

/-- A poll of position 1 in a coordination state waits. -/
def pollingIn (state : CoordState) : State := polling.withCoord 0 (fun c => { c with state := state })

theorem witness_Status_hypotheses :
    awaiting polling (exchange .poll .window) 0 ∧ stageOf 0 = some .mainGreen ∧ pollEligible polling 0 = true ∧
      polling.owner 0 = .none ∧ (polling.health 0).score < 160 ∧ (polling.coord 0).settle = none ∧
      (polling.coord 0).target = some { offset := 100, commandPoint := 70 } ∧ 780 < polling.ctb.cycleLength ∧
      polling.cyclePosition = 0 ∧ steered (polling.coord 0).state = true :=
  ⟨⟨rfl, rfl, rfl⟩, by decide +kernel⟩

/-- The measured offset is 900 less the local position, and the target 100: at the edges of the tolerance of 20, and of 30. -/
theorem witness_Status_edges :
    runs (.status 11 (statusOf 780)) (pollingIn (.seeking .lengthen)) (fun t => (t.coord 0).state == .inStep
        && (t.coord 0).measured == some { offset := 120, time := 1000 }) = true ∧
      runs (.status 11 (statusOf 779)) (pollingIn (.seeking .lengthen)) (fun t => steered (t.coord 0).state
        && (t.coord 0).state != .inStep) = true ∧
      runs (.status 11 (statusOf 770)) polling (fun t => (t.coord 0).state == .inStep) = true ∧
      runs (.status 11 (statusOf 769)) polling (fun t => steered (t.coord 0).state && (t.coord 0).state != .inStep) = true := by
  decide +kernel

/-- Another local cycle length, a position beyond it, a cycle begun before the settle stamp, and a position not steered. -/
theorem witness_Status_unmeasured :
    Polled polling (exchange .poll .window) 0 ∧
      ([{ statusOf 780 with localLength := 901 }, statusOf 900].all (fun reply =>
        runs (.status 11 reply) (polling.withCoord 0 (fun c => { c with measured := some { offset := 100, time := 900 } }))
          (fun t => (t.coord 0).state == .seeking .lengthen && (t.coord 0).measured == none))) = true ∧
      (let s := polling.withCoord 0 (fun c => { c with settle := some { stamp := 220, lapses := 3000 } })
       runs (.status 11 (statusOf 780)) s (fun t => t.coord 0 == s.coord 0) = true ∧
         runs (.status 11 (statusOf 779)) s (fun t => (t.coord 0).settle == none) = true) ∧
      runs (.status 11 (statusOf 780)) (pollingIn (.inLocal .awaitingMark)) (fun t => (t.coord 0).measured == none) = true :=
  ⟨⟨⟨rfl, rfl, rfl⟩, rfl, rfl, by decide⟩, by decide +kernel⟩

/-- FIELD-LOCAL and PREEMPTING, each set and clear. -/
theorem witness_StatusFlags :
    let flagged (n : Nat) : StatusFields := { statusOf 780 with flags := n }
    let waiting := withEntries [queued (.timingSet (figures 900)) 1 false] polling
    runs (.status 11 (flagged 1)) waiting (fun t => (t.coord 0).state == .inLocal .fieldLocal && (t.coord 0).fieldLocal
        && commands t == [.runLocal]) = true ∧
      runs (.status 11 (flagged 1)) (pollingIn (.inLocal .notInPlan)) (fun t =>
        (t.coord 0).state == .inLocal .fieldLocal) = true ∧
      runs (.status 11 (flagged 1)) (pollingIn (.inLocal .refusing)) (fun t => (t.coord 0).state == .inLocal .refusing) = true ∧
      runs (.status 11 (flagged 0)) (pollingIn (.inLocal .fieldLocal)) (fun t =>
        (t.coord 0).state == .inLocal .awaitingMark) = true ∧
      runs (.status 11 (flagged 2)) waiting (fun t => (t.coord 0).state == .preempted && t.owner 0 == .localCall .none
        && t.clc.queue == [] && (t.coord 0).measured == none) = true ∧
      (let called := (pollingIn .preempted).withCoord 1 (fun c => { c with state := .preempted })
       let owned := { called with pm := { called.pm with owners := called.pm.owners.set 0 (.localCall .inbound) } }
       runs (.status 11 (flagged 0)) owned (fun t => t.owner 0 == .none && (t.coord 0).state == .seeking .lengthen
         && (t.coord 0).measured == none) = true ∧
         runs (.status 11 (flagged 0)) { owned with ps := { owned.ps with image := none } } (fun t =>
           (t.coord 0).state == .inLocal .notInPlan) = true ∧
         runs (.status 11 (flagged 2)) owned (fun t => t.pm == owned.pm) = true) := by
  decide +kernel

/-- A place for the RUN-LOCAL stands free, and a position that a local call held leaves PREEMPTED without an entry for it. -/
theorem witness_StatusFlags_runLocal :
    let owned := { pollingIn .preempted with pm := { live.pm with owners := live.pm.owners.set 0 (.localCall .inbound) } }
    let s := { owned with ps := { owned.ps with image := none } }
    runLocalFits polling 0 1 ∧ runLocalFits s 0 1 ∧ s.pm.routeFrom 0 = none ∧
      runs (.status 11 (statusOf 780)) s (fun t => (t.coord 0).state == .inLocal .notInPlan && commands t == [.runLocal]) = true :=
  ⟨⟨rfl, by decide, by decide, by decide⟩, ⟨rfl, by decide, by decide, by decide⟩, by decide +kernel⟩

theorem witness_TimingSetAnswered :
    let s (nextCycle : Nat) := commanding (.timingSet (figures nextCycle)) 1 live
    awaiting (s 950) (exchange (.command (.timingSet (figures 950)) none) .window) 0 ∧ ((s 950).health 0).score < 160 ∧
      steered ((s 950).coord 0).state = true ∧ nakReasonOf 0 = some .belowMinimum ∧ nakReasonOf 4 = some .badPlan ∧
      runs (.ack 11) (s 950) (fun t =>
        (t.coord 0).settle == some { stamp := 1000, lapses := 3700 } && t.clc.queue == []) = true ∧
      runs (.ack 11) (s 900) (fun t => (t.coord 0).settle == none) = true ∧
      runs (.heartbeat 11) (s 950) (fun t => (t.coord 0).settle == some { stamp := 1000, lapses := 3700 }) = true ∧
      runs (.nak 11 2) (s 950) (fun t => (t.coord 0).state == .preempted && t.owner 0 == .localCall .none
        && (t.coord 0).refusals == 0) = true ∧
      runs (.nak 11 3) (s 950) (fun t => (t.coord 0).state == .inLocal .fieldLocal && (t.coord 0).fieldLocal
        && commands t == [.runLocal]) = true ∧
      runs (.nak 11 3) ((s 950).withCoord 0 (fun c => { c with state := .inLocal .free })) (fun t =>
        (t.coord 0).state == .inLocal .fieldLocal) = true ∧
      runs (.nak 11 3) ((s 950).withCoord 0 (fun c => { c with state := .unseen })) (fun t =>
        (t.coord 0).state == .unseen && (t.coord 0).fieldLocal) = true :=
  ⟨⟨rfl, rfl, rfl⟩, by decide +kernel⟩

/-- A NAK as the third and as the fourth refusal. -/
theorem witness_TimingSetRefused :
    let s (n : Nat) := (commanding (.timingSet (figures 900)) 1 live).withCoord 0 (fun c => { c with refusals := n })
    coordinated ((s 3).coord 0).state = true ∧
      runs (.nak 11 0) (s 2) (fun t => (t.coord 0).refusals == 3 && (t.coord 0).state == .inStep) = true ∧
      runs (.nak 11 4) (s 3) (fun t => (t.coord 0).refusals == 4 && (t.coord 0).state == .inLocal .refusing
        && commands t == [.runLocal]) = true := by
  decide +kernel

def limits : LimitFields :=
  { lengthen := 30, shorten := 1, tolerance := 100, trimLimit := 10, sideLow := 100, sideRange := 1 }

theorem witness_TransitionLimits :
    let s := live.withCoord 0 (fun c => { c with trim := -40 })
    Ready s ∧ runs (.setTransitionLimits (.fields limits)) s (fun t =>
        t.oc.limits.lengthen == 30 && t.oc.limits.sideRange == 1 && (t.coord 0).trim == -10) = true ∧
      ([({ limits with lengthen := 31 }, 1), ({ limits with shorten := 0 }, 2), ({ limits with tolerance := 101 }, 3),
        ({ limits with trimLimit := 201 }, 4), ({ limits with sideLow := 101 }, 5), ({ limits with sideRange := 0 }, 6)].all
        (fun x => runs (.setTransitionLimits (.fields x.1)) s (fun t =>
          answer t == some (.badValue 0 x.2) && t.oc == s.oc))) = true :=
  ⟨⟨rfl, rfl, rfl⟩, by decide +kernel⟩

/-! ### Platoons and links -/

def platoon (n : Nat) (close : Time) : Platoon :=
  { number := n, head := 500, duration := 40, size := 10, predictedHead := 860, predictedTail := 900, windowOpen := 830,
    windowClose := close }

def inLink : Link := { segment := 0, direction := .inbound }

/-- Two platoons on the inbound link of segment 1, the first at its window close, after `lost` losses in a row. -/
def withPlatoons (lost : Nat) : State :=
  let s := live.withLink inLink (fun r => { r with queue := [platoon 7 1000, platoon 8 1100], lost := lost })
  { s with pt := { s.pt with freeCount := 62 } }

theorem witness_WindowClose :
    closingLink (withPlatoons 1) 7 = some inLink ∧ closingLink (withPlatoons 2) 7 = some inLink ∧
      runs (.windowCloseExpiry 7) (withPlatoons 1) (fun t => (t.link inLink).queue == [platoon 8 1100]
        && (t.link inLink).tracked && t.pt.freeCount == 63) = true ∧
      runs (.windowCloseExpiry 7) (withPlatoons 2) (fun t => (t.link inLink).lost == 3 && !(t.link inLink).tracked) = true ∧
      runs (.windowCloseExpiry 8) (withPlatoons 2) (fun t => t.link inLink == (withPlatoons 2).link inLink) = true := by
  decide +kernel

def linkFields : LinkFields := { segment := 1, direction := 0, distance := 5000, speed := 90, lead := 200, depth := 1 }

theorem witness_SetLink :
    Ready (withPlatoons 2) ∧
      runs (.setLink (.fields linkFields)) (withPlatoons 2) (fun t => (t.link inLink).estimate == 1200
        && (t.link inLink).lost == 0 && (t.link inLink).queue == [platoon 8 1100] && t.pt.freeCount == 63) = true ∧
      ([({ linkFields with segment := 12 }, 1), ({ linkFields with direction := 2 }, 2), ({ linkFields with distance := 49 }, 3),
        ({ linkFields with speed := 19 }, 4), ({ linkFields with lead := 201 }, 5), ({ linkFields with depth := 9 }, 6)].all
        (fun x => runs (.setLink (.fields x.1)) (withPlatoons 2) (fun t => answer t == some (.badValue 0 x.2)))) = true :=
  ⟨⟨rfl, rfl, rfl⟩, by decide +kernel⟩

theorem witness_LinkReports :
    Ready (withPlatoons 1) ∧
      runs (.getPlatoons (.fields { segment := 1, direction := 0 })) (withPlatoons 1) (fun t =>
        answer t == some (.done (.platoons 62 false [platoon 7 1000, platoon 8 1100]))) = true ∧
      runs (.getLink (.fields { segment := 11, direction := 1 })) (withPlatoons 1) (fun t =>
        answer t == some (.done (.link LinkRecord.reset 288 0))) = true ∧
      runs (.getLink (.fields { segment := 12, direction := 0 })) (withPlatoons 1) (fun t =>
        answer t == some (.badValue 0 1)) = true ∧
      runs (.getPlatoons (.fields { segment := 11, direction := 2 })) (withPlatoons 1) (fun t =>
        answer t == some (.badValue 0 2)) = true :=
  ⟨⟨rfl, rfl, rfl⟩, by decide +kernel, by decide +kernel, by decide +kernel, by decide +kernel⟩

/-! ### Queue Watch -/

def heard : Heard := { smoothed := 70, lastSample := 700, silence := 1000 }

/-- The side approach of position 1 is BLOCKED, its silence deadline come. -/
def blocked : State :=
  { live with qw := { live.qw with approaches := update live.qw.approaches 0 (fun a =>
      { a with side := { state := .blocked, worst := .blocked, heard := some heard } }) } }

theorem witness_Silence :
    (blocked.approach 0 .side).heard = some heard ∧ heard.silence = blocked.now ∧
      runs (.approachSilenceExpiry 0 .side) blocked (fun t =>
        t.approach 0 .side == { state := .unknown, worst := .blocked, heard := none }) = true := by
  decide +kernel

theorem witness_GetQueue :
    Ready blocked ∧
      runs (.getQueue (.fields 1)) (after (.approachSilenceExpiry 0 .side) blocked) (fun t =>
        (t.approach 0 .side).worst == .unknown) = true ∧
      ([0, 13].all (fun n => runs (.getQueue (.fields n)) blocked (fun t => answer t == some (.badValue 0 1)))) = true :=
  ⟨⟨rfl, rfl, rfl⟩, by decide +kernel, by decide +kernel⟩

/-! ### Priority -/

def route : Route :=
  { ref := { origin := 0, serial := 0 }, direction := .inbound, members := [{ position := 1, held := true }], start := 500,
    deadline := 1000 }

/-- Position 1 holds a route over position 2, its timeout come. -/
def routed : State :=
  { live with pm := { live.pm with
      routes := [route], nextSerial := 1, owners := (live.pm.owners.set 0 (.localCall .inbound)).set 1 (.route 0) } }

theorem witness_RouteEnds :
    routed.pm.routeFrom 0 = some route ∧ (∀ m ∈ route.members, m.position ≠ 0) ∧ route.deadline = routed.now ∧ Ready routed ∧
      routed.pm.routeFrom 1 = none ∧
      runs (.routeTimeout 0) routed (fun t => t.pm.routes == [] && t.owner 0 == .localCall .inbound) = true ∧
      runs (.cancelRoute (.fields 1)) routed (fun t => t.pm.routes == [] && answer t == some (.done .none)) = true ∧
      runs (.cancelRoute (.fields 2)) routed (fun t => answer t == some .noSuch) = true ∧
      runs (.cancelRoute (.fields 13)) routed (fun t => answer t == some (.badValue 0 1)) = true := by
  exact ⟨by decide +kernel, by decide +kernel, by decide +kernel, ⟨rfl, rfl, rfl⟩, by decide +kernel, by decide +kernel,
    by decide +kernel, by decide +kernel, by decide +kernel⟩

/-- Position 1 is configured too, and its clearance waits, unsent or tried. -/
def routedTo (attempts : Nat) : State :=
  let s := { routed with config := routed.config.set 1 (some { config with address := 12, site := 1001 }) }
  withEntries [{ queued (.routeClear .inbound 1200) attempts false with address := 12, position := some 1, route := some route.ref }]
    (withLine (exchange .poll .window) s)

theorem witness_RouteEnds_members :
    (route.members.map Member.position).Nodup ∧ (routedTo 0).clc.queue.length + route.members.length ≤ 24 ∧
      (routedTo 0).sli.mode = .live ∧ (routedTo 0).owner 1 = .route 0 ∧ (routedTo 0).config.get 1 ≠ none ∧
      ([.routeTimeout 0, .cancelRoute (.fields 1)] : List Instr).all (fun c =>
        runs c (routedTo 0) (fun t => t.owner 1 == .none && t.clc.queue == [])
          && runs c (routedTo 1) (fun t => t.owner 1 == .route 0
            && t.clc.queue.map (fun e => (e.command, e.position, e.route)) == [(.routeEnd, some 1, some route.ref)])) = true := by
  decide +kernel

/-- The clearance of position 2, or its end, is on the line. -/
def clearing (c : LineCommand) (s : State) : State :=
  withLine { exchange (.command c (some route.ref)) .window with position := some 1, address := 12 } s

theorem witness_RouteAnswers :
    let clear : LineCommand := .routeClear .inbound 1200
    awaiting (clearing clear routed) { exchange (.command clear (some route.ref)) .window with position := some 1, address := 12 } 1 ∧
      ([.ack 12, .heartbeat 12] : List Instr).all (fun c => runs c (clearing clear routed) (fun t =>
        t.pm.routes.flatMap Route.members == [{ position := 1, held := true }])) = true ∧
      runs (.nak 12 4) (clearing clear routed) (fun t => t.owner 1 == .none && t.pm.routes == [{ route with members := [] }]) = true ∧
      runs (.nak 12 0) (clearing clear { routed with pm := { routed.pm with routes := [] } }) (fun t =>
        t.owner 1 == .route 0) = true ∧
      ([.ack 12, .heartbeat 12, .nak 12 4] : List Instr).all (fun c =>
        runs c (clearing .routeEnd { routed with pm := { routed.pm with routes := [] } }) (fun t => t.owner 1 == .none)
          && runs c (clearing .routeEnd routed) (fun t => t.pm == routed.pm)) = true :=
  ⟨⟨rfl, rfl, rfl⟩, by decide +kernel⟩

/-! ### Settings and reports -/

theorem witness_Settings_slack_and_queue :
    Ready live ∧
      runs (.setSlack (.fields { early := 200, late := 200, minimumSize := 50 })) live (fun t => t.pt.minimumSize == 50) = true ∧
      ([(201, 0, 1, 1), (0, 201, 1, 2), (0, 0, 0, 3), (0, 0, 51, 3)].all (fun x =>
        runs (.setSlack (.fields { early := x.1, late := x.2.1, minimumSize := x.2.2.1 })) live (fun t =>
          answer t == some (.badValue 0 x.2.2.2)))) = true ∧
      ([0, 1].all (fun c => runs (.setQueueLimits (.fields ⟨c, 4, 100, 100, 100⟩)) live (fun t =>
        (if c == 0 then t.qw.arterialLimits else t.qw.sideLimits).exponent == 4))) = true ∧
      ([(⟨2, 0, 0, 0, 0⟩, 1), (⟨0, 5, 0, 0, 0⟩, 2), (⟨0, 0, 101, 0, 0⟩, 3), (⟨0, 0, 50, 49, 0⟩, 4), (⟨0, 0, 50, 50, 51⟩, 5)].all
        (fun (x : QueueLimitFields × Nat) => runs (.setQueueLimits (.fields x.1)) live (fun t =>
          answer t == some (.badValue 0 x.2)))) = true :=
  ⟨ready_live, by decide +kernel, by decide +kernel, by decide +kernel, by decide +kernel⟩

theorem witness_Settings_policy_and_mask :
    ([300, 3000].all (fun n => runs (.setPriorityPolicy (.fields ⟨n, 200, 15⟩)) live (fun t =>
        t.pm.policy.routeTimeout == n))) = true ∧
      ([(⟨299, 0, 1⟩, 1), (⟨3001, 0, 1⟩, 1), (⟨300, 201, 1⟩, 2), (⟨300, 0, 0⟩, 3), (⟨300, 0, 16⟩, 3)].all
        (fun (x : PolicyFields × Nat) => runs (.setPriorityPolicy (.fields x.1)) live (fun t =>
          answer t == some (.badValue 0 x.2)))) = true ∧
      runs (.setNoticeMask (.fields (2 ^ 18 + 1))) live (fun t => t.sli.enabled == [.positionState, .overrun]) = true ∧
      ([2 ^ 19 + 2 ^ 18, 2 ^ 18 - 1].all (fun n => runs (.setNoticeMask (.fields n)) live (fun t =>
        answer t == some (.badValue 0 1)))) = true := by
  decide +kernel

theorem witness_Reports :
    Ready live ∧ live.pl.write = .idle ∧ live.pl.slots.get 0 = .valid plan ∧ committing.pl.write ≠ .idle ∧
      live.pl.slots.get 1 = .empty ∧
      runs (.getSlot (.fields 1)) live (fun t => answer t == some (.done (.slot (.valid plan) (some true)))) = true ∧
      runs (.getSlot (.fields 24)) live (fun t => answer t == some (.done (.slot .empty none))) = true ∧
      runs (.getSlot (.fields 1)) committing (fun t => answer t == some .busy) = true ∧
      ([0, 13].all (fun n => runs (.getPosition (.fields n)) live (fun t => answer t == some (.badValue 0 1)))) = true :=
  ⟨ready_live, by decide +kernel, by decide +kernel, by decide +kernel, by decide +kernel, by decide +kernel,
    by decide +kernel, by decide +kernel, by decide +kernel⟩

/-- GET-TIME and GET-PART-STATUS of a part in LIVE. -/
theorem test_reports :
    runs (.getTime (.fields ())) (at' 170 live) (fun t => answer t == some (.done (.time
        { timeOfDay := 0, runningTime := 170, cyclePosition := 70, cycleLength := 900, anchor := 100, activePlan := some 0,
          beaconInterval := 100, beaconDeadline := 2000 }))) = true ∧
      runs (.getPartStatus (.fields ())) live (fun t =>
        match answer t with
        | some (.done (.part r)) => r.mode == .live && r.activeSlot == some 0 && r.positions.length == 12
        | _ => false) = true ∧
      runs (.getSelection (.fields ())) live (fun t =>
        answer t == some (.done (.selection { selector := live.ps, totalFlow := 0, inboundShare := 0 }))) = true ∧
      runs (.getPreemption (.fields ())) routed (fun t =>
        match answer t with
        | some (.done (.preemption r)) => r.routes == [route] && r.positions.length == 12
        | _ => false) = true := by
  decide +kernel

/-! ### The Plan Library -/

def staging : Staging :=
  { target := 4, header := some plan.header, entries := plan.entries, cursor := 11, mode := .onWrite }

/-- A staging record is open. -/
def staged (x : Staging) : State := { setup with pl := { setup.pl with staging := some x } }

theorem witness_StageOpen :
    Ready setup ∧ setup.pl.write = .idle ∧ setup.pl.slots.get 0 = .valid plan ∧ setup.pl.slots.get 1 = .empty ∧
      committing.pl.write ≠ .idle ∧
      runs (.stageOpenBlank (.fields ⟨24, 1⟩)) setup (fun t => t.pl.staging ==
        some { target := 23, header := none, entries := Vector.replicate 12 none, cursor := 0, mode := .hold }) = true ∧
      runs (.stageOpenCopy (.fields ⟨1, 1⟩)) setup (fun t =>
        t.pl.staging.map Staging.entries == some plan.entries) = true ∧
      ([(⟨0, 1⟩, 1), (⟨25, 1⟩, 1), (⟨1, 0⟩, 3), (⟨1, 25⟩, 3), (⟨1, 2⟩, 3)].all (fun (x : OpenCopyFields × Nat) =>
        runs (.stageOpenCopy (.fields x.1)) setup (fun t => answer t == some (.badValue 0 x.2)))) = true ∧
      runs (.stageOpenCopy (.fields ⟨1, 1⟩)) committing (fun t => answer t == some .busy) = true ∧
      runs (.stageOpenBlank (.fields ⟨1, 2⟩)) setup (fun t => answer t == some (.badValue 0 2)) = true :=
  ⟨ready_setup, by decide +kernel⟩

theorem witness_StageHeaderAndSeek :
    Ready (staged staging) ∧ (staged staging).pl.staging = some staging ∧
      ([400, 2400].all (fun n => runs (.stageHeader (.fields ⟨n, 2⟩)) (staged staging) (fun t =>
        t.pl.staging == some { staging with header := some { cycleLength := n, wave := .twoWay } }))) = true ∧
      ([(⟨399, 0⟩, 1), (⟨2401, 0⟩, 1), (⟨2400, 3⟩, 2)].all (fun (x : HeaderFields × Nat) =>
        runs (.stageHeader (.fields x.1)) (staged staging) (fun t => answer t == some (.badValue 0 x.2)))) = true ∧
      runs (.stageSeek (.fields ⟨12, 2⟩)) (staged staging) (fun t =>
        t.pl.staging == some { staging with cursor := 11, mode := .onAccess }) = true ∧
      ([(⟨0, 0⟩, 1), (⟨13, 0⟩, 1), (⟨12, 3⟩, 2)].all (fun (x : SeekFields × Nat) =>
        runs (.stageSeek (.fields x.1)) (staged staging) (fun t => answer t == some (.badValue 0 x.2)))) = true :=
  ⟨⟨rfl, rfl, rfl⟩, rfl, by decide +kernel, by decide +kernel, by decide +kernel, by decide +kernel⟩

/-- The cursor steps from position 12 to 1 on a write in ON-WRITE; a read in ON-WRITE leaves it. -/
theorem witness_StageEntries :
    setup.pl.staging = none ∧
      runs (.stageEntryWrite (.fields ⟨2399, 50, 50, 2400, 50, 20, 1⟩)) (staged staging) (fun t =>
        answer t == some (.done (.cursor 0)) && (t.pl.staging.map (fun x => x.entries.get 11)) ==
          some (some { offset := 2399, mainGreen := 50, minMain := 50, maxMain := 2400, sideMin := 50, lostTime := 20,
                       adapt := false })) = true ∧
      ([(⟨2400, 50, 50, 50, 50, 20, 0⟩, 2), (⟨0, 49, 50, 50, 50, 20, 0⟩, 3), (⟨0, 50, 2401, 50, 50, 20, 0⟩, 4),
        (⟨0, 50, 50, 49, 50, 20, 0⟩, 5), (⟨0, 50, 50, 50, 2401, 20, 0⟩, 6), (⟨0, 50, 50, 50, 50, 201, 0⟩, 7),
        (⟨0, 50, 50, 50, 50, 20, 2⟩, 8)].all (fun (x : EntryFields × Nat) =>
        runs (.stageEntryWrite (.fields x.1)) (staged staging) (fun t => answer t == some (.badValue 0 x.2)))) = true ∧
      runs (.stageEntryClear (.fields 1)) (staged { staging with cursor := 0, mode := .hold }) (fun t =>
        answer t == some (.done (.cursor 0)) && (t.pl.staging.map (fun x => x.entries.get 0)) == some none) = true ∧
      runs (.stageRead (.fields ())) (staged staging) (fun t => t.pl.staging == some staging) = true ∧
      runs (.stageRead (.fields ())) (staged { staging with mode := .onAccess }) (fun t =>
        t.pl.staging.map Staging.cursor == some 0) = true ∧
      runs (.stageDiscard (.fields ())) (staged staging) (fun t => t.pl.staging == none) = true ∧
      runs (.stageRead (.fields ())) setup (fun t => answer t == some .noSuch) = true := by
  decide +kernel

/-- An entry of position 3 that no valid plan of this length has, by offset, by green and by room. -/
def badEntry (e : PlanEntry) : Staging := { staging with entries := plan.entries.set 2 (some e) }

theorem staging_inRanges : staging.inRanges := by
  refine ⟨fun h hh => ?_, fun p e he => ?_⟩
  · cases hh; decide
  · have hall : ∀ p : Pos, (staging.entries.get p).all entryInRange = true := by decide +kernel
    have := hall p
    rw [he] at this
    exact this

theorem witness_Commit :
    Ready (staged staging) ∧ staging.inRanges ∧ planValid { header := plan.header, entries := staging.entries } = true ∧
      (staged staging).pl.write = .idle ∧
      runs (.commitPlan (.fields ())) (staged staging) (fun t => t.pl.write == .committing 4 plan && t.pl.staging == none
        && answer t == some .accepted) = true ∧
      runs (.commitPlan (.fields ())) (staged { staging with header := none }) (fun t =>
        answer t == some (.badValue 0 1)) = true ∧
      runs (.commitPlan (.fields ())) (staged { staging with entries := Vector.replicate 12 none }) (fun t =>
        answer t == some (.badValue 0 3)) = true ∧
      ([({ entry with offset := 900 }, 1), ({ entry with mainGreen := 249 }, 2), ({ entry with maxMain := 581 }, 4)].all
        (fun (x : PlanEntry × Nat) => runs (.commitPlan (.fields ())) (staged (badEntry x.1)) (fun t =>
          answer t == some (.badValue 3 x.2)))) = true ∧
      runs .commitComplete committing (fun t => t.pl.slots.get 3 == .valid plan && t.pl.write == .idle
        && t.pl.slots.get 0 == .valid plan && t.pl.slots.get 1 == .empty) = true :=
  ⟨⟨rfl, rfl, rfl⟩, staging_inRanges, by decide +kernel⟩

/-- A completed commit makes a RELOAD of the active slot or a PIN of the pinned slot pending, keeping the deferrals of a pending
plan of that slot; in FREE, and for another slot, it leaves the Plan Selector as it is. -/
theorem witness_CommitComplete_pending :
    let completing (slot : SlotIx) (mode : SelectorMode) (x : Option PendingPlan) : State :=
      { live with
        pl := { live.pl with write := .committing slot plan }
        ps := { live.ps with mode := mode, pendingPlan := x, deferrals := 6 } }
    let pends (s : State) (x : PendingPlan) (n : Nat) : Bool :=
      runs .commitComplete s (fun t => t.ps.pendingPlan == some x && t.ps.deferrals == n)
    let leaves (s : State) : Bool := runs .commitComplete s (fun t => t.ps == s.ps)
    pends (completing 0 .responsive none) { slot := 0, cause := .reload } 0 = true ∧
      pends (completing 0 (.pinned 0) (some { slot := 0, cause := .pin })) { slot := 0, cause := .reload } 6 = true ∧
      leaves (completing 0 (.pinned 1) (some { slot := 1, cause := .pin })) = true ∧
      pends (completing 1 (.pinned 1) none) { slot := 1, cause := .pin } 0 = true ∧
      pends (completing 1 (.pinned 1) (some { slot := 1, cause := .pin })) { slot := 1, cause := .pin } 6 = true ∧
      leaves (completing 1 .responsive none) = true ∧ leaves (completing 0 .free none) = true := by
  decide +kernel

theorem witness_Erase :
    Ready setup ∧ erasing.pl.write = .erasing 0 ∧ setup.pl.slots.get 23 = .empty ∧ setup.pl.slots.get 0 ≠ .empty ∧
      runs (.erasePlan (.fields 1)) setup (fun t => t.pl.write == .erasing 0) = true ∧
      runs (.erasePlan (.fields 24)) setup (fun t => answer t == some .noSuch) = true ∧
      runs (.erasePlan (.fields 25)) setup (fun t => answer t == some (.badValue 0 1)) = true ∧
      runs (.erasePlan (.fields 24)) erasing (fun t => answer t == some .busy) = true ∧
      runs .eraseComplete erasing (fun t => t.pl.slots.get 0 == .empty && t.pl.write == .idle) = true :=
  ⟨ready_setup, by decide +kernel⟩

/-! ### Plan selection -/

theorem witness_SelectMode :
    Ready setup ∧ setup.pl.slots.get 0 = .valid plan ∧ setup.pl.slots.get 1 = .empty ∧
      runs (.setSelectModePinned (.fields 1)) setup (fun t => t.ps.requested == some (.pinned 0) && t.ps.mode == .free) = true ∧
      runs (.setSelectModePinned (.fields 2)) setup (fun t => answer t == some .noSuch) = true ∧
      ([0, 25].all (fun n => runs (.setSelectModePinned (.fields n)) setup (fun t =>
        answer t == some (.badValue 0 2)))) = true ∧
      ([1, 15].all (fun n => runs (.setSelectModeResponsive (.fields n)) setup (fun t =>
        t.ps.requested == some (.responsive n)))) = true ∧
      ([0, 16].all (fun n => runs (.setSelectModeResponsive (.fields n)) setup (fun t =>
        answer t == some (.badValue 0 2)))) = true ∧
      runs (.setSelectModeFree (.fields 3)) setup (fun t => answer t == some (.badValue 0 1)) = true :=
  ⟨ready_setup, by decide +kernel⟩

theorem witness_SelectEntry :
    runs (.setSelectEntryWrite (.fields ⟨8, 24, 0, 9999, 100, 100⟩)) setup (fun t => t.ps.table.get 7 ==
        some { slot := 23, minTotal := 0, maxTotal := 9999, minShare := 100, maxShare := 100 }) = true ∧
      ([(⟨0, 1, 0, 0, 0, 0⟩, 1), (⟨9, 1, 0, 0, 0, 0⟩, 1), (⟨1, 0, 0, 0, 0, 0⟩, 3), (⟨1, 25, 0, 0, 0, 0⟩, 3),
        (⟨1, 1, 10000, 0, 0, 0⟩, 4), (⟨1, 1, 10, 9, 0, 0⟩, 5), (⟨1, 1, 0, 10000, 0, 0⟩, 5), (⟨1, 1, 0, 0, 101, 0⟩, 6),
        (⟨1, 1, 0, 0, 5, 4⟩, 7), (⟨1, 1, 0, 0, 0, 101⟩, 7)].all (fun (x : SelectFields × Nat) =>
        runs (.setSelectEntryWrite (.fields x.1)) setup (fun t => answer t == some (.badValue 0 x.2)))) = true ∧
      runs (.setSelectEntryClear (.fields ⟨8, 1⟩)) setup (fun t => t.ps.table.get 7 == none) = true ∧
      ([(⟨0, 1⟩, 1), (⟨9, 2⟩, 1), (⟨8, 2⟩, 2)].all (fun (x : SelectClearFields × Nat) =>
        runs (.setSelectEntryClear (.fields x.1)) setup (fun t => answer t == some (.badValue 0 x.2)))) = true := by
  decide +kernel

/-! ### The Corridor Line -/

/-- The exchange of a BEACON, and its frame going out. -/
def beaconing : State :=
  withLine { work := .command .beacon none, position := none, address := 0, frame := .beacon 0 900 1, phase := .sending }
    (withEntries
      [{ command := .beacon, address := 0, position := none, route := none, joined := 900, attempts := 1, onLine := true }] live)

theorem witness_Exchange_hypotheses :
    awaiting polling (exchange .poll .window) 0 ∧
      (withLine (exchange .poll .sending) live).clc.line = .exchange (exchange .poll .sending) ∧
      (∀ p : Pos, beaconing.clc.due.get p = none) ∧ (∀ e ∈ beaconing.clc.queue, e.onLine = true) ∧
      live.clc.line = .idle :=
  ⟨⟨rfl, rfl, rfl⟩, rfl, by decide +kernel, by decide +kernel, rfl⟩

theorem witness_Exchange :
    runs .commandFrameSent (withLine (exchange .poll .sending) live) (fun t =>
        t.clc.line == .exchange (exchange .poll .window) && !t.clc.driverEnable) = true ∧
      (([.replyByteGapExpiry, .replyGarbled .checkWrong, .heartbeat 12, .ack 11, .nak 11 0, .identity 11 ⟨1000, 15, 4⟩,
         .status 12 (statusOf 0), .status 11 { statusOf 0 with stage := 4 },
         .status 11 { statusOf 0 with records := List.replicate 9 ⟨0, 0, 0, 0, 0, 0, 0⟩ }] : List Instr).all
        (fun c => runs c polling (fun t => t.clc.line == .exchange (exchange .poll .quieting)))) = true ∧
      runs (.status 11 (statusOf 0)) (commanding .identify 1 live) (fun t =>
        t.clc.line == .exchange (exchange (.command .identify none) .quieting)) = true ∧
      runs (.identity 11 ⟨1000, 15, 4⟩) (commanding .quiet 1 live) (fun t =>
        t.clc.line == .exchange (exchange (.command .quiet none) .quieting)) = true ∧
      runs (.nak 11 5) (commanding .quiet 1 live) (fun t =>
        t.clc.line == .exchange (exchange (.command .quiet none) .quieting)) = true ∧
      runs (.heartbeat 11) live (fun t => t == live) = true ∧
      runs .broadcastExchangeEnd beaconing (fun t => t.clc.line == .idle && t.clc.queue == []) = true ∧
      runs .commandFrameSent beaconing (fun t => !t.clc.driverEnable && t.clc.txLevel == .mark && t.clc.queue == []
        && runs .broadcastExchangeEnd t (fun u => u.clc.line == .idle && u.clc.queue == [])) = true := by
  decide +kernel

/-- Position 1 has a fault score and a run of failures. -/
def faulty (score failures : Nat) (state : HealthState) (s : State) : State :=
  s.withHealth 0 (fun h => { h with score := score, failures := failures, state := state })

theorem witness_GoodExchange :
    awaiting (faulty 48 2 .degraded polling) (exchange .poll .window) 0 ∧
      runs (.heartbeat 11) (faulty 48 2 .degraded polling) (fun t => (t.health 0).state == .sound && (t.health 0).failures == 0
        && (t.health 0).score == 47 && t.clc.summaries.get 0 == some { received := 1000, figures := none }) = true ∧
      runs (.status 11 (statusOf 0)) (faulty 49 0 .degraded polling) (fun t => (t.health 0).state == .degraded) = true ∧
      runs (.status 11 (statusOf 0)) (faulty 65 0 .sound polling) (fun t => (t.health 0).state == .degraded) = true ∧
      runs (.identity 11 ⟨1000, 15, 4⟩) (faulty 159 2 .degraded (commanding .identify 1 live)) (fun t =>
        (t.health 0).score == 158) = true ∧
      runs (.nak 11 4) (faulty 0 2 .sound (commanding .routeEnd 1 live)) (fun t => (t.health 0).failures == 0) = true :=
  ⟨⟨rfl, rfl, rfl⟩, by decide +kernel⟩

theorem witness_FailedExchange :
    runs .responseWindowExpiry (faulty 0 2 .sound polling) (fun t => (t.health 0).state == .cutOff
        && (t.health 0).probeDeadline == some 1050 && (t.health 0).score == 8) = true ∧
      runs .lineQuietExpiry (faulty 152 0 .degraded (withLine (exchange .poll .quieting) live)) (fun t =>
        (t.health 0).state == .cutOff) = true ∧
      runs .responseWindowExpiry (faulty 151 1 .degraded polling) (fun t => (t.health 0).state == .degraded) = true ∧
      runs .responseWindowExpiry (faulty 56 0 .sound polling) (fun t => (t.health 0).state == .degraded) = true ∧
      runs .responseWindowExpiry (faulty 55 0 .sound polling) (fun t => (t.health 0).state == .sound) = true ∧
      runs .responseWindowExpiry (faulty 40 0 .degraded polling) (fun t => (t.health 0).state == .degraded) = true ∧
      runs .responseWindowExpiry (faulty 255 2 .cutOff polling) (fun t => (t.health 0).score == 255
        && (t.health 0).failures == 3) = true ∧
      runs .responseWindowExpiry (faulty 0 2 .sound (withEntries
        [queued .routeEnd 1 true, queued .quiet 0 false, queued (.timingSet (figures 900)) 0 false] polling)) (fun t =>
        commands t == [.quiet]) = true := by
  decide +kernel

/-- Three entries of position 1, the second on the line for the given time. -/
def failing (c : LineCommand) (attempts : Nat) : State :=
  withLine (exchange (.command c none) .window)
    (withEntries [queued .quiet 0 false, queued c attempts true, queued .identify 0 false] live)

/-- A failure below the limit and at it, for commands with a limit of 3 and of 1; one whose entry has been withdrawn. -/
theorem witness_FailedEntries :
    let commands (t : State) := t.clc.queue.map QueueEntry.command
    let set : LineCommand := .timingSet (figures 900)
    ((failing set 2).health 0).failures < 2 ∧ ((failing set 2).health 0).score < 152 ∧
      (∀ y ∈ (failing set 2).clc.queue, y.command ≠ .beacon) ∧
      (failing set 2).clc.queue = [queued .quiet 0 false] ++ queued set 2 true :: [queued .identify 0 false] ∧
      runs .responseWindowExpiry (failing set 2) (fun t => commands t == [.quiet, set, .identify]) = true ∧
      runs .responseWindowExpiry (failing set 3) (fun t => commands t == [.quiet, .identify] && t.oc == live.oc) = true ∧
      runs .responseWindowExpiry (failing .probePoll 1) (fun t => commands t == [.quiet, .identify]) = true ∧
      runs .lineQuietExpiry (withLine (exchange (.command set none) .quieting) (failing set 3)) (fun t =>
        commands t == [.quiet, .identify]) = true ∧
      runs .responseWindowExpiry (withEntries [queued .quiet 0 false] (failing set 3)) (fun t => commands t == [.quiet]) = true ∧
      runs (.ack 11) (failing set 3) (fun t => commands t == [.quiet, .identify]) = true ∧
      (let entry (c : LineCommand) := { queued c 3 true with position := some 1, route := some route.ref }
       let clear : LineCommand := .routeClear .inbound 1200
       runs .responseWindowExpiry (withEntries [entry clear] (clearing clear routed)) (fun t => t.owner 1 == .none
         && !t.pm.isMember 1) = true ∧
         runs .responseWindowExpiry (withEntries [entry .routeEnd] (clearing .routeEnd
           { routed with pm := { routed.pm with routes := [] } })) (fun t => t.owner 1 == .none) = true) := by
  decide +kernel

/-- The queue holds 24 entries of a command. -/
def full (c : LineCommand) (onLine : Bool) : State := withEntries (List.replicate 24 (queued c 0 onLine)) live

/-- Offers refused in SETUP, taken while the queue drains, barred by a QUIET, replacing, joining, refused and evicting. -/
theorem witness_Offers :
    let offer (c : LineCommand) (s : State) := offerEntry (queued c 0 false) s
    let set : LineCommand := .timingSet (figures 900)
    (offer set setup).2 = false ∧ (offer .quiet setup).2 = false ∧
      (offer .quiet { setup with clc := { setup.clc with drainFlag := true } }).2 = true ∧
      (offer .runLocal (full .quiet false)).2 = false ∧
      (offer .quiet (full .runLocal true)).1.clc.queue = [queued .quiet 0 false] ∧
      (offer set (withEntries (queued set 2 true :: List.replicate 23 (queued .routeEnd 0 false)) live)).1.clc.queue =
        List.replicate 23 (queued .routeEnd 0 false) ++ [queued set 0 false] ∧
      (offer .beacon (withEntries [queued .identify 0 false] live)).1.clc.queue =
        [queued .beacon 0 false, queued .identify 0 false] ∧
      (offer .identify (full .identify false)).2 = false ∧ (offer .routeEnd (full .identify true)).2 = false ∧
      ((offer set (full .identify false)).1.ident 0).retry = some 1010 ∧
      (offer set (full .identify false)).1.clc.queue = queued set 0 false :: List.replicate 23 (queued .identify 0 false) ∧
      ((offer .routeEnd (full .runLocal false)).1.ident 0).retry = none := by
  decide +kernel

theorem witness_Round :
    (let s := { live with clc := { live.clc with roundDeadline := 1000 } }
     pollEligible s 0 = true ∧ (∀ p : Pos, s.clc.due.get p = none) ∧ s.clc.queue = [] ∧ s.config.get 0 = some config ∧
      runs .roundDeadlineExpiry s (fun t => t.clc.roundDeadline == 1010 && t.clc.driverEnable
        && t.clc.line == .exchange (exchange .poll .sending)) = true) ∧
      runs .roundDeadlineExpiry { polling with clc := { polling.clc with roundDeadline := 1000 } } (fun t =>
        t.clc.due.get 0 == some 1000 && t.clc.due.get 1 == none) = true := by
  decide +kernel

/-- A break that ends at 1000, and the line at the end of draining. -/
def breaking : State :=
  { live with clc := { live.clc with line := .lineBreak 1000, driverEnable := true, txLevel := .space } }
def drained (line : LineState) : State :=
  let s := { live with sli := { live.sli with mode := .setup, draining := true } }
  { s with clc := { s.clc with line := line, drainFlag := true } }

/-- The break ends with the entries queued; position 1 is due since the given time. -/
def choosing (q : List QueueEntry) (due : Time) : State :=
  withEntries q { breaking with clc := { breaking.clc with due := breaking.clc.due.set 0 (some due) } }

/-- A CLEARANCE before an overdue poll, that before an ADMIN command, this before a poll that is not overdue, and the poll. -/
theorem witness_Arbiter :
    let chosen (s : State) := runs .lineBreakEnd s
    breaking.clc.line = .lineBreak breaking.now ∧ breaking.clc.drainFlag = false ∧ beaconCondition breaking = true ∧
      chosen (choosing [queued .routeEnd 0 false] 994) (fun t => t.clc.queue == [queued .routeEnd 1 true]) = true ∧
      chosen (choosing [queued .quiet 0 false] 994) (fun t => t.clc.queue == [queued .quiet 0 false]
        && t.clc.due.get 0 == none && t.clc.driverEnable) = true ∧
      chosen (choosing [queued .quiet 0 false] 995) (fun t => t.clc.queue == [queued .quiet 1 true]
        && t.clc.due.get 0 == some 995) = true ∧
      chosen (choosing [] 1000) (fun t => t.clc.line == .exchange { exchange .poll .sending with frame := .poll none }) = true := by
  decide +kernel

theorem witness_BreakAndDrain :
    runs .lineBreakEnd breaking (fun t => t.clc.line == .idle && !t.clc.driverEnable && t.clc.txLevel == .mark) = true ∧
      runs .lineBreakEnd (at' 999 breaking) (fun t => t == at' 999 breaking) = true ∧
      runs .queueDrained (drained .idle) (fun t => !t.clc.drainFlag && !t.sli.draining
        && (t.ident 0).state == .unknown) = true ∧
      runs .lineBreakEnd (drained (.lineBreak 1000)) (fun t => !t.clc.drainFlag && t.clc.line == .idle
        && (t.ident 0).state == .unknown) = true := by
  decide +kernel

/-! ### Identification and health -/

/-- While the drain flag stands. -/
def draining : State := { setup with clc := { setup.clc with drainFlag := true } }

def fields : PositionFields :=
  { position := 12, address := 30, site := 65535, permittedModes := 15, recovery := 1, routeLength := 3 }

theorem witness_Positions :
    Ready setup ∧ setup.sli.mode = .setup ∧ setup.clc.drainFlag = false ∧ Ready draining ∧
      runs (.setPosition (.fields fields)) setup (fun t => t.config.get 11 ==
        some { address := 30, site := 65535, permittedModes := 15, recovery := .host, routeLength := 3 }) = true ∧
      ([({ fields with position := 13 }, 1), ({ fields with address := 31 }, 2), ({ fields with address := 11 }, 2),
        ({ fields with site := 0 }, 3), ({ fields with site := 1000 }, 3), ({ fields with permittedModes := 16 }, 4),
        ({ fields with recovery := 2 }, 5), ({ fields with routeLength := 4 }, 6)].all
        (fun x => runs (.setPosition (.fields x.1)) setup (fun t => answer t == some (.badValue 0 x.2)))) = true ∧
      runs (.setPosition (.fields fields)) draining (fun t => answer t == some .busy) = true ∧
      runs (.clearPosition (.fields 1)) draining (fun t => answer t == some .busy) = true ∧
      runs (.clearPosition (.fields 1)) setup (fun t => t.config.get 0 == none) = true ∧
      runs (.clearPosition (.fields 2)) setup (fun t => answer t == some .noSuch) = true ∧
      runs (.clearPosition (.fields 13)) setup (fun t => answer t == some (.badValue 0 1)) = true :=
  ⟨ready_setup, rfl, rfl, ⟨rfl, rfl, rfl⟩, by decide +kernel⟩

/-- An identification of position 1 runs, its IDENTIFY on the line for the given time; the position permits the modes. -/
def identifying (attempts modes : Nat) : State :=
  let s := { live with config := live.config.set 0 (some { config with permittedModes := modes }) }
  commanding .identify attempts (s.withIdent 0 (fun _ => { Ident.reset with state := .probing }))

theorem witness_Identification :
    awaiting (identifying 1 15) (exchange (.command .identify none) .window) 0 ∧
      (identifying 1 15).clc.queue = queued .identify 1 true :: [] ∧ ((identifying 1 15).ident 0).state = .probing ∧
      ((identifying 1 15).health 0).score < 160 ∧
      ([(15, 7, .full), (14, 7, .timed), (12, 15, .paced), (15, 1, .paced), (15, 2, .none), (8, 15, .none)].all
        (fun (x : Nat × Nat × ResolvedMode) => runs (.identity 11 ⟨1000, x.2.1, 4⟩) (identifying 1 x.1) (fun t =>
          (t.ident 0).state == .identified && (t.ident 0).mode == some x.2.2))) = true ∧
      runs (.identity 11 ⟨1001, 15, 4⟩) (identifying 1 15) (fun t => (t.ident 0).state == .mismatch) = true ∧
      runs (.heartbeat 11) (identifying 1 8) (fun t => (t.ident 0).mode == some .relay
        && (t.ident 0).basic == some true) = true ∧
      runs (.heartbeat 11) (identifying 1 7) (fun t => (t.ident 0).state == .mismatch) = true :=
  ⟨⟨rfl, rfl, rfl⟩, by decide +kernel⟩

/-- From UNSEEN to LOCAL by the resolved mode, and the CUT-OFF test at the score after the GOOD outcome. -/
theorem witness_Identification_local :
    let unseen (modes : Nat) := (identifying 1 modes).withCoord 0 (fun c => { c with state := .unseen })
    let scored (n : Nat) := (unseen 15).withHealth 0 (fun h => { h with score := n })
    ([(15, .awaitingMark), (8, .noCommonMode)].all (fun (x : Nat × LocalReason) =>
      runs (.identity 11 ⟨1000, 15, 4⟩) (unseen x.1) (fun t => (t.coord 0).state == .inLocal x.2))) = true ∧
      runs (.heartbeat 11) (unseen 8) (fun t => (t.coord 0).state == .inLocal .relay) = true ∧
      runs (.identity 11 ⟨1000, 15, 4⟩) (scored 161) (fun t => (t.health 0).state == .cutOff
        && (t.coord 0).state == .inLocal .cutOff && (t.ident 0).state == .identified) = true ∧
      (scored 161).pm.routeFrom 0 = none ∧ runs (.identity 11 ⟨1000, 15, 4⟩) (scored 161) (fun t => t.ident 1 == live.ident 1) = true ∧
      runs (.identity 11 ⟨1000, 15, 4⟩) (scored 160) (fun t => (t.health 0).state != .cutOff) = true := by
  decide +kernel

theorem witness_Absent :
    runs .responseWindowExpiry (identifying 3 15) (fun t => (t.ident 0).state == .absent
        && (t.ident 0).reprobe == some 1300) = true ∧
      (let s := polling.withIdent 0 (fun _ => { Ident.reset with state := .absent, reprobe := some 1000 })
       s.isLive = true ∧ s.clc.line ≠ .idle ∧ (s.health 0).state ≠ .cutOff ∧ s.config.get 0 = some config ∧
        beaconCondition s = true ∧
        runs (.reprobeDeadlineExpiry 0) s (fun t => (t.ident 0).state == .probing
          && commands t == [.identify]) = true) := by
  decide +kernel

/-- A retry deadline of position 1 has come, in an identification state and a re-identification stage. -/
def retrying (state : IdState) (stage : Stage) : State :=
  (polling.withIdent 0 (fun _ => { Ident.reset with state := state, retry := some 1000 })).withHealth 0 (fun h =>
    { h with stage := stage })

theorem witness_Retry :
    ((retrying .probing .none).ident 0).retry = some (retrying .probing .none).now ∧
      (retrying .probing .none).isLive = true ∧ beaconCondition (retrying .probing .none) = true ∧
      runs (.retryDeadlineExpiry 0) (retrying .probing .none) (fun t =>
        commands t == [.identify]) = true ∧
      runs (.retryDeadlineExpiry 0) (retrying .unknown .quieting) (fun t =>
        commands t == [.quiet]) = true ∧
      runs (.retryDeadlineExpiry 0) (retrying .unknown .none) (fun t => t.clc.queue == []
        && (t.ident 0).retry == none) = true := by
  decide +kernel

/-- Position 1 is CUT-OFF, its probe deadline come, with some probes in a row GOOD. -/
def probing (probes : Nat) (s : State) : State :=
  s.withHealth 0 (fun h => { h with state := .cutOff, probes := probes, probeDeadline := some 1000, score := 200 })

theorem witness_Probes :
    runs (.probeDeadlineExpiry 0) (probing 0 polling) (fun t => commands t == [.probePoll]
        && (t.health 0).probeDeadline == some 1050) = true ∧
      (probing 0 (commanding .probePoll 1 live)).clc.queue = queued .probePoll 1 true :: [] ∧
      runs (.heartbeat 11) (probing 1 (commanding .probePoll 1 live)) (fun t => (t.health 0).probes == 2
        && (t.health 0).state == .cutOff && (t.health 0).score == 199) = true ∧
      runs (.heartbeat 11) (probing 2 (commanding .probePoll 1 live)) (fun t => (t.health 0).probes == 0
        && (t.health 0).state == .sound && (t.ident 0).state == .probing && (t.health 0).score == 0) = true := by
  decide +kernel

/-- Position 1 is being re-identified, in a stage. -/
def reidentifying (stage : Stage) (quiet : Option Time) (s : State) : State :=
  s.withHealth 0 (fun h => { h with stage := stage, quietTimer := quiet })

theorem witness_ReIdentify :
    Ready polling ∧ polling.sli.mode = .live ∧ (polling.ident 0).state ≠ .probing ∧ (polling.health 0).stage = .none ∧
      beaconCondition polling = true ∧ polling.config.get 1 = none ∧
      runs (.reIdentify (.fields 1)) polling (fun t => commands t == [.quiet]
        && (t.health 0).stage == .quieting && answer t == some .accepted) = true ∧
      runs (.reIdentify (.fields 1)) (reidentifying .quieting none polling) (fun t => answer t == some .inProgress) = true ∧
      runs (.reIdentify (.fields 2)) polling (fun t => answer t == some .noSuch) = true ∧
      ([0, 13].all (fun n => runs (.reIdentify (.fields n)) polling (fun t => answer t == some (.badValue 0 1)))) = true ∧
      runs (.ack 11) (reidentifying .quieting none (commanding .quiet 1 live)) (fun t => (t.health 0).stage == .quiet
        && (t.health 0).quietTimer == some 1030) = true ∧
      runs (.quietTimerExpiry 0) (reidentifying .quiet (some 1000) live) (fun t => (t.health 0).stage == .none
        && (t.ident 0).state == .probing) = true :=
  ⟨⟨rfl, rfl, rfl⟩, by decide +kernel⟩

theorem witness_Rejoin :
    let cut := live.withHealth 0 (fun h => { h with state := .cutOff })
    let refusing := live.withCoord 0 (fun c => { c with state := .inLocal .refusing, refusals := 4 })
    Ready cut ∧ Ready refusing ∧ cut.sli.mode = .live ∧
      runs (.rejoin (.fields 1)) cut (fun t => (t.health 0).probeDeadline == some 1050 && answer t == some .accepted) = true ∧
      runs (.rejoin (.fields 1)) (probing 0 cut) (fun t => answer t == some .inProgress) = true ∧
      runs (.rejoin (.fields 1)) refusing (fun t => (t.coord 0).state == .inLocal .awaitingMark
        && (t.coord 0).refusals == 0 && answer t == some (.done .none)) = true ∧
      runs (.rejoin (.fields 2)) cut (fun t => answer t == some .noSuch) = true ∧
      ([0, 13].all (fun n => runs (.rejoin (.fields n)) cut (fun t => answer t == some (.badValue 0 1)))) = true :=
  ⟨⟨rfl, rfl, rfl⟩, ⟨rfl, rfl, rfl⟩, by decide +kernel⟩

theorem witness_LineReset :
    let s := { live with ih := { live.ih with silence := some 1000, lineResets := 255 } }
    s.ih.silence = some s.now ∧
      runs .lineSilenceExpiry s (fun t => t.ih.lineResets == 255 && t.clc.line == .lineBreak 1005 && t.ps == s.ps
        && t.link inLink == { s.link inLink with queue := [] }
        && (t.ident 0).state == .probing && (t.ident 1).state == .unknown && t.ih.silence == none) = true ∧
      runs .lineSilenceExpiry { breaking with ih := { s.ih with lineResets := 0 } } (fun t =>
        t.ih.lineResets == 1 && t.clc.line == .lineBreak 1000) = true ∧
      runs .lineSilenceExpiry (withLine (exchange .poll .window) s) (fun t => t.clc.line == .lineBreak 1005
        && t.clc.driverEnable && t.clc.txLevel == .space && commands t == [.identify]) = true ∧
      runs .lineSilenceExpiry (withLine (exchange .poll .sending) s) (fun t =>
        t.clc.line == .exchange (exchange .poll .abandoned) && runs .commandFrameSent (at' 1001 t) (fun u =>
          u.clc.line == .lineBreak 1006 && u.clc.driverEnable && u.clc.txLevel == .space)) = true := by
  decide +kernel

/-! ### Event routing -/

def ruleFields : RuleFields :=
  { index := 48, matchKind := 9, matchDirection := 3, detectorLow := 1, detectorHigh := 32, positionSet := 4095,
    destinations := 15, tag := 255 }

def rule : Rule :=
  { kind := none, direction := none, detectorLow := 1, detectorHigh := 32, positions := 4095,
    destinations := { platoon := true, queue := true, demand := true, notice := true }, tag := 255 }

/-- The rule stands at place 48 with 7 hits. -/
def ruled : State :=
  { setup with er := { setup.er with rules := setup.er.rules.set 47 (some rule), hits := setup.er.hits.set 47 7, noMatch := 3 } }

theorem witness_Rules :
    Ready ruled ∧ ruled.sli.mode = .setup ∧ ruled.er.rules.get 47 ≠ none ∧ ruled.er.rules.get 0 = none ∧
      runs (.setRule (.fields ruleFields)) ruled (fun t => t.er.rules.get 47 == some rule && t.er.hits.get 47 == 0) = true ∧
      ([({ ruleFields with index := 49 }, 1), ({ ruleFields with matchKind := 5 }, 2),
        ({ ruleFields with matchDirection := 4 }, 3), ({ ruleFields with detectorLow := 33 }, 4),
        ({ ruleFields with detectorHigh := 0 }, 5), ({ ruleFields with positionSet := 4096 }, 6),
        ({ ruleFields with destinations := 16 }, 7), ({ ruleFields with tag := 256 }, 8)].all
        (fun x => runs (.setRule (.fields x.1)) ruled (fun t => answer t == some (.badValue 0 x.2)))) = true ∧
      runs (.clearRule (.fields 48)) ruled (fun t => t.er.rules.get 47 == none && t.er.hits.get 47 == 0) = true ∧
      runs (.clearRule (.fields 1)) ruled (fun t => answer t == some .noSuch) = true ∧
      runs (.getRuleReadAndZero (.fields 48)) ruled (fun t => t.er.hits.get 47 == 0
        && answer t == some (.done (.rule (some rule) 7))) = true ∧
      runs (.getRuleRead (.fields ⟨0, 0⟩)) ruled (fun t => answer t == some (.done (.ruleTable [47] 0 3))
        && t.er == ruled.er) = true ∧
      runs (.getRuleReadAndZero (.fields 0)) ruled (fun t => t.er.noMatch == 0) = true ∧
      ([(⟨49, 2⟩, 1), (⟨48, 2⟩, 2)].all (fun (x : RuleQuery × Nat) => runs (.getRuleRead (.fields x.1)) ruled (fun t =>
        answer t == some (.badValue 0 x.2)))) = true :=
  ⟨⟨rfl, rfl, rfl⟩, by decide +kernel⟩

/-- A record of position 1, 10 ds old, and the STATUS that carries it alone. -/
def recordOf (kind direction value extra : Nat) : EventRecord :=
  { sequence := 7, kind := kind, direction := direction, detector := 1, value := value, extra := extra, age := 10 }
def carrying (flags : Nat) (records : List EventRecord) : Instr :=
  .status 11 { statusOf 780 with flags := flags, records := records }

/-- A rule for every record stands at place 1, with a tag and its destinations. -/
def ruledBy (tag : Nat) (d : Destinations) (s : State) : State :=
  { s with er := { s.er with
      rules := s.er.rules.set 0 (some { rule with destinations := d, tag := tag }), hits := s.er.hits.set 0 65535 } }
def toPlatoon : Destinations := { platoon := true, queue := false, demand := false, notice := false }
def toQueue : Destinations := { toPlatoon with platoon := false, queue := true }
def toDemand : Destinations := { toPlatoon with platoon := false, demand := true }
def toNotice : Destinations := { toPlatoon with platoon := false, notice := true }

theorem witness_Reports_hypotheses :
    Reports polling (exchange .poll .window) 0 { statusOf 780 with records := [recordOf 1 0 20 0] } (recordOf 1 0 20 0) ∧
      deliveredBy (ruledBy 2 toPlatoon polling) 0 (recordOf 1 0 20 0) .inbound { rule with destinations := toPlatoon, tag := 2 } ∧
      fixedRecord (recordOf 5 2 0 0) .preemptCall .none :=
  ⟨⟨⟨⟨rfl, rfl, rfl⟩, rfl, rfl, by decide⟩, rfl, rfl, fun _ h => by cases h⟩,
    ⟨rfl, rfl, .arrival, 0, rfl, rfl, by decide +kernel⟩, ⟨rfl, rfl, rfl, rfl⟩⟩

/-- A record of each sort, repeats, and two new records out of order. -/
theorem witness_Records :
    ([(9, 0), (0, 3)].all (fun (x : Nat × Nat) => runs (carrying 0 [recordOf x.1 x.2 0 0]) polling (fun t =>
        t.er.noMatch == 1 && t.clc.accepted.get 0 == some 7))) = true ∧
      runs (carrying 0 [{ recordOf 0 0 0 0 with detector := 33 }]) polling (fun t => t.er.noMatch == 1) = true ∧
      runs (carrying 0 [recordOf 8 0 0 0]) (ruledBy 1 toNotice polling) (fun t => t.er.fixedCount == 1) = true ∧
      runs (carrying 0 [recordOf 4 0 0 0]) polling (fun t => t.er.noMatch == 1) = true ∧
      runs (carrying 0 [recordOf 4 0 0 0]) (ruledBy 0 toNotice polling) (fun t => t.er.hits.get 0 == 65535
        && t.er.noMatch == 0) = true ∧
      (let known (n : Nat) := { polling with clc := { polling.clc with accepted := polling.clc.accepted.set 0 (some n) } }
       ([7, 134].all (fun n => runs (carrying 0 [recordOf 4 0 0 0]) (known n) (fun t => t.er == polling.er
         && t.clc.accepted.get 0 == some n))) = true ∧
         runs (carrying 0 [recordOf 4 0 0 0]) (known 136) (fun t => t.er.noMatch == 1) = true ∧
         runs (carrying 0 [recordOf 4 0 0 0, { recordOf 4 0 0 0 with sequence := 255 }]) (known 250) (fun t =>
           t.er.noMatch == 2 && t.clc.accepted.get 0 == some 7) = true ∧
         runs (carrying 0 [recordOf 4 0 0 0, recordOf 9 0 0 0]) (known 6) (fun t => t.er.noMatch == 1
           && t.clc.accepted.get 0 == some 7) = true) := by
  decide +kernel

def outLink : Link := { segment := 0, direction := .outbound }

/-- Both ends of segment 1 stand; the outbound link of depth 1 holds the platoons. -/
def linked (q : List Platoon) (free : Nat) : State :=
  let s := (polling.withCoord 1 (fun c => { c with state := .inStep })).withLink outLink (fun r => { r with queue := q, depth := 1 })
  ruledBy 1 toPlatoon { s with pt := { s.pt with freeCount := free } }

/-- A departure placed, refused by its size, without a free record, displacing the oldest, and older than all. -/
theorem witness_Departures :
    let departs (size : Nat) := carrying 0 [recordOf 0 1 40 size]
    linkLeaving 0 .outbound = some outLink ∧ linkLeaving 0 .inbound = none ∧
      runs (departs 6) (linked [] 64) (fun t => t.pt.freeCount == 63 && t.pt.nextNumber == 2 && (t.link outLink).queue ==
        [{ number := 1, head := 950, duration := 40, size := 6, predictedHead := 1238, predictedTail := 1288,
           windowOpen := 1208, windowClose := 1338 }]) = true ∧
      runs (departs 5) (linked [] 64) (fun t => t.pt == (linked [] 64).pt) = true ∧
      runs (departs 6) (linked [] 0) (fun t => t.pt == { (linked [] 0).pt with poolEmptyRaised := true }) = true ∧
      runs (departs 6) (linked [platoon 7 1338] 63) (fun t => (t.link outLink).queue.map Platoon.number == [1]
        && t.pt.freeCount == 63) = true ∧
      runs (departs 6) (linked [{ platoon 7 1338 with head := 951 }] 63) (fun t =>
        (t.link outLink).queue.map Platoon.number == [7]) = true := by
  decide +kernel

/-- Position 2 reports an arrival 500 ds after the head of the oldest of two platoons on the outbound link of segment 1. -/
def arriving (s : State) : State :=
  let s := (s.withIdent 1 (fun _ => unit)).withLink outLink (fun r =>
    { r with queue := [{ platoon 7 1338 with windowOpen := 991 }, { platoon 8 1338 with windowOpen := 990 }], tracked := false })
  let s := { s with ps := { s.ps with image := some { slot := 0, plan := { plan with header := { plan.header with wave := .outbound } } } } }
  let s := s.withCoord 1 (fun c => { c with state := .inStep, target := some { offset := 100, commandPoint := 70 } })
  ruledBy 2 toPlatoon (withLine { exchange .poll .window with position := some 1 } s)

theorem witness_Arrivals :
    linkArriving 1 .outbound = some outLink ∧
      runs (carrying 0 [recordOf 1 1 0 0]) (arriving live) (fun t => (t.link outLink).queue.map Platoon.number == [7]
        && (t.link outLink).tracked && (t.link outLink).estimate == moveToward 288 490 4 && t.pt.freeCount == 65
        && t.pt.accumulators.get 1 == { sum := -60, count := 1 }) = true ∧
      runs (carrying 0 [{ recordOf 1 1 0 0 with age := 11 }]) (arriving live) (fun t => t.pt == (arriving live).pt) = true ∧
      runs (carrying 0 [recordOf 1 0 0 0]) (arriving live) (fun t => t.pt == (arriving live).pt) = true := by
  decide +kernel

/-- A sample that begins a record, one at the limits, one out of range, and counts of both directions. -/
theorem witness_SamplesAndCounts :
    let samples (value : Nat) := carrying 0 [recordOf 2 0 value 0]
    ([(29, .clear), (30, .building), (60, .blocked)].all (fun (x : Nat × QueueState) =>
      runs (samples x.1) (ruledBy 1 toQueue polling) (fun t => t.approach 0 .inboundArterial ==
        { state := x.2, worst := x.2, heard := some { smoothed := x.1, lastSample := 990, silence := 1290 } }))) = true ∧
      runs (samples 101) (ruledBy 1 toQueue polling) (fun t => t.qw == polling.qw) = true ∧
      runs (samples 70) (ruledBy 3 toQueue polling) (fun t => t.qw == polling.qw) = true ∧
      ([(56, .building), (57, .blocked)].all (fun (x : Nat × QueueState) =>
        let s := { withLine (exchange .poll .window) blocked with
          qw := { blocked.qw with sideLimits := { blocked.qw.sideLimits with exponent := 0 } } }
        runs (samples x.1) (ruledBy 2 toQueue s) (fun t =>
          (t.approach 0 .side).state == (if x.1 < 60 then .building else x.2)))) = true ∧
      runs (carrying 0 [recordOf 3 0 300 0]) (ruledBy 4 toDemand polling) (fun t => t.ps.inboundAccumulator == 1200) = true ∧
      runs (carrying 0 [recordOf 3 1 65535 0]) (ruledBy 4 toDemand polling) (fun t => t.ps.outboundAccumulator == 65535) = true ∧
      ([(5, 0), (4, 2)].all (fun (x : Nat × Nat) => runs (carrying 0 [recordOf 3 x.2 9 0]) (ruledBy x.1 toDemand polling)
        (fun t => t.ps == polling.ps))) = true := by
  decide +kernel

/-- Position 1 calls with a route of 2 outbound, of which the first is fit to join and the second not. -/
def calling : State :=
  let s := (polling.withIdent 1 (fun _ => unit)).withCoord 1 (fun c => { c with state := .inStep })
  { s with config := (s.config.set 0 (some { config with routeLength := 2 })).set 1 (some { config with address := 12, site := 2 }) }

theorem witness_Calls :
    ahead .outbound 2 0 = [1] ++ [2] ∧
      runs (carrying 2 [recordOf 5 2 0 0]) polling (fun t => t.owner 0 == .localCall .none
        && (t.coord 0).state == .preempted) = true ∧
      runs (carrying 0 [recordOf 5 2 0 0]) polling (fun t => t.owner 0 == .none && (t.coord 0).state == .seeking .lengthen
        && (t.coord 0).measured == none) = true ∧
      runs (carrying 2 [recordOf 5 1 0 0]) calling (fun t => t.owner 1 == .route 0 && (t.coord 1).state == .preempted
        && t.pm.routes == [{ ref := { origin := 0, serial := 0 }, direction := .outbound,
                             members := [{ position := 1, held := false }], start := 1000, deadline := 2200 }]
        && commands t == [.routeClear .outbound 1200]) = true ∧
      runs (carrying 2 [recordOf 5 0 0 0]) calling (fun t => t.pm.routes == []) = true ∧
      runs (carrying 0 [recordOf 6 0 0 0]) (withLine (exchange .poll .window) (routed.withCoord 0 (fun c =>
        { c with state := .preempted }))) (fun t => t.owner 0 == .none && t.pm.routes == []
          && (t.coord 0).state == .seeking .lengthen && (t.coord 0).measured == none) = true ∧
      runs (carrying 0 [recordOf 6 0 0 0]) polling (fun t => t.pm == polling.pm) = true := by
  decide +kernel

/-- A candidate that an ended route of the same origin still owns becomes a member again, its coordination as it was. -/
theorem witness_Calls_releasePending :
    let s := { calling with pm := { calling.pm with owners := calling.pm.owners.set 1 (.route 0) } }
    s.pm.isMember 1 = false ∧ s.owner 1 = .route 0 ∧
      runs (carrying 2 [recordOf 5 1 0 0]) s (fun t => t.owner 1 == .route 0 && t.coord 1 == s.coord 1
        && t.pm.routes.length == 1 && commands t == [.routeClear .outbound 1200]) = true := by
  decide +kernel

/-- A fault of a position with and without a route, and transit calls granted, refused by the queue, and denied for each reason. -/
theorem witness_FaultsAndTransit :
    let fault (s : State) := runs (carrying 0 [recordOf 8 2 0 0]) s
    let transit (s : State) := runs (carrying 0 [recordOf 7 0 50 1]) s
    let deny (reason : DenyReason) (t : State) := commands t == [.priorityAnswer (.deny reason)]
    let owned (o : Owner) := { polling with pm := { polling.pm with owners := polling.pm.owners.set 0 o } }
    fault polling (fun t => t.budget 0 == 3) = true ∧ fault (polling.withBudget 0 4) (fun t => t.budget 0 == 4) = true ∧
      fault { owned (.route 1) with pm := { (owned (.route 1)).pm with
        routes := [{ route with ref := { origin := 1, serial := 0 }, members := [{ position := 0, held := true }] }] } }
        (fun t => t.owner 0 == .route 1 && !t.pm.isMember 0 && commands t == [.routeEnd]) = true ∧
      transit polling (fun t => (t.coord 0).grant == some 100 && t.budget 0 == 3
        && commands t == [.priorityAnswer (.grant 100)]) = true ∧
      transit (withEntries (List.replicate 24 (queued .routeEnd 0 false)) polling) (fun t => t.pm == polling.pm
        && (t.coord 0).grant == none) = true ∧
      transit (owned (.route 1)) (deny .preempted) = true ∧ transit (pollingIn .preempted) (deny .preempted) = true ∧
      transit (polling.withIdent 0 (fun i => { i with mode := some .timed })) (deny .notEligible) = true ∧
      transit { polling with qw := { polling.qw with approaches := update polling.qw.approaches 0 (fun a =>
        { a with inbound := { a.inbound with state := .blocked } }) } } (deny .notEligible) = true ∧
      transit { polling with qw := { polling.qw with approaches := update polling.qw.approaches 1 (fun a =>
        { a with inbound := { a.inbound with state := .blocked }, outbound := { a.outbound with state := .blocked } }) } }
        (deny .overlay) = true ∧
      transit (polling.withBudget 0 1) (deny .budget) = true := by
  decide +kernel

/-- A frame goes out, so that every notice offered stays in the queue. -/
def noting (s : State) : State := { s with sli := { s.sli with sending := some (.reply .frameError) } }

/-- The command raises these notices, in order. -/
def notes (c : Instr) (s : State) (bodies : List NoticeBody) : Bool :=
  runs c (noting s) (fun t => t.sli.notices.map Notice.body == bodies)

/-- The command raises this notice first. -/
def notesFirst (c : Instr) (s : State) (body : NoticeBody) : Bool :=
  runs c (noting s) (fun t => (t.sli.notices.map Notice.body).head? == some body)

theorem witness_Notices_of_deadlines :
    notes .commitComplete committing [.commitDone 3 plan.header [0]] = true ∧
      notes .eraseComplete erasing [.eraseDone 0] = true ∧
      notes (.windowCloseExpiry 7) (withPlatoons 2) [.linkTracking inLink false 288 3] = true ∧
      notes (.windowCloseExpiry 7) (withPlatoons 1) [] = true ∧
      notes (.approachSilenceExpiry 0 .side) { blocked with qw := { blocked.qw with
          gridlock := blocked.qw.gridlock.set 0 { cross := true, chainInbound := false, chainOutbound := false } } }
        [.queueState { position := 0, approach := .side, previous := .blocked, new := .unknown, smoothed := none,
                       overlays := { flush := false, gate := false, sideRelief := false }, gated := none },
         .gridlockRisk 0 .cross false { flush := false, gate := false, sideRelief := false }] = true ∧
      notes (.routeTimeout 0) (routedTo 1) [.preemptEnd 0 .timeout [1]] = true ∧
      notesFirst .lineSilenceExpiry { live with ih := { live.ih with silence := some 1000, lineResets := 255 } }
        (.lineReset none [0] 255) = true ∧
      notesFirst .cycleMark pendingPlan (.planChange
        { previousSlot := some 0, newSlot := 1, previousLength := 900, newLength := 1000, wave := .outbound, cause := .pin,
          deferrals := 0, totalFlow := 300, inboundShare := 100 }) = true ∧
      notesFirst .cycleMark { pendingPlan with pl := live.pl } (.planChangeFailed 1 .pin .empty 0) = true := by
  decide +kernel

theorem witness_Notices_of_exchanges :
    notes .responseWindowExpiry (faulty 56 1 .sound polling) [.healthChange 0 .sound .degraded 64 2 .score] = true ∧
      notes .responseWindowExpiry (faulty 55 1 .sound polling) [] = true ∧
      notesFirst .responseWindowExpiry (faulty 0 2 .sound polling) (.healthChange 0 .sound .cutOff 8 3 .failures) = true ∧
      notesFirst .responseWindowExpiry (faulty 152 1 .sound polling) (.healthChange 0 .sound .cutOff 160 2 .score) = true ∧
      (let refused (n : Nat) := (commanding (.timingSet (figures 900)) 1 live).withCoord 0 (fun c => { c with refusals := n })
       notes (.nak 11 4) (refused 2) [.timingRefused 0 .badPlan 3 1] = true ∧
         notes (.nak 11 4) (refused 3)
           [.timingRefused 0 .badPlan 4 1, .positionState 0 (.inLocal .refusing) (some 100) none] = true) ∧
      notes (.identity 11 ⟨1001, 15, 4⟩) (identifying 1 15) [.siteMismatch 0 1000 (some 1001) .site] = true ∧
      notes (.identity 11 ⟨1000, 15, 4⟩) (identifying 1 15) [.identified 0
        { result := .identified, site := some 1000, abilities := unit.abilities, detectors := some 4, mode := some .full,
          basic := some false }] = true ∧
      (let absent : NoticeBody := .identified 0
        { result := .absent, site := none, abilities := none, detectors := none, mode := none, basic := none }
       notes .responseWindowExpiry (identifying 3 15) [absent] = true ∧
         notes .responseWindowExpiry { identifying 3 15 with
           ih := { (identifying 3 15).ih with wasAbsent := live.ih.wasAbsent.set 0 true } } [] = true) := by
  decide +kernel

theorem witness_Notices_of_reports :
    let report (kind : RecordKind) (direction : EventDirection) (value extra : Nat) : RecordReport :=
      { sequence := 7, kind := kind, direction := direction, detector := 1, value := value, extra := extra, eventTime := 990 }
    notes (carrying 2 []) polling
        [.positionState 0 .preempted (some 100) none, .preemptStart 0 .none .flag .noneRequested] = true ∧
      notes (carrying 2 []) (pollingIn (.inLocal .refusing)) [.preemptStart 0 .none .flag .noneRequested] = true ∧
      notes (carrying 2 [recordOf 5 2 0 0]) polling
        [.positionState 0 .preempted (some 100) none, .preemptStart 0 .none .call .noneRequested] = true ∧
      notesFirst (carrying 0 [recordOf 6 0 0 0]) (withLine (exchange .poll .window)
        { routed with pm := { routed.pm with routes := [] } }) (.preemptEnd 0 .clear []) = true ∧
      notesFirst (carrying 0 [recordOf 7 0 50 1]) polling (.transitGrant
        { position := 0, direction := .inbound, arrival := 50, extra := 1, answer := .grant 100, queued := true, budget := 3 }) = true ∧
      notesFirst (carrying 0 [recordOf 8 2 0 0]) polling (.detectorEvent 0 none (report .unitFault .none 0 0)) = true ∧
      notesFirst (carrying 0 [recordOf 4 0 3 5]) (ruledBy 9 toNotice polling)
        (.detectorEvent 0 (some (0, 9)) (report .actuation .inbound 3 5)) = true ∧
      notesFirst (carrying 0 [recordOf 2 0 60 0]) (ruledBy 1 toQueue polling) (.queueState
        { position := 0, approach := .inboundArterial, previous := .unknown, new := .blocked, smoothed := some 60,
          overlays := { flush := true, gate := false, sideRelief := false },
          gated := some (1, { flush := false, gate := true, sideRelief := false }) }) = true ∧
      notesFirst (carrying 0 [recordOf 0 1 40 6]) (linked [] 0) (.poolEmpty outLink 6) = true ∧
      notesFirst (carrying 0 [recordOf 1 1 0 0]) (arriving live) (.linkTracking outLink true 288 0) = true := by
  decide +kernel

/-! ### Part modes and the transmitter -/

theorem witness_GoLive :
    Ready setup ∧ setup.sli.mode = .setup ∧ setup.sli.draining = false ∧ setup.config.get 0 ≠ none ∧
      (∀ p : Pos, State.reset.config.get p = none) ∧
      ([5, 20].all (fun n => runs (.goLive (.fields n)) setup (fun t => t.sli.mode == .live && t.clc.pollRound == n
        && t.clc.roundDeadline == later 0 n && (t.ident 0).state == .probing && (t.ident 1).state == .unknown))) = true ∧
      ([4, 21].all (fun n => runs (.goLive (.fields n)) setup (fun t => answer t == some (.badValue 0 1)))) = true ∧
      runs (.goLive (.fields 9)) { setup with config := setup.config.set 9 (some { config with address := 12, site := 2 }) }
        (fun t => t.clc.queue.map QueueEntry.position == [some 0, some 9]) = true ∧
      runs (.goLive (.fields 4)) State.reset (fun t => answer t == some .wrongMode) = true ∧
      runs (.goLive (.fields 5)) { setup with sli := { setup.sli with draining := true } } (fun t =>
        answer t == some .busy) = true :=
  ⟨ready_setup, by decide +kernel⟩

theorem witness_GoSetup :
    Ready routed ∧ routed.sli.mode = .live ∧
      runs (.goSetup (.fields ())) routed (fun t => t.sli.mode == .setup && t.pm.routes == []
        && (t.coord 0).state == .inLocal .setup && t.ps.image == live.ps.image) = true :=
  ⟨⟨rfl, rfl, rfl⟩, by decide +kernel⟩

/-- With the line taken the part drains, the RUN-LOCAL queued; with nothing to send it is drained at once. The selector is
FREE, its requested mode and pending plan withdrawn. -/
theorem witness_GoSetup_drains :
    let busy : State := withLine (exchange .poll .window)
      { pendingPlan with ps := { pendingPlan.ps with requested := some .free, deferrals := 3, persistenceCount := 2 } }
    let silent : State := { pendingPlan.withCoord 0 (fun c => { c with state := .inLocal .free }) with pm := State.reset.pm }
    let free (t : State) : Bool := t.ps.mode == .free && t.ps.requested == none && t.ps.pendingPlan == none
      && t.ps.deferrals == 0 && t.ps.persistenceCount == 0 && t.ps.inboundAccumulator == 0 && t.ps.image == live.ps.image
    runLocalFits busy 0 12 ∧ coordinated (busy.coord 0).state = true ∧ busy.clc.line ≠ .idle ∧
      runs (.goSetup (.fields ())) busy (fun t => t.clc.drainFlag && t.sli.draining && t.clc.line == busy.clc.line
        && (t.coord 0).state == .inLocal .setup && (t.ident 0).state == .identified && commands t == [.runLocal] && free t) = true ∧
      (silent.clc.line = .idle ∧ silent.clc.queue = [] ∧ silent.pm.routes = []) ∧
      runs (.goSetup (.fields ())) silent (fun t => !t.clc.drainFlag && !t.sli.draining && (t.coord 0).state == .unseen
        && (t.ident 0).state == .unknown && t.clc.queue == [] && free t) = true :=
  ⟨⟨rfl, by decide, by decide, by decide⟩, by decide +kernel⟩

theorem witness_CoordRestart :
    let s := live.withCoord 0 (fun c => { c with trim := 5, measured := some { offset := 100, time := 990 } })
    Ready s ∧ s.sli.mode = .live ∧ steered (s.coord 0).state = true ∧
      runs (.coordRestart (.fields ())) s (fun t => (t.coord 0).trim == 0 && (t.coord 0).measured == none
        && (t.coord 0).state == .seeking .lengthen) = true :=
  ⟨⟨rfl, rfl, rfl⟩, by decide +kernel⟩

/-- A local call ends with its PRIORITY-ANSWER withdrawn, and the error base, the pending plan and the candidate go. -/
theorem witness_CoordRestart_releases :
    let called := { pendingPlan.withCoord 0 (fun c => { c with state := .preempted }) with
      pm := { live.pm with owners := live.pm.owners.set 0 (.localCall .inbound) }
      pt := { live.pt with errorBase := some 900 } }
    let s := withEntries [queued (.priorityAnswer (.grant 100)) 0 false]
      (withLine (exchange .poll .window)
        { called with ps := { called.ps with previousCandidate := some 3, persistenceCount := 2, deferrals := 5 } })
    runs (.coordRestart (.fields ())) s (fun t => t.owner 0 == .none && (t.coord 0).state == .seeking .lengthen
        && t.clc.queue == [] && t.pt.errorBase == none && t.ps.mode == .pinned 1 && t.ps.pendingPlan == none
        && t.ps.deferrals == 0 && t.ps.previousCandidate == none && t.ps.persistenceCount == 0) = true ∧
      runs (.coordRestart (.fields ())) { s with ps := { s.ps with image := none } } (fun t =>
        (t.coord 0).state == .inLocal .notInPlan && commands t == [.runLocal]) = true := by
  decide +kernel

def notice (n : Nat) : Notice := { stamp := n, body := .eraseDone 0 }

/-- The transmitter sends; a short answer and two notices wait, and 3 notices were lost. -/
def sendingState (x : Sending) : State :=
  { setup with sli := { setup.sli with
      sending := some x, shortAnswers := [.frameError], notices := [notice 1, notice 2], overrun := 3 } }

theorem witness_Transmitter :
    (sendingState (.notice (notice 0))).sli.resetPending = false ∧
      runs .transmitFrameDone (sendingState (.notice (notice 0))) (fun t =>
        t.sli.sending == some (.shortAnswer .frameError)) = true ∧
      runs .transmitFrameDone (sendingState (.shortAnswer .frameError)) (fun t => t.sli.sending == some (.notice (notice 1))
        && t.sli.notices == [notice 2, { stamp := 0, body := .overrun 3 }] && t.sli.overrun == 0) = true ∧
      runs .transmitFrameDone
        { setup with sli := { setup.sli with sending := some (.reply .frameError), replySlot := some .frameError } }
        (fun t => t.sli.sending == none && t.sli.replySlot == none) = true ∧
      (let s := { resetPending with sli := { resetPending.sli with
        sending := some (.reply .frameError), replySlot := some .frameError, shortAnswers := [.frameError] } }
       runs .transmitFrameDone s (fun t => t.sli.sending == none && t.sli.replySlot == none
         && t.sli.shortAnswers == [.frameError]) = true) := by
  decide +kernel

/-- A notice of a kind that is not enabled, with 31 and with 32 held. -/
theorem witness_Offered :
    let sli (n : Nat) := { setup.sli with notices := List.replicate n (notice 1) }
    ({ sli 0 with enabled := [.overrun] } : Supervisory).offered 5 (.eraseDone 0) = { sli 0 with enabled := [.overrun] } ∧
      (sli 31).offered 5 (.eraseDone 0) = { sli 31 with notices := (sli 31).notices ++ [notice 5] } ∧
      (sli 32).offered 5 (.eraseDone 0) = { sli 32 with overrun := 1 } ∧
      ({ sli 32 with overrun := 65535 } : Supervisory).offered 5 (.eraseDone 0) = { sli 32 with overrun := 65535 } := by
  decide +kernel

/-! ### What every step keeps: a state of a run that has these forms, and a step from it -/

theorem witness_forms_kept :
    let s := { routed with pending := [.routeTimeout 0] }
    (s.sli.notices.length ≤ 32 ∧ s.sli.shortAnswers.length ≤ 16 ∧ s.clc.queue.length ≤ 24 ∧ s.pm.routes.length ≤ 6) ∧
      s.clc.queue = [] ∧ PinsFollowLine s ∧ CycleSound s ∧ s.pl.slots.get 0 = .valid plan ∧ planValid plan = true ∧
      s.pt.freeCount + heldPlatoons s = 64 ∧ heldPlatoons (withPlatoons 0) = 2 ∧
      (match step s with
       | .next t => t.pm.routes == [] && t.pending == []
       | _ => false) = true :=
  ⟨by decide +kernel, rfl, ⟨rfl, rfl⟩, ⟨rfl, by decide +kernel⟩, by decide +kernel⟩

theorem witness_stores_change :
    (∀ a b, Instr.routeTimeout 0 ≠ .powerOnReset a b) ∧ Instr.routeTimeout 0 ≠ .partResetActs ∧
      Instr.routeTimeout 0 ≠ .decisecondTick ∧ exec (.routeTimeout 0) routed = .next (after (.routeTimeout 0) routed) :=
  ⟨fun _ _ => nofun, nofun, nofun, rfl⟩

end Sys2Proof.Tests
end

section
/-! PROOF. Corridor time (01): SET-TIME and SET-BEACON take values in range and no other, and which commands leave the beacon
settings (O15). -/

open Sys2Proof Sys2Proof.Machine

namespace Sys2Proof.Proofs.CorridorTime

/-! ### SET-TIME and the decisecond after it (R3, R4) -/

theorem setTime_inDay {v : Nat} (hv : v ≤ 863999) (s : State) :
    setTime v s = ({ s with ctb := { s.ctb with timeOfDay := v } }, .done .none) :=
  if_pos (Nat.lt_succ_of_le hv)

theorem setTime_pastDay {v : Nat} (hv : 864000 ≤ v) (s : State) : setTime v s = (s, .badValue 0 1) :=
  if_neg (Nat.not_lt.2 hv)

theorem exec_setTime_inDay {v : Nat} {s : State} (h : Ready s) (hv : v ≤ 863999) :
    exec (.setTime (.fields v)) s =
      .next (({ s with ctb := { s.ctb with timeOfDay := v } } : State).answered .setTime (.done .none)) :=
  congrArg Host.Outcome.next (onRequest_done h (setTime_inDay hv _))

theorem exec_setTime_pastDay {v : Nat} {s : State} (h : Ready s) (hv : 864000 ≤ v) :
    exec (.setTime (.fields v)) s = .next (s.answered .setTime (.badValue 0 1)) :=
  congrArg Host.Outcome.next (onRequest_refused h (setTime_pastDay hv _))

theorem nextTimeOfDay_inDay {v : Nat} (hv : v ≤ 863999) : nextTimeOfDay v = if v = 863999 then 0 else v + 1 := by
  unfold nextTimeOfDay Config.dayLength
  split <;> split <;> omega

/-- Whatever the events still due in the decisecond do, the time of day advances from the value it began with. -/
theorem tick_timeOfDay {s : State} (h : s.sli.resetPending = false) :
    (tick s).ctb.timeOfDay = nextTimeOfDay s.ctb.timeOfDay := by
  have notDue : ¬ partResetDue s = true := by simp [partResetDue, h]
  unfold tick
  rw [if_neg notDue]
  rfl

/-! ### SET-BEACON (R11) -/

theorem setBeacon_inRange {v : Nat} (hv : 20 ≤ v ∧ v ≤ 300) (s : State) :
    setBeacon v s =
      ({ s with ctb := { s.ctb with beaconInterval := v, beaconDeadline := later s.now v } }, .done .none) :=
  if_pos (by simpa [inRange] using hv)

theorem setBeacon_outOfRange {v : Nat} (hv : ¬ (20 ≤ v ∧ v ≤ 300)) (s : State) : setBeacon v s = (s, .badValue 0 1) :=
  if_neg (by simpa [inRange] using hv)

theorem exec_setBeacon_inRange {v : Nat} {s : State} (h : Ready s) (hv : 20 ≤ v ∧ v ≤ 300) :
    exec (.setBeacon (.fields v)) s =
      .next (({ s with ctb := { s.ctb with beaconInterval := v, beaconDeadline := later s.now v } } : State).answered
        .setBeacon (.done .none)) :=
  congrArg Host.Outcome.next (onRequest_done h (setBeacon_inRange hv _))

theorem exec_setBeacon_outOfRange {v : Nat} {s : State} (h : Ready s) (hv : ¬ (20 ≤ v ∧ v ≤ 300)) :
    exec (.setBeacon (.fields v)) s = .next (s.answered .setBeacon (.badValue 0 1)) :=
  congrArg Host.Outcome.next (onRequest_refused h (setBeacon_outOfRange hv _))

/-! ### The resets (R176) -/

theorem exec_powerOnReset_ctb (supRate corRate : Bool) (s : State) :
    ∃ t, exec (.powerOnReset supRate corRate) s = .next t ∧ t.ctb = TimeBase.reset := ⟨_, rfl, rfl⟩

theorem partResetDue_iff {s : State} :
    partResetDue s = true ↔ s.sli.resetPending = true ∧ s.sli.replySlot = none ∧ s.pl.write = .idle := by
  simp [partResetDue, Library.writing, and_assoc]

theorem exec_partResetActs_ctb {s : State} (due : partResetDue s = true) :
    ∃ t, exec .partResetActs s = .next t ∧ t.ctb = TimeBase.reset :=
  ⟨partReset s, congrArg Host.Outcome.next (if_pos due), rfl⟩

/-! ### What leaves the Corridor Time Base as it was

Each of these handlings is changes of other blocks and runs of `Moves`, which leave the time base (`LeavesStores`). A state on
the way is made opaque once its time base is known, so that no later step unfolds how it came about. -/

theorem ctb_of_moves {s t : State} (h : Moves true true s t) : t.ctb = s.ctb := h.leavesStores.ctb

theorem goLiveNow_ctb (n : Nat) (s : State) : (goLiveNow n s).ctb = s.ctb := by
  unfold goLiveNow
  extract_lets _ s₁ _ s₂
  exact ctb_of_moves (s := s₂) (Moves.settleLine (Moves.rollCall (.refl s₂)))

theorem goSetupNow_ctb (s : State) : (goSetupNow s).ctb = s.ctb := by
  unfold goSetupNow
  extract_lets _ _ s₁ s₂ s₃ s₄ s₅
  have h₂ : s₂.ctb = s.ctb := rfl
  clear_value s₂
  have h₃ : Moves true true s₂ s₃ :=
    Moves.forPositions (f := coordSetupAt) (fun p _ h => Moves.coordSetupAt p h) (.refl s₂)
  have h₄ : Moves true true s₂ s₄ := Moves.clearWatch (Moves.flushPool (Moves.releasePriority h₃))
  have h₅ : Moves true true s₂ s₅ := Moves.withdraw _ (Moves.identifySetup h₄)
  exact (ctb_of_moves (Moves.settleLine (Moves.reportIfDrained (Moves.dropBeacon h₅)))).trans h₂

theorem coordRestartNow_ctb (s : State) : (coordRestartNow s).ctb = s.ctb := by
  unfold coordRestartNow
  extract_lets s₁ s₂ _ s₃ s₄
  have h₁ : Moves true true s s₁ :=
    Moves.forPositions (f := coordRestartAt) (fun p _ h => Moves.coordRestartAt p h) (.refl s)
  have h₂ : s₂.ctb = s.ctb := ctb_of_moves (Moves.flushPool h₁)
  clear_value s₂
  have h₃ : s₃.ctb = s.ctb := h₂
  clear_value s₃
  have h₄ : s₄.ctb = s.ctb := (ctb_of_moves (Moves.priorityRestart (Moves.clearWatch (.refl s₃)))).trans h₃
  clear_value s₄
  exact (settles_settleLine { s₄ with ps := s₄.ps.restart }).ctb.trans h₄

theorem onFrame_ctb {busy : Reply} {handle : State → State} (s : State) (h : ∀ u, (handle u).ctb = u.ctb) :
    (onFrame busy handle s).ctb = s.ctb := by
  unfold onFrame
  dsimp only
  split
  · rfl
  · split
    · rfl
    · exact h (frameTaken s)

theorem onRequest_ctb {α : Type} {k : RequestKind} {handle : α → State → State × Answer} (body : Body α) (s : State)
    (h : ∀ x u, (handle x u).1.ctb = u.ctb) : (onRequest k body handle s).ctb = s.ctb := by
  refine onFrame_ctb s (fun u => ?_)
  cases body with
  | wrongLength n => rfl
  | fields x => exact h x u

theorem inMode_ctb {m : PartMode} {handle : State → State × Answer} (s : State) (h : (handle s).1.ctb = s.ctb) :
    (inMode m handle s).1.ctb = s.ctb := by
  unfold inMode
  split
  · exact h
  · rfl

theorem goLive_ctb (n : Nat) (s : State) : (goLive n s).1.ctb = s.ctb := by
  unfold goLive
  split
  · rfl
  · split
    · rfl
    · split
      · rfl
      · split
        · rfl
        · exact goLiveNow_ctb n s

/-- COORD-RESTART, a line reset, GO-LIVE and GO-SETUP leave the whole of the Corridor Time Base. -/
theorem exec_restart_or_mode_ctb {c : Instr} {n : Nat} (s : State)
    (hc : c = .coordRestart (.fields ()) ∨ c = .lineSilenceExpiry ∨ c = .goLive (.fields n) ∨ c = .goSetup (.fields ())) :
    ∃ t, exec c s = .next t ∧ t.ctb = s.ctb := by
  rcases hc with rfl | rfl | rfl | rfl
  · exact ⟨_, rfl, onRequest_ctb _ s (fun _ u => inMode_ctb u (coordRestartNow_ctb u))⟩
  · exact ⟨_, rfl, ctb_of_moves (Moves.silenceEvent (.refl s))⟩
  · exact ⟨_, rfl, onRequest_ctb _ s goLive_ctb⟩
  · exact ⟨_, rfl, onRequest_ctb _ s (fun _ u => inMode_ctb u (goSetupNow_ctb u))⟩

/-- Settles O15: the two requests by their rules in and out of range, the resets by the reset values of the time base, and
the restarts and mode changes by the frame of their handlings. -/
theorem timeAndBeaconSet : Obligations.TimeAndBeaconSet := by
  unfold Obligations.TimeAndBeaconSet
  refine ⟨fun v s h => ⟨fun hv => ?_, exec_setTime_pastDay h⟩,
    fun v s h => ⟨exec_setBeacon_inRange h, exec_setBeacon_outOfRange h⟩, fun supRate corRate s => ?_,
    fun s pending sent idle => ?_, fun c n s hc => ?_⟩
  · refine ⟨_, rfl, exec_setTime_inDay h hv, _, rfl, ?_⟩
    rw [← nextTimeOfDay_inDay hv]
    exact tick_timeOfDay h.noReset
  · obtain ⟨t, ht, hctb⟩ := exec_powerOnReset_ctb supRate corRate s
    exact ⟨t, ht, by rw [hctb]; rfl, by rw [hctb]; rfl⟩
  · obtain ⟨t, ht, hctb⟩ := exec_partResetActs_ctb (partResetDue_iff.2 ⟨pending, sent, idle⟩)
    exact ⟨t, ht, by rw [hctb]; rfl, by rw [hctb]; rfl⟩
  · obtain ⟨t, ht, hctb⟩ := exec_restart_or_mode_ctb s hc
    exact ⟨t, ht, by rw [hctb], by rw [hctb]⟩

end Sys2Proof.Proofs.CorridorTime
end

section
/-! PROOF. Queue Watch (04): GET-QUEUE reports what stands and then latches the worst states anew (O21). -/

open Sys2Proof Sys2Proof.Machine

namespace Sys2Proof.Proofs.QueueWatch

/-! ### The latched worst states set anew (R76) -/

/-- Relatching touches the table of approach records alone. -/
theorem relatch_frame (p : Pos) (s : State) :
    relatch p s = { s with qw := { s.qw with approaches := (relatch p s).qw.approaches } } := rfl

theorem relatch_approaches_get (p q : Pos) (s : State) :
    (relatch p s).qw.approaches.get q =
      if p = q then
        { inbound := (s.qw.approaches.get p).inbound.relatched, outbound := (s.qw.approaches.get p).outbound.relatched,
          side := (s.qw.approaches.get p).side.relatched }
      else s.qw.approaches.get q :=
  get_update s.qw.approaches p q _

@[simp] theorem relatch_approach_same (p : Pos) (a : Approach) (s : State) :
    (relatch p s).approach p a = (s.approach p a).relatched := by
  unfold State.approach
  rw [relatch_approaches_get, if_pos rfl]
  cases a with
  | inboundArterial => rfl
  | outboundArterial => rfl
  | side => rfl

@[simp] theorem relatch_approach_other {p q : Pos} (h : q ≠ p) (a : Approach) (s : State) :
    (relatch p s).approach q a = s.approach q a := by
  unfold State.approach
  rw [relatch_approaches_get, if_neg h.symm]

/-! ### GET-QUEUE (R76) -/

theorem getQueue_number (p : Pos) (s : State) :
    getQueue (p.val + 1) s = (relatch p s, .done (.queue (queueReport s p))) := by
  unfold getQueue
  rw [posOf_number]

theorem getQueue_outside {n : Nat} (hn : n = 0 ∨ 12 < n) (s : State) : getQueue n s = (s, .badValue 0 1) := by
  unfold getQueue
  rw [posOf_outside hn]

/-- The reply carries the figures of the state that the request finds, before the worst states are latched anew. -/
theorem exec_getQueue_number {s : State} (h : Ready s) (p : Pos) :
    exec (.getQueue (.fields (p.val + 1))) s =
      .next ((relatch p s).answered .getQueue (.done (.queue (queueReport s p)))) :=
  congrArg Host.Outcome.next (onRequest_done h (getQueue_number p (frameTaken s)))

theorem exec_getQueue_outside {n : Nat} {s : State} (h : Ready s) (hn : n = 0 ∨ 12 < n) :
    exec (.getQueue (.fields n)) s = .next (s.answered .getQueue (.badValue 0 1)) :=
  congrArg Host.Outcome.next (onRequest_refused h (getQueue_outside hn _))

/-- Settles O21: a position in range by the report taken first and the frame of relatching, any other by the refusal. -/
theorem getQueueReportsAndRelatches : Obligations.GetQueueReportsAndRelatches := by
  unfold Obligations.GetQueueReportsAndRelatches
  refine ⟨fun p s h => ?_, fun n s h hn => exec_getQueue_outside h hn⟩
  exact ⟨relatch p s, exec_getQueue_number h p, relatch_frame p s, fun a => relatch_approach_same p a s,
    fun q a hq => relatch_approach_other hq a s⟩

end Sys2Proof.Proofs.QueueWatch
end

section
/-! PROOF. What every step keeps: the forms of Safety.lean hold after power-on reset and over every step (O54 to O59). -/

open Sys2Proof Sys2Proof.Machine

namespace Sys2Proof.Proofs.Invariants

/-! ### One principle for every form -/

/-- A form that survives a change of the waiting commands, the changes that commands are made of, both resets and the
decisecond is kept by every step. -/
theorem step_keeps {P : State → Prop} (waiting : ∀ s rest, P s → P { s with pending := rest })
    (commanded : ∀ s t, Commanded s t → P s → P t) (powered : ∀ a b s, P s → P (powerOn a b s))
    (restarted : ∀ s, P s → P (partReset s)) (ticked : ∀ s, P s → P (tick s)) {s t : State} (h : step s = .next t)
    (hs : P s) : P t := by
  unfold step at h
  split at h
  · cases h
    exact hs
  · next c rest _ =>
    have hw := waiting s rest hs
    by_cases power : ∃ a b, c = .powerOnReset a b
    · obtain ⟨a, b, rfl⟩ := power
      cases h
      exact powered a b _ hw
    · by_cases reset : c = .partResetActs
      · subst reset
        change Host.Outcome.next _ = _ at h
        cases h
        split
        · exact restarted _ hw
        · exact hw
      · by_cases tickc : c = .decisecondTick
        · subst tickc
          cases h
          exact ticked _ hw
        · exact commanded _ t (exec_commanded h (fun a b e => power ⟨a, b, e⟩) reset tickc) hw

/-- A form that says nothing of the clocks is kept by the decisecond when a handling and a PART-RESET keep it. -/
theorem tick_keeps {P : State → Prop} (commanded : ∀ s t, Commanded s t → P s → P t) (restarted : ∀ s, P s → P (partReset s))
    (clocks : ∀ ctb s, P s → P (advanceClocks ctb s)) (s : State) (hs : P s) : P (tick s) := by
  unfold tick
  split
  · exact clocks _ _ (restarted s hs)
  · exact clocks _ _ (commanded _ _ (Commanded.catchUp s) hs)

/-! ### The reset state, with any slots -/

theorem bounded_resetWith (a b : Bool) (slots : Vector Slot 24) (pending : List Instr) :
    Bounded (State.resetWith a b slots pending) := by
  constructor <;> exact Nat.zero_le _

theorem queueInOrder_resetWith (a b : Bool) (slots : Vector Slot 24) (pending : List Instr) :
    QueueInOrder (State.resetWith a b slots pending) := List.Pairwise.nil

theorem poolWhole_resetWith (a b : Bool) (slots : Vector Slot 24) (pending : List Instr) :
    PoolWhole (State.resetWith a b slots pending) := by
  have empty : ∀ l, ((State.resetWith a b slots pending).link l).queue = [] := by
    rintro ⟨k, d⟩
    cases d <;> simp [State.link, State.resetWith, Tracker.reset, LinkRecord.reset]
  have held : heldPlatoons (State.resetWith a b slots pending) = 0 := by
    simp [heldPlatoons, empty]
  unfold PoolWhole
  rw [held]
  rfl

theorem pinsFollowLine_resetWith (a b : Bool) (slots : Vector Slot 24) (pending : List Instr) :
    PinsFollowLine (State.resetWith a b slots pending) := ⟨rfl, rfl⟩

theorem cycleSound_resetWith (a b : Bool) (slots : Vector Slot 24) (pending : List Instr) :
    CycleSound (State.resetWith a b slots pending) := by
  constructor
  · rfl
  · change elapsed 0 0 ≤ 900
    decide

theorem configDistinct_resetWith (a b : Bool) (slots : Vector Slot 24) (pending : List Instr) :
    ConfigDistinct (State.resetWith a b slots pending) := by
  intro p q x y hx
  simp [State.resetWith] at hx

/-- A reset keeps the slots and holds no other plan. -/
theorem plansValid_resetWith {a b : Bool} {slots : Vector Slot 24} {pending : List Instr}
    (h : ∀ i : SlotIx, slotSound (slots.get i)) : PlansValid (State.resetWith a b slots pending) :=
  ⟨h, nofun, nofun, nofun⟩

/-- The slot of a write in flight is DAMAGED after a power-on reset, and every other slot stays (R114). -/
theorem slotSound_slotsAfterPowerOn {pl : Library} (h : ∀ i : SlotIx, slotSound (pl.slots.get i)) (i : SlotIx) :
    slotSound (pl.slotsAfterPowerOn.get i) := by
  unfold Library.slotsAfterPowerOn
  split
  · exact h i
  all_goals
    rw [get_set]
    split
    · trivial
    · exact h i

/-! ### Stores, pool and pins -/

/-- Settles O54: both forms are kept by every change that a command is made of, and hold after a reset. -/
theorem storesStayBounded : Obligations.StoresStayBounded := by
  unfold Obligations.StoresStayBounded
  intro s t h hs
  have commanded : ∀ s t, Commanded s t → Bounded s ∧ QueueInOrder s → Bounded t ∧ QueueInOrder t :=
    fun _ _ c k => ⟨c.bounded k.1, c.queueInOrder k.2⟩
  have restarted : ∀ s, Bounded s ∧ QueueInOrder s → Bounded (partReset s) ∧ QueueInOrder (partReset s) :=
    fun _ _ => ⟨bounded_resetWith _ _ _ _, queueInOrder_resetWith _ _ _ _⟩
  exact step_keeps (P := fun s => Bounded s ∧ QueueInOrder s)
    (fun _ _ k => ⟨k.1.congr rfl rfl rfl, k.2⟩) commanded
    (fun _ _ _ _ => ⟨bounded_resetWith _ _ _ _, queueInOrder_resetWith _ _ _ _⟩) restarted
    (tick_keeps commanded restarted (fun _ _ k => ⟨k.1.congr rfl rfl rfl, k.2⟩)) h hs

/-- Settles O56: holding and freeing a record move one count up and the other down, and a reset or a flush frees all. -/
theorem poolStaysWhole : Obligations.PoolStaysWhole := by
  unfold Obligations.PoolStaysWhole
  intro s t
  exact step_keeps (fun _ _ k => k) (fun _ _ c k => c.poolWhole k) (fun _ _ _ _ => poolWhole_resetWith _ _ _ _)
    (fun _ _ => poolWhole_resetWith _ _ _ _)
    (tick_keeps (fun _ _ c k => c.poolWhole k) (fun _ _ => poolWhole_resetWith _ _ _ _) (fun _ _ k => k))

/-- Settles O57: every change of the line sets the pins with it. -/
theorem pinsStayWithTheLine : Obligations.PinsStayWithTheLine := by
  unfold Obligations.PinsStayWithTheLine
  intro s t
  exact step_keeps (fun _ _ k => k) (fun _ _ c k => c.pinsFollowLine k) (fun _ _ _ _ => pinsFollowLine_resetWith _ _ _ _)
    (fun _ _ => pinsFollowLine_resetWith _ _ _ _)
    (tick_keeps (fun _ _ c k => c.pinsFollowLine k) (fun _ _ => pinsFollowLine_resetWith _ _ _ _) (fun _ _ k => k))

/-! ### Plans and configuration -/

/-- Plans and configuration as O55 speaks of them. -/
def LibrarySound (s : State) : Prop := PlansValid s ∧ ConfigDistinct s

theorem librarySound_congr {s t : State} (hp : t.pl = s.pl) (hi : t.ps = s.ps) (hc : t.config = s.config)
    (h : LibrarySound s) : LibrarySound t := by
  refine ⟨⟨hp ▸ h.1.slots, hp ▸ h.1.commit, hi ▸ h.1.image, hp ▸ h.1.staging⟩, ?_⟩
  unfold ConfigDistinct
  rw [hc]
  exact h.2

theorem librarySound_commanded (s t : State) (c : Commanded s t) (h : LibrarySound s) : LibrarySound t :=
  ⟨c.plansValid h.1, c.configDistinct h.2⟩

theorem librarySound_partReset (s : State) (h : LibrarySound s) : LibrarySound (partReset s) :=
  ⟨plansValid_resetWith h.1.slots, configDistinct_resetWith _ _ _ _⟩

/-- Settles O55: a plan enters a slot, the staging record or the image only through the checks of its rule. -/
theorem plansAndConfigurationStaySound : Obligations.PlansAndConfigurationStaySound := by
  unfold Obligations.PlansAndConfigurationStaySound
  intro s t
  exact step_keeps (P := LibrarySound) (fun s _ h => librarySound_congr (s := s) rfl rfl rfl h) librarySound_commanded
    (fun _ _ _ h => ⟨plansValid_resetWith (slotSound_slotsAfterPowerOn h.1.slots), configDistinct_resetWith _ _ _ _⟩)
    librarySound_partReset
    (tick_keeps librarySound_commanded librarySound_partReset (fun _ s h => librarySound_congr (s := s) rfl rfl rfl h))

/-! ### The cycle -/

theorem planValid_cycleLength {x : Plan} (h : planValid x = true) :
    400 ≤ x.header.cycleLength ∧ x.header.cycleLength ≤ 2400 := by
  simp only [planValid, inRange, Bool.and_eq_true, decide_eq_true_eq] at h
  exact h.1.1

/-- C lies in its range while the image is valid (R6, R103). -/
theorem newLength_inRange {s : State} (h : PlansValid s) : 400 ≤ s.ps.newLength ∧ s.ps.newLength ≤ 2400 := by
  unfold Selector.newLength
  split
  · decide
  · next image hi => exact planValid_cycleLength (h.image image hi)

/-- Once the mark that is due has been handled, less than C has passed since the anchor (R7). -/
theorem markEvent_before {s : State} (hp : PlansValid s) (h : CycleSound s) :
    elapsed (markEvent s).now (markEvent s).ctb.anchor < (markEvent s).ctb.cycleLength := by
  unfold markEvent whenDue
  split
  · obtain ⟨v, hm, hk⟩ := cycleMark_parts s
    have before : (deadlineOn v).ctb.anchor = v.ctb.anchor ∧ (deadlineOn v).ctb.cycleLength = v.ctb.cycleLength ∧
        (deadlineOn v).ctb.runningTime = v.ctb.runningTime := ⟨rfl, rfl, rfl⟩
    have hf := (settles_finish (cycleMark s)).ctb
    have sound := (Commanded.cycle (selectAtMark_selects s)).plansValid hp
    have length := newLength_inRange sound
    unfold State.now
    rw [hf, hk.leavesStores.ctb, before.1, before.2.1, before.2.2, hm.leavesStores.ctb]
    simp only [beginCycle, State.now, elapsed] at length ⊢
    simp
    omega
  · next notDue =>
    refine lt_of_le_of_ne h.2 (fun e => notDue ?_)
    simp [markDue, e]

/-- The beacon deadline and what follows the mark in a decisecond leave C, the anchor and the running time. -/
theorem catchUp_cycle (s : State) :
    (catchUp s).ctb.anchor = (markEvent s).ctb.anchor ∧ (catchUp s).ctb.cycleLength = (markEvent s).ctb.cycleLength ∧
      (catchUp s).ctb.runningTime = (markEvent s).ctb.runningTime := by
  rw [(catchUp_moves s).leavesStores.ctb]
  generalize markEvent s = u
  unfold beaconEvent whenDue
  split
  · rw [(settles_finish _).ctb, (beaconRound_moves u).leavesStores.ctb]
    exact ⟨rfl, rfl, rfl⟩
  · exact ⟨rfl, rfl, rfl⟩

theorem markEvent_runningTime (s : State) : (markEvent s).ctb.runningTime = s.ctb.runningTime := by
  unfold markEvent whenDue
  split
  · obtain ⟨v, hm, hk⟩ := cycleMark_parts s
    have rest := congrArg State.ctb (selectAtMark_selects s).rest
    dsimp only at rest
    rw [(settles_finish _).ctb, hk.leavesStores.ctb]
    change v.ctb.runningTime = _
    rw [hm.leavesStores.ctb]
    change (selectAtMark s).1.ctb.runningTime = _
    rw [rest]
  · rfl

theorem elapsed_succ {now anchor : Time} {c : Nat} (hc : c ≤ 2400) (h : elapsed now anchor < c) :
    elapsed (now + 1) anchor ≤ c := by
  unfold elapsed at *
  bv_omega

theorem cycleSound_advanceClocks {clock : TimeBase} {s : State} (h : CycleSound s) (hc : s.ctb.cycleLength ≤ 2400)
    (early : elapsed clock.runningTime s.ctb.anchor < s.ctb.cycleLength) : CycleSound (advanceClocks clock s) :=
  ⟨h.1, elapsed_succ hc early⟩

theorem cycleSound_tick {s : State} (hp : PlansValid s) (h : CycleSound s) : CycleSound (tick s) := by
  unfold tick
  split
  · constructor
    · rfl
    · change elapsed 1 0 ≤ 900
      decide
  · have commanded := Commanded.catchUp s
    have valid := commanded.plansValid hp
    have sound := commanded.cycleSound h
    have length := newLength_inRange valid
    have early := markEvent_before hp h
    obtain ⟨anchor, cycle, -⟩ := catchUp_cycle s
    refine cycleSound_advanceClocks sound (by rw [sound.1]; exact length.2) ?_
    rw [anchor, cycle, ← markEvent_runningTime]
    exact early

/-- Settles O58: the mark that is due is handled before the running time moves on, and sets C from a valid image. -/
theorem cycleStaysSound : Obligations.CycleStaysSound := by
  unfold Obligations.CycleStaysSound
  intro s t h hs
  refine (step_keeps (P := fun s => PlansValid s ∧ CycleSound s) (fun _ _ k => ?_) (fun _ _ c k => ?_)
    (fun a b s k => ?_) (fun s k => ?_) (fun s k => ?_) h hs).2
  · exact ⟨⟨k.1.slots, k.1.commit, k.1.image, k.1.staging⟩, k.2⟩
  · exact ⟨c.plansValid k.1, c.cycleSound k.2⟩
  · exact ⟨plansValid_resetWith (slotSound_slotsAfterPowerOn k.1.slots), cycleSound_resetWith _ _ _ _⟩
  · exact ⟨plansValid_resetWith k.1.slots, cycleSound_resetWith _ _ _ _⟩
  · refine ⟨tick_keeps (P := PlansValid) (fun _ _ c k => c.plansValid k) (fun _ k => plansValid_resetWith k.slots)
      (fun _ _ k => ⟨k.slots, k.commit, k.image, k.staging⟩) s k.1, cycleSound_tick k.1 k.2⟩

/-- Settles O59: each form holds of a reset with any slots that are sound, and the delivered slots are empty. -/
theorem resetIsSound : Obligations.ResetIsSound := by
  unfold Obligations.ResetIsSound
  refine ⟨bounded_resetWith _ _ _ _, queueInOrder_resetWith _ _ _ _, plansValid_resetWith (fun i => ?_),
    configDistinct_resetWith _ _ _ _, poolWhole_resetWith _ _ _ _, pinsFollowLine_resetWith _ _ _ _,
    cycleSound_resetWith _ _ _ _⟩
  rw [show Library.reset.slots = Vector.replicate 24 Slot.empty from rfl, get_replicate]
  trivial

end Sys2Proof.Proofs.Invariants
end

section
/-! PROOF. Requests in general (11.2): every request command is a frame of its kind handled by the rule that owns it; what is
said of all of them (O5 to O8) follows from what is said of each rule here. -/

open Sys2Proof Sys2Proof.Machine

namespace Sys2Proof.Proofs.Requests

/-! ### What every owning rule does -/

/-- The stores of O60, over a request of kind `k`. -/
structure StoresKept (k : RequestKind) (s t : State) : Prop where
  slots : t.pl.slots = s.pl.slots
  config : k ≠ .setPosition → k ≠ .clearPosition → t.config = s.config
  rules : k ≠ .setRule → k ≠ .clearRule → t.er.rules = s.er.rules
  mode : k ≠ .goLive → k ≠ .goSetup → t.sli.mode = s.sli.mode
  supRate : t.sli.supRate = s.sli.supRate
  corRate : t.sli.corRate = s.sli.corRate
  now : t.now = s.now

theorem StoresKept.rfl' (k : RequestKind) (s : State) : StoresKept k s s :=
  ⟨rfl, fun _ _ => rfl, fun _ _ => rfl, fun _ _ => rfl, rfl, rfl, rfl⟩

theorem StoresKept.trans {k : RequestKind} {a b c : State} (h : StoresKept k a b) (g : StoresKept k b c) :
    StoresKept k a c :=
  ⟨g.slots.trans h.slots, fun x y => (g.config x y).trans (h.config x y), fun x y => (g.rules x y).trans (h.rules x y),
    fun x y => (g.mode x y).trans (h.mode x y), g.supRate.trans h.supRate, g.corRate.trans h.corRate, g.now.trans h.now⟩

theorem StoresKept.ofLeaves (k : RequestKind) {s t : State} (h : LeavesStores s t) : StoresKept k s t :=
  ⟨congrArg Library.slots h.pl, fun _ _ => h.config, fun _ _ => h.rules, fun _ _ => (congrArg Supervisory.mode h.sli :),
    (congrArg Supervisory.supRate h.sli :), (congrArg Supervisory.corRate h.sli :), (congrArg TimeBase.runningTime h.ctb :)⟩

theorem StoresKept.ofMoves (k : RequestKind) {s t : State} (h : Moves true true s t) : StoresKept k s t :=
  .ofLeaves k h.leavesStores

/-- What a rule answers in state `s`: the stores of other kinds stay, and an answer other than DONE and ACCEPTED changes
nothing. -/
structure Judged (k : RequestKind) (s : State) (r : State × Answer) : Prop where
  stores : StoresKept k s r.1
  refusal : r.2.refuses = true → r.1 = s

theorem Judged.stays (k : RequestKind) (s : State) (a : Answer) : Judged k s (s, a) := ⟨.rfl' k s, fun _ => rfl⟩

theorem Judged.done {k : RequestKind} {s t : State} {d : ReplyData} (h : StoresKept k s t) : Judged k s (t, .done d) :=
  ⟨h, fun r => absurd r (by simp [Answer.refuses])⟩

theorem Judged.accepted {k : RequestKind} {s t : State} (h : StoresKept k s t) : Judged k s (t, .accepted) :=
  ⟨h, fun r => absurd r (by simp [Answer.refuses])⟩

/-- A change of stores that no kind is asked about. -/
theorem Judged.doneRfl {k : RequestKind} {s t : State} {d : ReplyData} (h₁ : t.pl.slots = s.pl.slots) (h₂ : t.config = s.config)
    (h₃ : t.er.rules = s.er.rules) (h₄ : t.sli.mode = s.sli.mode) (h₅ : t.sli.supRate = s.sli.supRate)
    (h₆ : t.sli.corRate = s.sli.corRate) (h₇ : t.now = s.now) : Judged k s (t, .done d) :=
  .done ⟨h₁, fun _ _ => h₂, fun _ _ => h₃, fun _ _ => h₄, h₅, h₆, h₇⟩

theorem Judged.inMode {k : RequestKind} {m : PartMode} {handle : State → State × Answer} {s : State}
    (h : Judged k s (handle s)) : Judged k s (Machine.inMode m handle s) := by
  unfold Machine.inMode
  split
  · exact h
  · exact .stays k s _

theorem Judged.whileOpen {k : RequestKind} {handle : Staging → State → State × Answer} {s : State}
    (h : ∀ x, Judged k s (handle x s)) : Judged k s (Machine.whileOpen handle s) := by
  unfold Machine.whileOpen
  split
  · exact .stays k s _
  · exact h _

/-- What holds of a rule: in the wrong part mode it answers WRONG-MODE, and it judges every request as `Judged` says. -/
structure OwningRule {α : Type} (k : RequestKind) (handle : α → State → State × Answer) : Prop where
  modal : ∀ m x s, takenIn k = some m → s.sli.mode ≠ m → handle x s = (s, .wrongMode)
  judged : ∀ x s, Judged k s (handle x s)

/-- A rule taken in either mode. -/
theorem OwningRule.free {α : Type} {k : RequestKind} {handle : α → State → State × Answer} (hk : takenIn k = none)
    (h : ∀ x s, Judged k s (handle x s)) : OwningRule k handle :=
  ⟨fun m x s hm => absurd (hk.symm.trans hm) (by simp), h⟩

/-- A rule taken in one mode. -/
theorem OwningRule.within {α : Type} {k : RequestKind} {m : PartMode} {handle : α → State → State × Answer}
    (hk : takenIn k = some m) (h : ∀ x s, Judged k s (handle x s)) : OwningRule k (fun x => inMode m (handle x)) := by
  refine ⟨fun m' x s hm hs => ?_, fun x s => (h x s).inMode⟩
  cases hk.symm.trans hm
  exact if_neg hs

/-! ### The rules, one by one -/

theorem goLive_rule : OwningRule .goLive goLive := by
  constructor
  · intro m x s hm hs
    cases hm
    have live : s.isLive = true := by
      unfold State.isLive
      cases hmode : s.sli.mode with
      | setup => exact absurd hmode hs
      | live => rfl
    exact if_pos live
  · intro n s
    unfold goLive
    split
    · exact .stays _ s _
    · split
      · exact .stays _ s _
      · split
        · exact .stays _ s _
        · split
          · exact .stays _ s _
          · refine .done ?_
            unfold goLiveNow
            extract_lets s₁ u₁ u₂ s₂
            have begun : StoresKept .goLive s s₂ := ⟨rfl, fun _ _ => rfl, fun _ _ => rfl, nofun, rfl, rfl, rfl⟩
            exact begun.trans (.ofMoves _ (Moves.settleLine (Moves.rollCall (.refl s₂))))

theorem goSetupNow_stores (s : State) : StoresKept .goSetup s (goSetupNow s) := by
  unfold goSetupNow
  extract_lets _ _ s₁ s₂ s₃ s₄ s₅
  have begun : StoresKept .goSetup s s₂ := ⟨rfl, fun _ _ => rfl, fun _ _ => rfl, nofun, rfl, rfl, rfl⟩
  clear_value s₂
  have h₃ : Moves true true s₂ s₃ :=
    Moves.forPositions (f := coordSetupAt) (fun p _ h => Moves.coordSetupAt p h) (.refl s₂)
  have h₄ : Moves true true s₂ s₄ := Moves.clearWatch (Moves.flushPool (Moves.releasePriority h₃))
  have h₅ : Moves true true s₂ s₅ := Moves.withdraw _ (Moves.identifySetup h₄)
  exact begun.trans (.ofMoves _ (Moves.settleLine (Moves.reportIfDrained (Moves.dropBeacon h₅))))

theorem coordRestartNow_stores (s : State) : StoresKept .coordRestart s (coordRestartNow s) := by
  unfold coordRestartNow
  extract_lets s₁ s₂ _ s₃ s₄
  have h₁ : Moves true true s s₁ :=
    Moves.forPositions (f := coordRestartAt) (fun p _ h => Moves.coordRestartAt p h) (.refl s)
  have h₂ : StoresKept .coordRestart s s₂ := .ofMoves _ (Moves.flushPool h₁)
  clear_value s₂
  have h₃ : StoresKept .coordRestart s s₃ :=
    h₂.trans ⟨rfl, fun _ _ => rfl, fun _ _ => rfl, fun _ _ => rfl, rfl, rfl, rfl⟩
  clear_value s₃
  have h₄ : StoresKept .coordRestart s s₄ := h₃.trans (.ofMoves _ (Moves.priorityRestart (Moves.clearWatch (.refl s₃))))
  clear_value s₄
  exact (h₄.trans (b := s₄) (c := { s₄ with ps := s₄.ps.restart })
    ⟨rfl, fun _ _ => rfl, fun _ _ => rfl, fun _ _ => rfl, rfl, rfl, rfl⟩).trans (.ofMoves _ (Moves.settleLine (.refl _)))

theorem partResetRequest_judged (s : State) : Judged .partReset s (partResetRequest s) :=
  .doneRfl rfl rfl rfl rfl rfl rfl rfl

theorem setNoticeMask_judged (n : Nat) (s : State) : Judged .setNoticeMask s (setNoticeMask n s) := by
  unfold setNoticeMask
  split
  · exact .stays _ s _
  · exact .doneRfl rfl rfl rfl rfl rfl rfl rfl

theorem setTime_judged (n : Nat) (s : State) : Judged .setTime s (setTime n s) := by
  unfold setTime
  split
  · exact .doneRfl rfl rfl rfl rfl rfl rfl rfl
  · exact .stays _ s _

theorem setBeacon_judged (n : Nat) (s : State) : Judged .setBeacon s (setBeacon n s) := by
  unfold setBeacon
  split
  · exact .doneRfl rfl rfl rfl rfl rfl rfl rfl
  · exact .stays _ s _

theorem setPosition_rule : OwningRule .setPosition setPosition := by
  refine .within rfl (fun x s => ?_)
  split
  · exact .stays _ s _
  · split
    · exact .stays _ s _
    · exact .done ⟨rfl, fun h => absurd rfl h, fun _ _ => rfl, fun _ _ => rfl, rfl, rfl, rfl⟩

theorem clearPosition_rule : OwningRule .clearPosition clearPosition := by
  refine .within rfl (fun x s => ?_)
  split
  · exact .stays _ s _
  · split
    · exact .stays _ s _
    · split
      · exact .stays _ s _
      · exact .done ⟨rfl, fun _ h => absurd rfl h, fun _ _ => rfl, fun _ _ => rfl, rfl, rfl, rfl⟩

theorem getPosition_judged (n : Nat) (s : State) : Judged .getPosition s (getPosition n s) := by
  unfold getPosition
  split
  · exact .stays _ s _
  · exact .stays _ s _

theorem reIdentify_rule : OwningRule .reIdentify reIdentify := by
  refine .within rfl (fun x s => ?_)
  split
  · exact .stays _ s _
  · next p _ =>
    split
    · exact .stays _ s _
    · split
      · exact .stays _ s _
      · exact .accepted (.ofMoves _
          (Moves.settleLine (Moves.offerQuiet p (Moves.withHealth p _ (Moves.withIdent p _ (.refl s))))))

theorem rejoin_rule : OwningRule .rejoin rejoin := by
  refine .within rfl (fun x s => ?_)
  split
  · exact .stays _ s _
  · next p _ =>
    split
    · exact .stays _ s _
    · dsimp only
      split
      · exact .done (.ofMoves _ (Moves.clearRefusing p (.refl s)))
      · split
        · exact .stays _ s _
        · exact .accepted (.ofMoves _ (Moves.clearRefusing p (Moves.withHealth p _ (.refl s))))

theorem trimQueue_leaves (l : Link) (s : State) : LeavesStores s (trimQueue l s) :=
  (LeavesStores.withLink s l _).trans (.freeRecords _ _)

theorem noteTracking_leaves (l : Link) (s : State) : LeavesStores s (noteTracking l s) :=
  (Moves.notice (routing := true) (settling := true) s _).leavesStores

theorem setLink_judged (x : LinkFields) (s : State) : Judged .setLink s (setLink x s) := by
  unfold setLink
  split
  · exact .stays _ s _
  · next l _ =>
    split
    · exact .stays _ s _
    · dsimp only
      refine .done (.ofLeaves _ (.trans ?_ (trimQueue_leaves l _)))
      split
      · exact .withLink s l _
      · exact (LeavesStores.withLink s l _).trans (noteTracking_leaves l _)

theorem getLink_judged (x : LinkName) (s : State) : Judged .getLink s (getLink x s) := by
  unfold getLink
  split
  · exact .stays _ s _
  · exact .stays _ s _

theorem getPlatoons_judged (x : LinkName) (s : State) : Judged .getPlatoons s (getPlatoons x s) := by
  unfold getPlatoons
  split
  · exact .stays _ s _
  · exact .stays _ s _

theorem setSlack_judged (x : SlackFields) (s : State) : Judged .setSlack s (setSlack x s) := by
  unfold setSlack
  split
  · exact .stays _ s _
  · exact .doneRfl rfl rfl rfl rfl rfl rfl rfl

theorem setTransitionLimits_judged (x : LimitFields) (s : State) :
    Judged .setTransitionLimits s (setTransitionLimits x s) := by
  unfold setTransitionLimits
  split
  · exact .stays _ s _
  · have begun : StoresKept .setTransitionLimits s { s with oc := { s.oc with limits := limitsOf x } } :=
      ⟨rfl, fun _ _ => rfl, fun _ _ => rfl, fun _ _ => rfl, rfl, rfl, rfl⟩
    exact .done (begun.trans (.ofMoves _
      (Moves.forPositions (f := clampTrim) (fun p _ h => Moves.withTrim p _ h) (.refl _))))

theorem setRule_rule : OwningRule .setRule setRule := by
  refine .within rfl (fun x s => ?_)
  split
  · exact .stays _ s _
  · split
    · exact .done ⟨rfl, fun _ _ => rfl, fun h => absurd rfl h, fun _ _ => rfl, rfl, rfl, rfl⟩
    · exact .stays _ s _

theorem clearRule_rule : OwningRule .clearRule clearRule := by
  refine .within rfl (fun x s => ?_)
  split
  · exact .stays _ s _
  · split
    · exact .stays _ s _
    · exact .done ⟨rfl, fun _ _ => rfl, fun _ h => absurd rfl h, fun _ _ => rfl, rfl, rfl, rfl⟩

theorem readRule_judged (x : RuleQuery) (s : State) : Judged .getRule s (readRule x s) := by
  unfold readRule
  split
  · exact .stays _ s _
  · split
    · exact .stays _ s _
    · exact .stays _ s _

theorem zeroed_rules (er : Router) (n : Nat) : (er.zeroed n).rules = er.rules := by
  unfold Router.zeroed
  split
  · rfl
  · rfl

theorem readAndZeroRule_judged (n : Nat) (s : State) : Judged .getRule s (readAndZeroRule n s) := by
  unfold readAndZeroRule
  split
  · exact .stays _ s _
  · exact .doneRfl rfl rfl (zeroed_rules _ _) rfl rfl rfl rfl

theorem openBlank_judged (x : OpenBlankFields) (s : State) : Judged .stageOpen s (openBlank x s) := by
  unfold openBlank
  split
  · exact .stays _ s _
  · split
    · exact .stays _ s _
    · exact .doneRfl rfl rfl rfl rfl rfl rfl rfl

theorem openCopy_judged (x : OpenCopyFields) (s : State) : Judged .stageOpen s (openCopy x s) := by
  unfold openCopy
  split
  · exact .stays _ s _
  · split
    · exact .stays _ s _
    · split
      · exact .stays _ s _
      · split
        · exact .doneRfl rfl rfl rfl rfl rfl rfl rfl
        · exact .stays _ s _

theorem stageHeader_judged (x : HeaderFields) (s : State) : Judged .stageHeader s (stageHeader x s) := by
  refine .whileOpen (fun staged => ?_)
  split
  · exact .stays _ s _
  · split
    · exact .stays _ s _
    · exact .doneRfl rfl rfl rfl rfl rfl rfl rfl

theorem stageSeek_judged (x : SeekFields) (s : State) : Judged .stageSeek s (stageSeek x s) := by
  refine .whileOpen (fun staged => ?_)
  split
  · exact .stays _ s _
  · split
    · exact .stays _ s _
    · exact .doneRfl rfl rfl rfl rfl rfl rfl rfl

theorem stageEntryWrite_judged (x : EntryFields) (s : State) : Judged .stageEntry s (stageEntryWrite x s) := by
  refine .whileOpen (fun staged => ?_)
  split
  · exact .stays _ s _
  · exact .doneRfl rfl rfl rfl rfl rfl rfl rfl

theorem stageEntryClear_judged (n : Nat) (s : State) : Judged .stageEntry s (stageEntryClear n s) := by
  refine .whileOpen (fun staged => ?_)
  split
  · exact .stays _ s _
  · exact .doneRfl rfl rfl rfl rfl rfl rfl rfl

theorem stageRead_judged (s : State) : Judged .stageRead s (stageRead s) :=
  .whileOpen (fun _ => .doneRfl rfl rfl rfl rfl rfl rfl rfl)

theorem stageDiscard_judged (s : State) : Judged .stageDiscard s (stageDiscard s) :=
  .whileOpen (fun _ => .doneRfl rfl rfl rfl rfl rfl rfl rfl)

theorem commitPlan_judged (s : State) : Judged .commitPlan s (commitPlan s) := by
  refine .whileOpen (fun staged => ?_)
  split
  · exact .stays _ s _
  · split
    · exact .stays _ s _
    · exact .accepted ⟨rfl, fun _ _ => rfl, fun _ _ => rfl, fun _ _ => rfl, rfl, rfl, rfl⟩

theorem erasePlan_judged (n : Nat) (s : State) : Judged .erasePlan s (erasePlan n s) := by
  unfold erasePlan
  split
  · exact .stays _ s _
  · split
    · exact .stays _ s _
    · split
      · exact .stays _ s _
      · exact .accepted ⟨rfl, fun _ _ => rfl, fun _ _ => rfl, fun _ _ => rfl, rfl, rfl, rfl⟩

theorem getSlot_judged (n : Nat) (s : State) : Judged .getSlot s (getSlot n s) := by
  unfold getSlot
  split
  · exact .stays _ s _
  · split
    · exact .stays _ s _
    · split
      · exact .stays _ s _
      · exact .stays _ s _

theorem requestMode_judged (m : RequestedMode) (s : State) : Judged .setSelectMode s (requestMode m s) :=
  .doneRfl rfl rfl rfl rfl rfl rfl rfl

theorem selectFree_judged (n : Nat) (s : State) : Judged .setSelectMode s (selectFree n s) := by
  unfold selectFree
  split
  · exact .stays _ s _
  · exact requestMode_judged _ s

theorem selectPinned_judged (n : Nat) (s : State) : Judged .setSelectMode s (selectPinned n s) := by
  unfold selectPinned
  split
  · exact .stays _ s _
  · split
    · exact requestMode_judged _ s
    · exact .stays _ s _

theorem selectResponsive_judged (n : Nat) (s : State) : Judged .setSelectMode s (selectResponsive n s) := by
  unfold selectResponsive
  split
  · exact requestMode_judged _ s
  · exact .stays _ s _

theorem writeSelect_judged (x : SelectFields) (s : State) : Judged .setSelectEntry s (writeSelect x s) := by
  unfold writeSelect
  split
  · exact .stays _ s _
  · split
    · exact .stays _ s _
    · split
      · exact .stays _ s _
      · exact .doneRfl rfl rfl rfl rfl rfl rfl rfl

theorem clearSelect_judged (x : SelectClearFields) (s : State) : Judged .setSelectEntry s (clearSelect x s) := by
  unfold clearSelect
  split
  · exact .stays _ s _
  · split
    · exact .stays _ s _
    · exact .doneRfl rfl rfl rfl rfl rfl rfl rfl

theorem setQueueLimits_judged (x : QueueLimitFields) (s : State) : Judged .setQueueLimits s (setQueueLimits x s) := by
  unfold setQueueLimits
  split
  · exact .stays _ s _
  · dsimp only
    split
    · exact .doneRfl rfl rfl rfl rfl rfl rfl rfl
    · exact .doneRfl rfl rfl rfl rfl rfl rfl rfl

theorem getQueue_judged (n : Nat) (s : State) : Judged .getQueue s (getQueue n s) := by
  unfold getQueue
  split
  · exact .stays _ s _
  · exact .doneRfl rfl rfl rfl rfl rfl rfl rfl

theorem setPriorityPolicy_judged (x : PolicyFields) (s : State) :
    Judged .setPriorityPolicy s (setPriorityPolicy x s) := by
  unfold setPriorityPolicy
  split
  · exact .stays _ s _
  · exact .doneRfl rfl rfl rfl rfl rfl rfl rfl

theorem cancelRoute_judged (n : Nat) (s : State) : Judged .cancelRoute s (cancelRoute n s) := by
  unfold cancelRoute
  split
  · exact .stays _ s _
  · split
    · exact .stays _ s _
    · next r _ => exact .done (.ofMoves _ (Moves.settleLine (Moves.dropRoute r _ (.refl s))))

/-! ### Every request command is its kind's frame, handled by its rule -/

/-- What `exec` makes of a request command: the frame of kind `k` with body `b`, handled by a rule that owns the kind. -/
def HandledBy (c : Instr) (k : RequestKind) (wrong : Option Nat) : Prop :=
  ∃ (α : Type) (b : Body α) (handle : α → State → State × Answer),
    wrongLength b = wrong ∧ OwningRule k handle ∧ ∀ s, exec c s = .next (onRequest k b handle s)

theorem HandledBy.intro {α : Type} {c : Instr} {k : RequestKind} {b : Body α} (handle : α → State → State × Answer)
    (rule : OwningRule k handle) (h : ∀ s, exec c s = .next (onRequest k b handle s)) : HandledBy c k (wrongLength b) :=
  ⟨α, b, handle, rfl, rule, h⟩

theorem requestOf_handled {c : Instr} {k : RequestKind} {wrong : Option Nat} (h : requestOf c = some (k, wrong)) :
    HandledBy c k wrong := by
  cases c with
  | goLive b => cases h; exact .intro _ goLive_rule fun _ => rfl
  | goSetup b => cases h; exact .intro _ (.within rfl fun _ s => .done (goSetupNow_stores s)) fun _ => rfl
  | partReset b => cases h; exact .intro _ (.free rfl fun _ => partResetRequest_judged) fun _ => rfl
  | coordRestart b => cases h; exact .intro _ (.within rfl fun _ s => .done (coordRestartNow_stores s)) fun _ => rfl
  | getPartStatus b => cases h; exact .intro _ (.free rfl fun _ s => .stays _ s _) fun _ => rfl
  | setNoticeMask b => cases h; exact .intro _ (.free rfl setNoticeMask_judged) fun _ => rfl
  | setTime b => cases h; exact .intro _ (.free rfl setTime_judged) fun _ => rfl
  | getTime b => cases h; exact .intro _ (.free rfl fun _ s => .stays _ s _) fun _ => rfl
  | setBeacon b => cases h; exact .intro _ (.free rfl setBeacon_judged) fun _ => rfl
  | setPosition b => cases h; exact .intro _ setPosition_rule fun _ => rfl
  | clearPosition b => cases h; exact .intro _ clearPosition_rule fun _ => rfl
  | getPosition b => cases h; exact .intro _ (.free rfl getPosition_judged) fun _ => rfl
  | reIdentify b => cases h; exact .intro _ reIdentify_rule fun _ => rfl
  | rejoin b => cases h; exact .intro _ rejoin_rule fun _ => rfl
  | setLink b => cases h; exact .intro _ (.free rfl setLink_judged) fun _ => rfl
  | getLink b => cases h; exact .intro _ (.free rfl getLink_judged) fun _ => rfl
  | getPlatoons b => cases h; exact .intro _ (.free rfl getPlatoons_judged) fun _ => rfl
  | setSlack b => cases h; exact .intro _ (.free rfl setSlack_judged) fun _ => rfl
  | setTransitionLimits b => cases h; exact .intro _ (.free rfl setTransitionLimits_judged) fun _ => rfl
  | setRule b => cases h; exact .intro _ setRule_rule fun _ => rfl
  | clearRule b => cases h; exact .intro _ clearRule_rule fun _ => rfl
  | getRuleRead b => cases h; exact .intro _ (.free rfl readRule_judged) fun _ => rfl
  | getRuleReadAndZero b => cases h; exact .intro _ (.free rfl readAndZeroRule_judged) fun _ => rfl
  | stageOpenBlank b => cases h; exact .intro _ (.free rfl openBlank_judged) fun _ => rfl
  | stageOpenCopy b => cases h; exact .intro _ (.free rfl openCopy_judged) fun _ => rfl
  | stageHeader b => cases h; exact .intro _ (.free rfl stageHeader_judged) fun _ => rfl
  | stageSeek b => cases h; exact .intro _ (.free rfl stageSeek_judged) fun _ => rfl
  | stageEntryWrite b => cases h; exact .intro _ (.free rfl stageEntryWrite_judged) fun _ => rfl
  | stageEntryClear b => cases h; exact .intro _ (.free rfl stageEntryClear_judged) fun _ => rfl
  | stageRead b => cases h; exact .intro _ (.free rfl fun _ => stageRead_judged) fun _ => rfl
  | stageDiscard b => cases h; exact .intro _ (.free rfl fun _ => stageDiscard_judged) fun _ => rfl
  | commitPlan b => cases h; exact .intro _ (.free rfl fun _ => commitPlan_judged) fun _ => rfl
  | erasePlan b => cases h; exact .intro _ (.free rfl erasePlan_judged) fun _ => rfl
  | getSlot b => cases h; exact .intro _ (.free rfl getSlot_judged) fun _ => rfl
  | setSelectModeFree b => cases h; exact .intro _ (.free rfl selectFree_judged) fun _ => rfl
  | setSelectModePinned b => cases h; exact .intro _ (.free rfl selectPinned_judged) fun _ => rfl
  | setSelectModeResponsive b => cases h; exact .intro _ (.free rfl selectResponsive_judged) fun _ => rfl
  | setSelectEntryWrite b => cases h; exact .intro _ (.free rfl writeSelect_judged) fun _ => rfl
  | setSelectEntryClear b => cases h; exact .intro _ (.free rfl clearSelect_judged) fun _ => rfl
  | getSelection b => cases h; exact .intro _ (.free rfl fun _ s => .stays _ s _) fun _ => rfl
  | setQueueLimits b => cases h; exact .intro _ (.free rfl setQueueLimits_judged) fun _ => rfl
  | getQueue b => cases h; exact .intro _ (.free rfl getQueue_judged) fun _ => rfl
  | setPriorityPolicy b => cases h; exact .intro _ (.free rfl setPriorityPolicy_judged) fun _ => rfl
  | getPreemption b => cases h; exact .intro _ (.free rfl fun _ s => .stays _ s _) fun _ => rfl
  | cancelRoute b => cases h; exact .intro _ (.free rfl cancelRoute_judged) fun _ => rfl
  | _ => cases h

theorem wrongLength_none {α : Type} {b : Body α} (h : wrongLength b = none) : ∃ x, b = .fields x := by
  cases b with
  | fields x => exact ⟨x, rfl⟩
  | wrongLength n => cases h

theorem wrongLength_some {α : Type} {b : Body α} {n : Nat} (h : wrongLength b = some n) : b = .wrongLength n := by
  cases b with
  | fields x => cases h
  | wrongLength m => cases h; rfl

/-! ### Frames that are not taken (R169, R170, R171) -/

/-- Frames: requests, a frame whose check is wrong, and a frame of no request kind, each with the answer it is given while a
reply is owed. -/
inductive FrameOf : Instr → Reply → Prop where
  | request {c : Instr} {k : RequestKind} {n : Option Nat} (h : requestOf c = some (k, n)) : FrameOf c (.request k .busy)
  | frameError : FrameOf .frameError .frameError
  | unknownKind (kind : Nat) : FrameOf (.unknownKind kind) (.busyUnknown kind)

/-- Every frame goes through `onFrame`. -/
theorem FrameOf.exec {c : Instr} {short : Reply} (h : FrameOf c short) :
    ∃ handle, ∀ s, Machine.exec c s = .next (onFrame short handle s) := by
  cases h with
  | request h =>
    obtain ⟨α, b, handle, -, -, he⟩ := requestOf_handled h
    exact ⟨_, he⟩
  | frameError => exact ⟨_, fun _ => rfl⟩
  | unknownKind kind => exact ⟨_, fun _ => rfl⟩

/-- The transmitter, while a reply or a short answer waits, sends it when it is idle (R171). -/
theorem transmit_owing {x : Supervisory} {next : Sending} (now : Nat) (pending : x.resetPending = false)
    (h : (∃ r, x.replySlot = some r ∧ next = .reply r) ∨
      (x.replySlot = none ∧ ∃ r rest, x.shortAnswers = r :: rest ∧ next = .shortAnswer r)) :
    x.transmit now = { x with sending := some (x.sending.getD next) } := by
  obtain ⟨_, _, _, _, _, slot, short, _, _, _, _, _, sending⟩ := x
  cases sending with
  | some y => rfl
  | none =>
    rcases h with ⟨r, hr, rfl⟩ | ⟨hn, r, rest, hs, rfl⟩
    · cases hr
      rfl
    · cases hn
      cases hs
      cases pending
      rfl

/-- What the transmitter sends next when a frame has been answered short. -/
theorem transmit_afterShort {x : Supervisory} {queue : List Reply} {short : Reply} (now : Nat)
    (pending : x.resetPending = false) (hq : x.shortAnswers = queue) (owed : x.replySlot ≠ none ∨ queue ≠ []) :
    x.transmit now = { x with sending := some (x.sending.getD
      (match x.replySlot with
       | some r => .reply r
       | none => .shortAnswer (queue.headD short))) } := by
  refine transmit_owing now pending ?_
  cases hr : x.replySlot with
  | some r => exact .inl ⟨r, rfl, rfl⟩
  | none =>
    refine .inr ⟨rfl, ?_⟩
    cases queue with
    | nil => exact absurd rfl (owed.resolve_left (fun hn => hn hr))
    | cons y rest => exact ⟨y, rest, hq, rfl⟩

theorem transmitterRun_afterShort {s : State} {x : Supervisory} {queue : List Reply} {short : Reply}
    (pending : x.resetPending = false) (hq : x.shortAnswers = queue) (owed : x.replySlot ≠ none ∨ queue ≠ []) :
    transmitterRun { s with sli := x } = { s with sli := { x with sending := some (x.sending.getD
      (match x.replySlot with
       | some r => .reply r
       | none => .shortAnswer (queue.headD short))) } } :=
  congrArg (fun y => { s with sli := y }) (transmit_afterShort _ pending hq owed)

theorem owing_iff (x : Supervisory) : x.owing = true ↔ x.replySlot ≠ none ∨ x.shortAnswers ≠ [] := by
  unfold Supervisory.owing
  cases x.replySlot <;> cases x.shortAnswers <;> simp

/-- Settles O5: every frame goes through `onFrame`, which discards it, answers it short, or counts it. -/
theorem framesNotTaken : Obligations.FramesNotTaken := by
  unfold Obligations.FramesNotTaken
  constructor
  · intro c s hc pending
    have frame : ∃ short, FrameOf c short := by
      rcases hc with h | rfl | ⟨kind, rfl⟩
      · obtain ⟨⟨k, n⟩, h⟩ := Option.isSome_iff_exists.1 h
        exact ⟨_, .request h⟩
      · exact ⟨_, .frameError⟩
      · exact ⟨_, .unknownKind kind⟩
    obtain ⟨short, frame⟩ := frame
    obtain ⟨handle, he⟩ := frame.exec
    rw [he, onFrame_resetPending pending]
    rfl
  · intro c short s hc pending owed
    have frame : FrameOf c short := by
      rcases hc with ⟨k, n, h, rfl⟩ | ⟨rfl, rfl⟩ | ⟨kind, rfl, rfl⟩
      · exact .request h
      · exact .frameError
      · exact .unknownKind kind
    obtain ⟨handle, he⟩ := frame.exec
    rw [he, onFrame_owing pending ((owing_iff _).2 owed)]
    refine ⟨fun room => ?_, fun full => ?_⟩
    · have taken : (frameTaken s).sli.shortAnswer short =
          { s.sli with receiver := Receiver.hunt, shortAnswers := s.sli.shortAnswers ++ [short] } := if_pos room
      rw [taken]
      exact congrArg Host.Outcome.next (transmitterRun_afterShort (s := frameTaken s)
        (x := { s.sli with receiver := Receiver.hunt, shortAnswers := s.sli.shortAnswers ++ [short] }) (short := short)
        pending rfl (.inr (by simp)))
    · have counted : (frameTaken s).sli.shortAnswer short =
          { s.sli with receiver := Receiver.hunt, unanswered := min 65535 (s.sli.unanswered + 1) } := by
        have full' : ¬ (frameTaken s).sli.shortAnswers.length < Config.shortAnswerCapacity :=
          not_lt.2 (Nat.le_of_eq full.symm)
        unfold Supervisory.shortAnswer
        rw [if_neg full']
        congr 1
        unfold saturate Config.countLimit
        change (if s.sli.unanswered + 1 > 65535 then 65535 else s.sli.unanswered + 1) = _
        split <;> omega
      rw [counted]
      exact congrArg Host.Outcome.next (transmitterRun_afterShort (s := frameTaken s)
        (x := { s.sli with receiver := Receiver.hunt, unanswered := min 65535 (s.sli.unanswered + 1) }) (short := short)
        pending rfl owed)

/-! ### Faulty frames (R169) -/

theorem receiverGap_hunt (r : Receiver) (h : r.state ≠ .hunt) : receiverGap r = Receiver.hunt := if_neg h

theorem receiverAbandon_hunt (r : Receiver) (h : r.state = .length) : receiverAbandon r = Receiver.hunt := if_pos h

/-- Settles O6: a wrong length is judged by the frame, before the owning rule sees it. -/
theorem faultyFramesAnswered : Obligations.FaultyFramesAnswered := by
  unfold Obligations.FaultyFramesAnswered
  refine ⟨fun c k n s hc ready => ?_, fun s ready => ?_, fun kind s ready => ?_, fun received s => ⟨fun h => ?_, fun h => ?_⟩⟩
  · obtain ⟨α, b, handle, hb, -, he⟩ := requestOf_handled hc
    rw [he, wrongLength_some hb, onRequest_wrongLength ready]
  · exact congrArg Host.Outcome.next (onFrame_answer ready)
  · exact congrArg Host.Outcome.next (onFrame_answer ready)
  · change Host.Outcome.next (s.withReceiver (receiverGap _)) = _
    rw [receiverGap_hunt _ h]
    rfl
  · change Host.Outcome.next (s.withReceiver (receiverAbandon _)) = _
    rw [receiverAbandon_hunt _ h]
    rfl

/-! ### Requests taken -/

/-- Settles O7: each rule of one mode judges the mode before any field. -/
theorem wrongModeAnswered : Obligations.WrongModeAnswered := by
  unfold Obligations.WrongModeAnswered
  intro c k m s hc hm hs ready
  obtain ⟨α, b, handle, hb, rule, he⟩ := requestOf_handled hc
  obtain ⟨x, rfl⟩ := wrongLength_none hb
  rw [he, onRequest_refused ready (rule.modal m x (frameTaken s) hm hs)]

/-- Settles O8: the reply is placed in the request's own handling, and a rule that refuses changes nothing. -/
theorem everyTakenRequestAnswered : Obligations.EveryTakenRequestAnswered := by
  unfold Obligations.EveryTakenRequestAnswered
  intro c k s hc ready
  obtain ⟨α, b, handle, hb, rule, he⟩ := requestOf_handled hc
  obtain ⟨x, rfl⟩ := wrongLength_none hb
  rcases hr : handle x (frameTaken s) with ⟨t, a⟩
  have judged := rule.judged x (frameTaken s)
  rw [hr] at judged
  refine ⟨_, a, he s, ?_, fun refuses => ?_⟩
  · rw [onRequest_result ready hr]
  · have same : t = frameTaken s := judged.refusal refuses
    subst same
    exact onRequest_refused ready hr

/-- The stores that a request of another kind leaves, over the whole handling of its frame. -/
theorem onRequest_stores {α : Type} {k : RequestKind} {handle : α → State → State × Answer} (rule : OwningRule k handle)
    (b : Body α) (s : State) : StoresKept k s (onRequest k b handle s) := by
  have taken : StoresKept k s (frameTaken s) := ⟨rfl, fun _ _ => rfl, fun _ _ => rfl, fun _ _ => rfl, rfl, rfl, rfl⟩
  have transmitted (u : State) : StoresKept k u (transmitterRun u) := .ofMoves k (.transmit u)
  have placed (r : Reply) (u : State) : StoresKept k u (placeReply r u) :=
    ⟨rfl, fun _ _ => rfl, fun _ _ => rfl, fun _ _ => rfl, rfl, rfl, rfl⟩
  unfold onRequest onFrame
  extract_lets u
  split
  · exact taken
  · split
    · refine (taken.trans ?_).trans (transmitted _)
      unfold Supervisory.shortAnswer
      split
      · exact ⟨rfl, fun _ _ => rfl, fun _ _ => rfl, fun _ _ => rfl, rfl, rfl, rfl⟩
      · exact ⟨rfl, fun _ _ => rfl, fun _ _ => rfl, fun _ _ => rfl, rfl, rfl, rfl⟩
    · refine (taken.trans ?_).trans (transmitted _)
      cases b with
      | wrongLength n => exact placed _ u
      | fields x => exact (rule.judged x u).stores.trans (placed _ _)

end Sys2Proof.Proofs.Requests
end

section
/-! PROOF. The queue of commands, the resets, and the stores that change by their commands alone (O1 to O4, O60). -/

open Sys2Proof Sys2Proof.Machine

namespace Sys2Proof.Proofs.CommandsAndResets

open Requests

/-! ### The queue of commands -/

/-- Settles O1: both halves are the branches of `step`. -/
theorem stepRunsFrontCommand : Obligations.StepRunsFrontCommand := by
  unfold Obligations.StepRunsFrontCommand
  refine ⟨fun c rest s => rfl, fun s h => ?_⟩
  unfold step
  rw [h]

theorem exec_answersNext (c : Instr) (s : State) : ∃ t, exec c s = .next t := by
  cases c <;> exact ⟨_, rfl⟩

theorem pending_of_commanded {s t : State} (h : Commanded s t) : t.pending = s.pending := by
  induction h with
  | moves _ h => exact h.leavesStores.pending
  | trans _ _ h k => exact k.trans h
  | cycle h => exact (congrArg State.pending h.rest :)
  | _ => rfl

theorem advanceClocks_pending (clock : TimeBase) (s : State) : (advanceClocks clock s).pending = s.pending := rfl

theorem tick_pending (s : State) : (tick s).pending = s.pending := by
  unfold tick
  split
  · rfl
  · rw [advanceClocks_pending]
    exact pending_of_commanded (Commanded.catchUp s)

/-- Settles O2: the resets and the decisecond by themselves, every other command by the changes it is made of. -/
theorem everyCommandAnswersNext : Obligations.EveryCommandAnswersNext := by
  unfold Obligations.EveryCommandAnswersNext
  intro c s
  obtain ⟨t, h⟩ := exec_answersNext c s
  refine ⟨t, h, ?_⟩
  by_cases power : ∃ a b, c = .powerOnReset a b
  · obtain ⟨a, b, rfl⟩ := power
    cases h
    rfl
  · by_cases reset : c = .partResetActs
    · subst reset
      change Host.Outcome.next (if partResetDue s then partReset s else s) = _ at h
      cases h
      split
      · rfl
      · rfl
    · by_cases tickc : c = .decisecondTick
      · subst tickc
        cases h
        exact tick_pending s
      · exact pending_of_commanded (exec_commanded h (fun a b e => power ⟨a, b, e⟩) reset tickc)

/-! ### The resets (R176, R114) -/

theorem resetWith_link (a b : Bool) (slots : Vector Slot 24) (pending : List Instr) (l : Link) :
    (State.resetWith a b slots pending).link l = LinkRecord.reset := by
  obtain ⟨k, d⟩ := l
  cases d with
  | inbound => exact get_replicate _ k
  | outbound => exact get_replicate _ k

theorem resetWith_approach (a b : Bool) (slots : Vector Slot 24) (pending : List Instr) (p : Pos) (x : Approach) :
    (State.resetWith a b slots pending).approach p x = ApproachRecord.reset := by
  unfold State.approach
  rw [show (State.resetWith a b slots pending).qw.approaches.get p = Approaches.reset from get_replicate _ p]
  cases x <;> rfl

/-- Settles O3: each block by its reset value, each table by its entries. -/
theorem resetValues : Obligations.ResetValues := by
  unfold Obligations.ResetValues
  intro a b slots pending s
  exact ⟨rfl, rfl, fun p => get_replicate Coord.reset p, resetWith_link a b slots pending,
    ⟨rfl, rfl, rfl, rfl, rfl, rfl, rfl, fun p => get_replicate _ p⟩, resetWith_approach a b slots pending,
    fun p => get_replicate _ p, rfl, rfl, fun p => ⟨get_replicate _ p, get_replicate _ p⟩, rfl, rfl, ⟨rfl, rfl, rfl⟩,
    ⟨rfl, rfl, rfl, rfl, rfl, rfl, rfl, rfl, rfl, rfl, rfl, rfl, fun i => get_replicate _ i⟩,
    ⟨rfl, rfl, rfl, rfl, rfl, rfl, rfl, fun p => ⟨get_replicate _ p, get_replicate _ p, get_replicate _ p⟩⟩,
    fun p => ⟨get_replicate Ident.reset p, get_replicate Health.reset p⟩,
    ⟨rfl, rfl, rfl, fun p => get_replicate _ p, rfl⟩,
    ⟨fun i => ⟨get_replicate _ i, get_replicate _ i⟩, rfl, rfl⟩,
    ⟨rfl, rfl, rfl, rfl, rfl, rfl, rfl, rfl, rfl, rfl, rfl⟩, fun p => get_replicate _ p, rfl, rfl, rfl⟩

/-- The slot that a write in flight is writing. -/
def writtenSlot : WriteState → Option SlotIx
  | .idle => none
  | .committing slot _ => some slot
  | .erasing slot => some slot

theorem slotsAfterPowerOn_get (pl : Library) (i : SlotIx) :
    pl.slotsAfterPowerOn.get i = if writtenSlot pl.write = some i then .damaged else pl.slots.get i := by
  unfold Library.slotsAfterPowerOn
  cases pl.write with
  | idle => rfl
  | committing j plan => simp [writtenSlot]
  | erasing j => simp [writtenSlot]

/-- Settles O4: the slots a power-on reset keeps, the request, and the reset that acts when it is due and not before. -/
theorem resetsAct : Obligations.ResetsAct := by
  unfold Obligations.ResetsAct
  refine ⟨fun a b s => ?_, fun s ready => ?_, fun s pending sent idle => ?_, fun s h => ?_⟩
  · refine ⟨s.pl.slotsAfterPowerOn, rfl, fun i plan h => ?_, fun i h => ?_, fun i hc he => ?_⟩
    · rw [slotsAfterPowerOn_get, h]
      exact if_pos rfl
    · rw [slotsAfterPowerOn_get, h]
      exact if_pos rfl
    · rw [slotsAfterPowerOn_get, if_neg]
      cases hw : s.pl.write with
      | idle => nofun
      | committing j plan => exact fun e => hc plan (by rw [hw, Option.some.inj e])
      | erasing j => exact fun e => he (by rw [hw, Option.some.inj e])
  · exact congrArg Host.Outcome.next
      (onRequest_done (t := { s with sli := { s.sli with resetPending := true } }) ready rfl)
  · exact congrArg Host.Outcome.next (if_pos (CorridorTime.partResetDue_iff.2 ⟨pending, sent, idle⟩))
  · have notDue : ¬ partResetDue s = true := by
      rw [CorridorTime.partResetDue_iff]
      rintro ⟨pending, sent, idle⟩
      rcases h with h | h | h
      · rw [h] at pending
        cases pending
      · exact h sent
      · exact h idle
    exact congrArg Host.Outcome.next (if_neg notDue)

/-! ### Stores and the commands that own them -/

/-- What command `c` leaves of the stores that O60 speaks of. -/
structure StoresOwned (c : Instr) (s t : State) : Prop where
  slots : c ≠ .commitComplete → c ≠ .eraseComplete → t.pl.slots = s.pl.slots
  config : (∀ b, c ≠ .setPosition b) → (∀ b, c ≠ .clearPosition b) → t.config = s.config
  rules : (∀ b, c ≠ .setRule b) → (∀ b, c ≠ .clearRule b) → t.er.rules = s.er.rules
  mode : (∀ b, c ≠ .goLive b) → (∀ b, c ≠ .goSetup b) → t.sli.mode = s.sli.mode
  supRate : t.sli.supRate = s.sli.supRate
  corRate : t.sli.corRate = s.sli.corRate
  now : t.now = s.now

theorem StoresOwned.rfl' (c : Instr) (s : State) : StoresOwned c s s :=
  ⟨fun _ _ => rfl, fun _ _ => rfl, fun _ _ => rfl, fun _ _ => rfl, rfl, rfl, rfl⟩

theorem StoresOwned.trans {c : Instr} {s u t : State} (h : StoresOwned c s u) (g : StoresOwned c u t) : StoresOwned c s t :=
  ⟨fun x y => (g.slots x y).trans (h.slots x y), fun x y => (g.config x y).trans (h.config x y),
    fun x y => (g.rules x y).trans (h.rules x y), fun x y => (g.mode x y).trans (h.mode x y), g.supRate.trans h.supRate,
    g.corRate.trans h.corRate, g.now.trans h.now⟩

theorem StoresOwned.ofLeaves (c : Instr) {s t : State} (h : LeavesStores s t) : StoresOwned c s t :=
  ⟨fun _ _ => congrArg Library.slots h.pl, fun _ _ => h.config, fun _ _ => h.rules,
    fun _ _ => (congrArg Supervisory.mode h.sli :), (congrArg Supervisory.supRate h.sli :),
    (congrArg Supervisory.corRate h.sli :), (congrArg TimeBase.runningTime h.ctb :)⟩

theorem StoresOwned.ofMoves (c : Instr) {rt : Bool} {s t : State} (h : Moves rt true s t) : StoresOwned c s t :=
  .ofLeaves c h.leavesStores

/-- A change of the state that touches none of these stores. -/
theorem StoresOwned.untouched (c : Instr) {s t : State} (h₁ : t.pl.slots = s.pl.slots) (h₂ : t.config = s.config)
    (h₃ : t.er.rules = s.er.rules) (h₄ : t.sli.mode = s.sli.mode) (h₅ : t.sli.supRate = s.sli.supRate)
    (h₆ : t.sli.corRate = s.sli.corRate) (h₇ : t.now = s.now) : StoresOwned c s t :=
  ⟨fun _ _ => h₁, fun _ _ => h₂, fun _ _ => h₃, fun _ _ => h₄, h₅, h₆, h₇⟩

/-- The kind of a request command tells the command that owns a store. -/
theorem StoresOwned.ofKept {c : Instr} {k : RequestKind} {n : Option Nat} {s t : State} (hc : requestOf c = some (k, n))
    (h : StoresKept k s t) : StoresOwned c s t := by
  refine ⟨fun _ _ => h.slots, fun hs hk => h.config ?_ ?_, fun hs hk => h.rules ?_ ?_, fun hs hk => h.mode ?_ ?_, h.supRate,
    h.corRate, h.now⟩
  all_goals
    rintro rfl
    cases c <;> cases hc
  · exact hs _ rfl
  · exact hk _ rfl
  · exact hs _ rfl
  · exact hk _ rfl
  · exact hs _ rfl
  · exact hk _ rfl

theorem request_owned {c : Instr} {k : RequestKind} {n : Option Nat} {s t : State} (hc : requestOf c = some (k, n))
    (h : exec c s = .next t) : StoresOwned c s t := by
  obtain ⟨α, b, handle, -, rule, he⟩ := requestOf_handled hc
  rw [he] at h
  cases h
  exact .ofKept hc (onRequest_stores rule b s)

theorem markEvent_owned (c : Instr) (s : State) : StoresOwned c s (markEvent s) := by
  unfold markEvent whenDue
  split
  · obtain ⟨v, hm, hk⟩ := cycleMark_parts s
    have selects := selectAtMark_selects s
    have rest := selects.rest
    have begun : StoresOwned c s (beginCycle (selectAtMark s).1) :=
      .untouched c (congrArg (fun x => x.pl.slots) rest :) (congrArg State.config rest :)
        (congrArg (fun x => x.er.rules) rest :) (congrArg Supervisory.mode selects.sli :)
        (congrArg Supervisory.supRate selects.sli :) (congrArg Supervisory.corRate selects.sli :)
        (congrArg State.now rest :)
    have deadline : StoresOwned c v (deadlineOn v) := .untouched c rfl rfl rfl rfl rfl rfl rfl
    exact (begun.trans (.ofMoves c hm)).trans ((deadline.trans (.ofMoves c hk)).trans (.ofMoves c (Moves.finish (rt := true) (.refl _))))
  · exact .rfl' c s

theorem beaconEvent_owned (c : Instr) (s : State) : StoresOwned c s (beaconEvent s) := by
  unfold beaconEvent whenDue
  split
  · have deadline : StoresOwned c s (deadlineOn s) := .untouched c rfl rfl rfl rfl rfl rfl rfl
    exact (deadline.trans (.ofMoves c (beaconRound_moves s))).trans (.ofMoves c (Moves.finish (rt := true) (.refl _)))
  · exact .rfl' c s

theorem transmitterRun_owned (c : Instr) (s : State) : StoresOwned c s (transmitterRun s) :=
  .ofMoves c (Moves.transmit (routing := true) s)

theorem raiseNotice_owned (c : Instr) (body : NoticeBody) (s : State) : StoresOwned c s (raiseNotice body s) :=
  .ofMoves c (Moves.notice (routing := true) s body)

theorem finishWrite_owned {c : Instr} (hc : c = .commitComplete ∨ c = .eraseComplete) (i : SlotIx) (x : Slot) (s : State) :
    StoresOwned c s (finishWrite i x s) :=
  ⟨fun h h' => absurd hc (not_or.2 ⟨h, h'⟩), fun _ _ => rfl, fun _ _ => rfl, fun _ _ => rfl, rfl, rfl, rfl⟩

theorem commitDone_owned (s : State) : StoresOwned .commitComplete s (commitDone s) := by
  unfold commitDone
  split
  · exact ((finishWrite_owned (.inl rfl) _ _ s).trans (raiseNotice_owned _ _ _)).trans
      (.untouched _ rfl rfl rfl rfl rfl rfl rfl)
  · exact .rfl' _ s

theorem eraseDone_owned (s : State) : StoresOwned .eraseComplete s (eraseDone s) := by
  unfold eraseDone
  split
  · exact (finishWrite_owned (.inr rfl) _ _ s).trans (raiseNotice_owned _ _ _)
  · exact .rfl' _ s

theorem onFrame_owned {c : Instr} {busy : Reply} {handle : State → State} (s : State) (h : ∀ u, StoresOwned c u (handle u)) :
    StoresOwned c s (onFrame busy handle s) := by
  have taken : StoresOwned c s (frameTaken s) := .untouched c rfl rfl rfl rfl rfl rfl rfl
  unfold onFrame
  extract_lets u
  split
  · exact taken
  · split
    · refine (taken.trans ?_).trans (transmitterRun_owned c _)
      unfold Supervisory.shortAnswer
      split
      · exact .untouched c rfl rfl rfl rfl rfl rfl rfl
      · exact .untouched c rfl rfl rfl rfl rfl rfl rfl
    · exact (taken.trans (h _)).trans (transmitterRun_owned c _)

theorem receiver_owned (c : Instr) (s : State) (r : Receiver) : StoresOwned c s (s.withReceiver r) :=
  .untouched c rfl rfl rfl rfl rfl rfl rfl

theorem placeReply_owned (c : Instr) (r : Reply) (s : State) : StoresOwned c s (placeReply r s) :=
  .untouched c rfl rfl rfl rfl rfl rfl rfl

theorem sent_owned (c : Instr) (s : State) : StoresOwned c s { s with sli := s.sli.sent } := by
  unfold Supervisory.sent
  split <;> exact .untouched c rfl rfl rfl rfl rfl rfl rfl

/-- Every command but the resets and the decisecond leaves the stores that others own. -/
theorem exec_owned {c : Instr} {s t : State} (h : exec c s = .next t) (hp : ∀ a b, c ≠ .powerOnReset a b)
    (hr : c ≠ .partResetActs) (ht : c ≠ .decisecondTick) : StoresOwned c s t := by
  rcases hc : requestOf c with _ | ⟨k, n⟩
  swap
  · exact request_owned hc h
  have of {u : State} (k : StoresOwned c s u) (e : Host.Outcome.next u = (.next t : Result)) : StoresOwned c s t := by
    cases e
    exact k
  have ofMoves {u : State} (k : Moves true true s u) (e : Host.Outcome.next u = (.next t : Result)) : StoresOwned c s t :=
    of (.ofMoves c k) e
  cases c with
  | powerOnReset a b => exact absurd rfl (hp a b)
  | decisecondTick => exact absurd rfl ht
  | partResetActs => exact absurd rfl hr
  | cycleMark => exact of (markEvent_owned _ s) h
  | beaconDeadlineExpiry => exact of (beaconEvent_owned _ s) h
  | commandPoint p => exact ofMoves (Moves.commandPointEvent p (.refl s)) h
  | settleStampExpiry p => exact ofMoves (Moves.settleEvent p (.refl s)) h
  | windowCloseExpiry n => exact ofMoves (Moves.windowEvent n (.refl s)) h
  | approachSilenceExpiry p a => exact ofMoves (Moves.approachEvent p a (.refl s)) h
  | routeTimeout p => exact ofMoves (Moves.routeEvent p (.refl s)) h
  | retryDeadlineExpiry p => exact ofMoves (Moves.retryEvent p (.refl s)) h
  | reprobeDeadlineExpiry p => exact ofMoves (Moves.reprobeEvent p (.refl s)) h
  | probeDeadlineExpiry p => exact ofMoves (Moves.probeEvent p (.refl s)) h
  | quietTimerExpiry p => exact ofMoves (Moves.quietEvent p (.refl s)) h
  | lineSilenceExpiry => exact ofMoves (Moves.silenceEvent (.refl s)) h
  | lineBreakEnd => exact ofMoves (Moves.breakEvent (.refl s)) h
  | roundDeadlineExpiry => exact ofMoves (Moves.roundEvent (.refl s)) h
  | queueDrained => exact ofMoves (Moves.drainedEvent (.refl s)) h
  | commandFrameSent => exact ofMoves (onExchange_moves s (fun x _ => Moves.frameSent x (.refl s))) h
  | broadcastExchangeEnd => exact ofMoves (onExchange_moves s (fun x _ => Moves.broadcastEnd x (.refl s))) h
  | responseWindowExpiry => exact ofMoves (endBad_moves .window s) h
  | lineQuietExpiry => exact ofMoves (endBad_moves .quieting s) h
  | replyGarbled f => exact ofMoves (garbled_moves s) h
  | replyByteGapExpiry => exact ofMoves (garbled_moves s) h
  | status n r => exact ofMoves (status_moves n r s) h
  | identity n r => exact ofMoves (identity_moves n r s) h
  | heartbeat n => exact ofMoves (heartbeat_moves n s) h
  | ack n => exact ofMoves (ack_moves n s) h
  | nak n r => exact ofMoves (nak_moves n r s) h
  | commitComplete => exact of ((commitDone_owned s).trans (transmitterRun_owned _ _)) h
  | eraseComplete => exact of ((eraseDone_owned s).trans (transmitterRun_owned _ _)) h
  | supRxGapExpiry r => exact of (receiver_owned _ s _) h
  | supRxFrameAbandoned r => exact of (receiver_owned _ s _) h
  | frameError => exact of (onFrame_owned s (placeReply_owned _ _)) h
  | unknownKind k => exact of (onFrame_owned s (placeReply_owned _ _)) h
  | transmitFrameDone => exact of ((sent_owned _ s).trans (transmitterRun_owned _ _)) h
  | _ => cases hc

/-- Settles O60: an event leaves the stores, a request changes those of its kind alone, a completion the slots alone. -/
theorem storesChangeByTheirCommandsAlone : Obligations.StoresChangeByTheirCommandsAlone := by
  unfold Obligations.StoresChangeByTheirCommandsAlone
  intro c s t h hp hr ht
  have owned := exec_owned h hp hr ht
  exact ⟨owned.slots, owned.config, owned.rules, owned.mode, owned.supRate, owned.corRate, owned.now⟩

end Sys2Proof.Proofs.CommandsAndResets
end

section
/-! PROOF. What stands before the host: the transmitter and the notice queue (O53), the reports (O24), and the frames of
requests, byte for byte (O9). -/

open Sys2Proof Sys2Proof.Machine

namespace Sys2Proof.Proofs.SupervisoryLine

/-! ### The notice queue (R172) -/

theorem saturate_count (n : Nat) : saturate Config.countLimit n = min 65535 n := by
  unfold saturate Config.countLimit
  split <;> omega

theorem offered_disabled {x : Supervisory} {stamp : Nat} {body : NoticeBody} (h : body.kind ∉ x.enabled) :
    x.offered stamp body = x := if_pos (by simpa using h)

theorem offered_joins {x : Supervisory} {stamp : Nat} {body : NoticeBody} (h : body.kind ∈ x.enabled)
    (room : x.notices.length < 32) :
    x.offered stamp body = { x with notices := x.notices ++ [{ stamp := stamp, body := body }] } := by
  unfold Supervisory.offered
  rw [if_neg (by simpa using h), if_pos (show x.notices.length < Config.noticeCapacity from room)]

theorem offered_counted {x : Supervisory} {stamp : Nat} {body : NoticeBody} (h : body.kind ∈ x.enabled)
    (full : 32 ≤ x.notices.length) : x.offered stamp body = { x with overrun := min 65535 (x.overrun + 1) } := by
  unfold Supervisory.offered
  rw [if_neg (by simpa using h), if_neg (show ¬ x.notices.length < Config.noticeCapacity from not_lt.2 full), saturate_count]

/-! ### The transmitter (R171) -/

theorem exec_transmitFrameDone (s : State) :
    exec .transmitFrameDone s = .next { s with sli := s.sli.sent.transmit s.ctb.timeOfDay } := rfl

theorem sent_reply {x : Supervisory} {r : Reply} (h : x.sending = some (.reply r)) :
    x.sent = { x with sending := none, replySlot := none } := by
  unfold Supervisory.sent
  rw [h]

theorem sent_shortAnswer {x : Supervisory} {r : Reply} (h : x.sending = some (.shortAnswer r)) :
    x.sent = { x with sending := none, shortAnswers := x.shortAnswers.tail } := by
  unfold Supervisory.sent
  rw [h]

theorem sent_notice {x : Supervisory} {n : Notice} (h : x.sending = some (.notice n)) :
    x.sent = { x with sending := none } := by
  unfold Supervisory.sent
  rw [h]

theorem transmit_reply {x : Supervisory} {r : Reply} (now : Nat) (idle : x.sending = none) (h : x.replySlot = some r) :
    x.transmit now = { x with sending := some (.reply r) } := by
  unfold Supervisory.transmit
  rw [idle, h]

/-- While reset pending is yes, nothing follows the reply (R176). -/
theorem transmit_resetPending {x : Supervisory} (now : Nat) (idle : x.sending = none) (h : x.replySlot = none)
    (pending : x.resetPending = true) : x.transmit now = x := by
  unfold Supervisory.transmit
  rw [idle, h]
  exact if_pos pending

theorem transmit_shortAnswer {x : Supervisory} {r : Reply} {rest : List Reply} (now : Nat) (idle : x.sending = none)
    (pending : x.resetPending = false) (h : x.replySlot = none) (hs : x.shortAnswers = r :: rest) :
    x.transmit now = { x with sending := some (.shortAnswer r) } := by
  unfold Supervisory.transmit
  rw [idle, h, hs]
  exact if_neg (by simp [pending])

theorem transmit_notice {x : Supervisory} {n : Notice} {rest : List Notice} (now : Nat) (idle : x.sending = none)
    (pending : x.resetPending = false) (h : x.replySlot = none) (hs : x.shortAnswers = []) (hn : x.notices = n :: rest) :
    x.transmit now = { x with
      sending := some (.notice n), overrun := 0,
      notices := rest ++ if x.overrun = 0 then [] else [{ stamp := now, body := .overrun x.overrun }] } := by
  have open' : ¬ x.resetPending = true := by simp [pending]
  unfold Supervisory.transmit
  simp only [idle, h, hs, hn, if_neg open']
  by_cases lost : x.overrun = 0
  · simp [lost]
  · rw [if_pos (Nat.pos_of_ne_zero lost), if_neg lost]

theorem transmit_nothing {x : Supervisory} (now : Nat) (idle : x.sending = none) (pending : x.resetPending = false)
    (h : x.replySlot = none) (hs : x.shortAnswers = []) (hn : x.notices = []) : x.transmit now = x := by
  have open' : ¬ x.resetPending = true := by simp [pending]
  unfold Supervisory.transmit
  simp only [idle, h, hs, hn, if_neg open']

/-- Settles O53: what leaves with the frame that has been sent, the choice of the next, and an offered notice. -/
theorem transmitterAndNotices : Obligations.TransmitterAndNotices := by
  unfold Obligations.TransmitterAndNotices
  refine ⟨fun s pending => ⟨fun r h => ?_, fun r h => ?_, fun n h => ?_, fun x now idle open' => ?_⟩,
    fun r s pending h => ?_, fun x stamp body => ⟨offered_disabled, offered_joins, offered_counted⟩⟩
  · rw [exec_transmitFrameDone, sent_reply h]
  · rw [exec_transmitFrameDone, sent_shortAnswer h]
  · rw [exec_transmitFrameDone, sent_notice h]
  · exact ⟨fun r h => transmit_reply now idle h, fun r rest h hs => transmit_shortAnswer now idle open' h hs,
      fun n rest h hs hn => transmit_notice now idle open' h hs hn, fun h hs hn => transmit_nothing now idle open' h hs hn⟩
  · have nothing := transmit_resetPending (x := { s.sli with sending := none, replySlot := none }) s.ctb.timeOfDay rfl rfl
      pending
    rw [exec_transmitFrameDone, sent_reply h, nothing]

/-! ### The reports (R5, R76, R100, R116, R128, R148, R178) -/

theorem getPosition_number (p : Pos) (s : State) :
    getPosition (p.val + 1) s = (s, .done (.position (positionReport s p))) := by
  unfold getPosition
  rw [posOf_number]

theorem getPosition_outside {n : Nat} (hn : n = 0 ∨ 12 < n) (s : State) : getPosition n s = (s, .badValue 0 1) := by
  unfold getPosition
  rw [posOf_outside hn]

theorem getSlot_outside {n : Nat} (hn : n = 0 ∨ 24 < n) (s : State) : getSlot n s = (s, .badValue 0 1) := by
  unfold getSlot
  rw [slotOf_outside hn]

theorem writing_iff (pl : Library) : pl.writing = true ↔ pl.write ≠ .idle := by
  simp [Library.writing]

theorem getSlot_writing (slot : SlotIx) {s : State} (h : s.pl.write ≠ .idle) : getSlot (slot.val + 1) s = (s, .busy) := by
  unfold getSlot
  rw [slotOf_number]
  exact if_pos ((writing_iff _).2 h)

theorem getSlot_valid {slot : SlotIx} {plan : Plan} {s : State} (idle : s.pl.write = .idle)
    (h : s.pl.slots.get slot = .valid plan) :
    getSlot (slot.val + 1) s = (s, .done (.slot (.valid plan) (some (s.ps.activeSlot == some slot)))) := by
  have free : ¬ s.pl.writing = true := fun w => (writing_iff _).1 w idle
  unfold getSlot
  rw [slotOf_number]
  simp only [if_neg free, h]

theorem getSlot_notValid {slot : SlotIx} {s : State} (idle : s.pl.write = .idle)
    (h : ∀ plan, s.pl.slots.get slot ≠ .valid plan) :
    getSlot (slot.val + 1) s = (s, .done (.slot (s.pl.slots.get slot) none)) := by
  have free : ¬ s.pl.writing = true := fun w => (writing_iff _).1 w idle
  unfold getSlot
  rw [slotOf_number]
  refine (if_neg free).trans ?_
  cases hs : s.pl.slots.get slot with
  | empty => rfl
  | valid plan => exact absurd hs (h plan)
  | damaged => rfl

theorem partReport_line (s : State) :
    partReport s = { partReport s with
      line := (match s.clc.line with
        | .idle => .idle
        | .exchange _ => .exchange
        | .lineBreak _ => .lineBreak) } := by
  unfold partReport lineCondition
  cases s.clc.line <;> rfl

/-- Settles O24: each report is a function of the state that the request finds, and the state stays. -/
theorem reportsGiveWhatStands : Obligations.ReportsGiveWhatStands := by
  unfold Obligations.ReportsGiveWhatStands
  intro s ready
  refine ⟨congrArg Host.Outcome.next (onRequest_refused ready rfl), ?_,
    congrArg Host.Outcome.next (onRequest_refused ready rfl), congrArg Host.Outcome.next (onRequest_refused ready rfl),
    fun p => congrArg Host.Outcome.next (onRequest_refused ready (getPosition_number p (frameTaken s))),
    fun n hn => congrArg Host.Outcome.next (onRequest_refused ready (getPosition_outside hn (frameTaken s))),
    fun n hn => congrArg Host.Outcome.next (onRequest_refused ready (getSlot_outside hn (frameTaken s))),
    fun slot => ⟨fun busy => ?_, fun plan idle h => ?_, fun idle h => ?_⟩⟩
  · have report : exec (.getPartStatus (.fields ())) s =
        .next (s.answered .getPartStatus (.done (.part (partReport s)))) :=
      congrArg Host.Outcome.next (onRequest_refused ready rfl)
    rw [report, partReport_line]
    rfl
  · exact congrArg Host.Outcome.next (onRequest_refused ready (getSlot_writing slot (s := frameTaken s) busy))
  · have answer := getSlot_valid (s := frameTaken s) idle h
    rw [beq_eq_decide] at answer
    exact congrArg Host.Outcome.next (onRequest_refused ready answer)
  · exact congrArg Host.Outcome.next (onRequest_refused ready (getSlot_notValid (s := frameTaken s) idle h))

end Sys2Proof.Proofs.SupervisoryLine
end

section
/-! PROOF. The frames of requests, byte for byte (11.6): what the host sends is what the receiver takes (O9). -/

open Sys2Proof Sys2Proof.Machine

namespace Sys2Proof.Proofs.RequestFrames

/-! ### Fields that fit their bytes -/

/-- Every figure of a body fits the bytes its layout gives it. -/
def Fits (fields : List Field) : Prop := ∀ f ∈ fields, f.value < 256 ^ f.width

@[simp] theorem fits_nil : Fits [] := nofun

theorem fits_cons (f : Field) (fields : List Field) : Fits (f :: fields) ↔ f.value < 256 ^ f.width ∧ Fits fields :=
  List.forall_mem_cons

@[simp] theorem fits_byte (n : Nat) (fields : List Field) : Fits (byteField n :: fields) ↔ n < 256 ∧ Fits fields :=
  fits_cons _ _

@[simp] theorem fits_word (n : Nat) (fields : List Field) : Fits (wordField n :: fields) ↔ n < 65536 ∧ Fits fields :=
  fits_cons _ _

@[simp] theorem fits_time (n : Nat) (fields : List Field) : Fits (timeField n :: fields) ↔ n < 2 ^ 32 ∧ Fits fields :=
  fits_cons _ _

@[simp] theorem fits_mask (n : Nat) (fields : List Field) :
    Fits ({ width := 3, value := n } :: fields) ↔ n < 2 ^ 24 ∧ Fits fields :=
  fits_cons _ _

@[simp] theorem fitsByte_iff (n : Nat) : fitsByte n = true ↔ n < 256 := by simp [fitsByte]

@[simp] theorem fitsWord_iff (n : Nat) : fitsWord n = true ↔ n < 65536 := by simp [fitsWord]

/-! ### One byte -/

theorem bodyBytes_byte (n : Nat) (fields : List Field) :
    bodyBytes (byteField n :: fields) = BitVec.ofNat 8 n :: bodyBytes fields := by
  have one : fieldBytes 1 n = [BitVec.ofNat 8 n] := by simp [fieldBytes]
  unfold bodyBytes
  rw [List.flatMap_cons]
  change fieldBytes 1 n ++ _ = _
  rw [one]
  rfl

theorem toNat_byte {n : Nat} (h : n < 256) : (BitVec.ofNat 8 n).toNat = n := by
  rw [BitVec.toNat_ofNat, Nat.mod_eq_of_lt h]

theorem byte_ne {n : Nat} {b : Byte} (hn : n < 256) (h : n ≠ b.toNat) : BitVec.ofNat 8 n ≠ b := by
  rintro rfl
  exact h (toNat_byte hn).symm

/-! ### Requests whose layout follows from a code in the body -/

theorem readGetRule_read {x : RuleQuery} (hi : x.index < 256) (ha : x.action < 256) (h : x.action ≠ 1) :
    readGetRule (bodyBytes [byteField x.index, byteField x.action]) = .getRuleRead (.fields x) := by
  rw [bodyBytes_byte, bodyBytes_byte]
  change (if BitVec.ofNat 8 x.action = 1 then _ else _) = _
  rw [if_neg (byte_ne (b := 1) ha h), toNat_byte hi, toNat_byte ha]

theorem readGetRule_zero {n : Nat} (hn : n < 256) :
    readGetRule (bodyBytes [byteField n, byteField 1]) = .getRuleReadAndZero (.fields n) := by
  rw [bodyBytes_byte, bodyBytes_byte]
  change Instr.getRuleReadAndZero (.fields (BitVec.ofNat 8 n).toNat) = _
  rw [toNat_byte hn]

theorem readStageOpen_blank {x : OpenBlankFields} (ht : x.target < 256) (hs : x.source < 256) (h : x.source ≠ 0) :
    readStageOpen (bodyBytes [byteField x.target, byteField x.source]) = .stageOpenBlank (.fields x) := by
  have whole : readBody [1, 1] openBlankFields (bodyBytes [byteField x.target, byteField x.source]) = .fields x :=
    readBody_bodyBytes [byteField x.target, byteField x.source] (by simpa using ⟨ht, hs⟩ : Fits _) rfl
  rw [bodyBytes_byte, bodyBytes_byte] at whole ⊢
  change (if BitVec.ofNat 8 x.source = 0 then _ else if BitVec.ofNat 8 x.source = 1 then _ else _) = _
  rw [if_neg (byte_ne (b := 0) hs h)]
  split
  · exact congrArg Instr.stageOpenBlank whole
  · rw [toNat_byte ht, toNat_byte hs]

theorem readStageOpen_copy {x : OpenCopyFields} (ht : x.target < 256) (hs : x.sourceSlot < 256) :
    readStageOpen (bodyBytes [byteField x.target, byteField 0, byteField x.sourceSlot]) = .stageOpenCopy (.fields x) := by
  have whole : readBody [1, 1, 1] openCopyFields (bodyBytes [byteField x.target, byteField 0, byteField x.sourceSlot]) =
      .fields x :=
    readBody_bodyBytes [byteField x.target, byteField 0, byteField x.sourceSlot] (by simpa using ⟨ht, hs⟩ : Fits _) rfl
  rw [bodyBytes_byte, bodyBytes_byte] at whole ⊢
  exact congrArg Instr.stageOpenCopy whole

theorem readStageEntry_write {x : EntryFields} {fields : List Field}
    (hf : fields = [wordField x.offset, wordField x.mainGreen, wordField x.minMain, wordField x.maxMain,
      wordField x.sideMin, wordField x.lostTime, byteField x.adapt]) (h : Fits fields) :
    readStageEntry (bodyBytes (byteField 0 :: fields)) = .stageEntryWrite (.fields x) := by
  subst hf
  have whole := readBody_bodyBytes (make := entryFields) (x := x) (byteField 0 :: _) ((fits_byte _ _).2 ⟨by decide, h⟩) rfl
  rw [bodyBytes_byte] at whole ⊢
  exact congrArg Instr.stageEntryWrite whole

theorem byteBody_byte {n : Nat} (h : n < 256) : byteBody (bodyBytes [byteField n]) = .fields n :=
  readBody_bodyBytes [byteField n] (by simpa using h : Fits _) rfl

theorem readStageEntry_clear {n : Nat} (hn : n < 256) (h : n ≠ 0) :
    readStageEntry (bodyBytes [byteField n]) = .stageEntryClear (.fields n) := by
  have whole := byteBody_byte hn
  rw [bodyBytes_byte] at whole ⊢
  change (if BitVec.ofNat 8 n = 0 then _ else if BitVec.ofNat 8 n = 1 then _ else _) = _
  rw [if_neg (byte_ne (b := 0) hn h)]
  split
  · exact congrArg Instr.stageEntryClear whole
  · rw [toNat_byte hn]

theorem readSelectMode_free {n : Nat} (hn : n < 256) (h₁ : n ≠ 1) (h₂ : n ≠ 2) :
    readSelectMode (bodyBytes [byteField n]) = .setSelectModeFree (.fields n) := by
  have whole := byteBody_byte hn
  rw [bodyBytes_byte] at whole ⊢
  change (if BitVec.ofNat 8 n = 0 then _ else if BitVec.ofNat 8 n = 1 then _ else if BitVec.ofNat 8 n = 2 then _ else _) = _
  rw [if_neg (byte_ne (b := 1) hn h₁), if_neg (byte_ne (b := 2) hn h₂)]
  split
  · exact congrArg Instr.setSelectModeFree whole
  · rw [toNat_byte hn]

theorem second_bytes {n m : Nat} (hn : n < 256) (hm : m < 256) :
    readBody [1, 1] second (bodyBytes [byteField n, byteField m]) = .fields m :=
  readBody_bodyBytes [byteField n, byteField m] (by simpa using ⟨hn, hm⟩ : Fits _) rfl

theorem readSelectMode_pinned {n : Nat} (hn : n < 256) :
    readSelectMode (bodyBytes [byteField 1, byteField n]) = .setSelectModePinned (.fields n) := by
  have whole := second_bytes (n := 1) (by decide) hn
  rw [bodyBytes_byte] at whole ⊢
  exact congrArg Instr.setSelectModePinned whole

theorem readSelectMode_responsive {n : Nat} (hn : n < 256) :
    readSelectMode (bodyBytes [byteField 2, byteField n]) = .setSelectModeResponsive (.fields n) := by
  have whole := second_bytes (n := 2) (by decide) hn
  rw [bodyBytes_byte] at whole ⊢
  exact congrArg Instr.setSelectModeResponsive whole

theorem readSelectEntry_write {x : SelectFields} {fields : List Field}
    (hf : fields = [byteField x.slot, wordField x.minTotal, wordField x.maxTotal, byteField x.minShare,
      byteField x.maxShare]) (hi : x.index < 256) (h : Fits fields) :
    readSelectEntry (bodyBytes (byteField x.index :: byteField 0 :: fields)) = .setSelectEntryWrite (.fields x) := by
  subst hf
  have whole := readBody_bodyBytes (make := selectFields) (x := x) (byteField x.index :: byteField 0 :: _)
    ((fits_byte _ _).2 ⟨hi, (fits_byte _ _).2 ⟨by decide, h⟩⟩) rfl
  rw [bodyBytes_byte, bodyBytes_byte] at whole ⊢
  exact congrArg Instr.setSelectEntryWrite whole

theorem readSelectEntry_clear {x : SelectClearFields} (hi : x.index < 256) (ho : x.operation < 256)
    (h : x.operation ≠ 0) :
    readSelectEntry (bodyBytes [byteField x.index, byteField x.operation]) = .setSelectEntryClear (.fields x) := by
  have whole : readBody [1, 1] selectClearFields (bodyBytes [byteField x.index, byteField x.operation]) = .fields x :=
    readBody_bodyBytes [byteField x.index, byteField x.operation] (by simpa using ⟨hi, ho⟩ : Fits _) rfl
  rw [bodyBytes_byte, bodyBytes_byte] at whole ⊢
  change (if BitVec.ofNat 8 x.operation = 0 then _ else if BitVec.ofNat 8 x.operation = 1 then _ else _) = _
  rw [if_neg (byte_ne (b := 0) ho h)]
  split
  · exact congrArg Instr.setSelectEntryClear whole
  · rw [toNat_byte hi, toNat_byte ho]

/-! ### Every request -/

/-- The body `fields` is read back as `c` and is short enough for a frame. -/
def ReadsBack (k : RequestKind) (fields : List Field) (c : Instr) : Prop :=
  readRequest k (bodyBytes fields) = c ∧ (fields.map Field.width).sum ≤ 250

/-- A request whose body holds `fields` in their order, read by `make`. -/
theorem readsBack_fields {α : Type} {k : RequestKind} {widths : List Nat} {make : List Nat → Option α} {fields : List Field}
    {x : α} (command : Body α → Instr) (hr : readRequest k = fun body => command (readBody widths make body))
    (h : Fits fields) (hw : fields.map Field.width = widths) (hx : make (fields.map Field.value) = some x)
    (short : widths.sum ≤ 250) : ReadsBack k fields (command (.fields x)) := by
  subst hw
  refine ⟨?_, short⟩
  rw [hr]
  exact congrArg command (readBody_bodyBytes fields h hx)

theorem readsBack_getRuleRead {x : RuleQuery} (wf : wellFormed (.getRuleRead (.fields x)) = true) :
    ReadsBack .getRule [byteField x.index, byteField x.action] (.getRuleRead (.fields x)) := by
  simp only [wellFormed, bodyOk, Bool.and_eq_true, fitsByte_iff, bne_iff_ne] at wf
  obtain ⟨⟨hi, ha⟩, h⟩ := wf
  exact ⟨readGetRule_read hi ha h, Nat.le_of_ble_eq_true rfl⟩

theorem readsBack_stageOpenBlank {x : OpenBlankFields} (wf : wellFormed (.stageOpenBlank (.fields x)) = true) :
    ReadsBack .stageOpen [byteField x.target, byteField x.source] (.stageOpenBlank (.fields x)) := by
  simp only [wellFormed, bodyOk, Bool.and_eq_true, fitsByte_iff, bne_iff_ne] at wf
  obtain ⟨⟨ht, hs⟩, h⟩ := wf
  exact ⟨readStageOpen_blank ht hs h, Nat.le_of_ble_eq_true rfl⟩

theorem readsBack_stageOpenCopy {x : OpenCopyFields} (wf : wellFormed (.stageOpenCopy (.fields x)) = true) :
    ReadsBack .stageOpen [byteField x.target, byteField 0, byteField x.sourceSlot] (.stageOpenCopy (.fields x)) := by
  simp only [wellFormed, bodyOk, Bool.and_eq_true, fitsByte_iff] at wf
  exact ⟨readStageOpen_copy wf.1 wf.2, Nat.le_of_ble_eq_true rfl⟩

theorem readsBack_stageEntryWrite {x : EntryFields} (wf : wellFormed (.stageEntryWrite (.fields x)) = true) :
    ReadsBack .stageEntry [byteField 0, wordField x.offset, wordField x.mainGreen, wordField x.minMain, wordField x.maxMain,
      wordField x.sideMin, wordField x.lostTime, byteField x.adapt] (.stageEntryWrite (.fields x)) :=
  ⟨readStageEntry_write rfl (by simpa [wellFormed, bodyOk, and_assoc] using wf), Nat.le_of_ble_eq_true rfl⟩

theorem readsBack_stageEntryClear {n : Nat} (wf : wellFormed (.stageEntryClear (.fields n)) = true) :
    ReadsBack .stageEntry [byteField n] (.stageEntryClear (.fields n)) := by
  simp only [wellFormed, bodyOk, Bool.and_eq_true, fitsByte_iff, bne_iff_ne] at wf
  exact ⟨readStageEntry_clear wf.1 wf.2, Nat.le_of_ble_eq_true rfl⟩

theorem readsBack_setSelectModeFree {n : Nat} (wf : wellFormed (.setSelectModeFree (.fields n)) = true) :
    ReadsBack .setSelectMode [byteField n] (.setSelectModeFree (.fields n)) := by
  simp only [wellFormed, bodyOk, Bool.and_eq_true, fitsByte_iff, bne_iff_ne] at wf
  obtain ⟨⟨hn, h₁⟩, h₂⟩ := wf
  exact ⟨readSelectMode_free hn h₁ h₂, Nat.le_of_ble_eq_true rfl⟩

theorem readsBack_setSelectEntryWrite {x : SelectFields} (wf : wellFormed (.setSelectEntryWrite (.fields x)) = true) :
    ReadsBack .setSelectEntry [byteField x.index, byteField 0, byteField x.slot, wordField x.minTotal, wordField x.maxTotal,
      byteField x.minShare, byteField x.maxShare] (.setSelectEntryWrite (.fields x)) := by
  simp only [wellFormed, bodyOk, Bool.and_eq_true, fitsByte_iff, fitsWord_iff, and_assoc] at wf
  exact ⟨readSelectEntry_write rfl wf.1 (by simpa using wf.2), Nat.le_of_ble_eq_true rfl⟩

theorem readsBack_setSelectEntryClear {x : SelectClearFields} (wf : wellFormed (.setSelectEntryClear (.fields x)) = true) :
    ReadsBack .setSelectEntry [byteField x.index, byteField x.operation] (.setSelectEntryClear (.fields x)) := by
  simp only [wellFormed, bodyOk, Bool.and_eq_true, fitsByte_iff, bne_iff_ne] at wf
  obtain ⟨⟨hi, ho⟩, h⟩ := wf
  exact ⟨readSelectEntry_clear hi ho h, Nat.le_of_ble_eq_true rfl⟩

/-- The body of a well-formed request's frame is short enough, and is read as that request. -/
theorem requestFields_readBack {c : Instr} {k : RequestKind} {fields : List Field} (wf : wellFormed c = true)
    (h : requestFields c = some (k, fields)) : ReadsBack k fields c := by
  cases c with
  | goLive b =>
    cases b with
    | wrongLength n => cases h
    | fields x =>
      cases h
      exact readsBack_fields .goLive rfl
        (by simpa [wellFormed, bodyOk, byteOk, and_assoc] using wf) rfl rfl (by decide)
  | goSetup b =>
    cases b with
    | wrongLength n => cases h
    | fields x =>
      cases h
      exact readsBack_fields .goSetup rfl fits_nil rfl rfl (by decide)
  | partReset b =>
    cases b with
    | wrongLength n => cases h
    | fields x =>
      cases h
      exact readsBack_fields .partReset rfl fits_nil rfl rfl (by decide)
  | coordRestart b =>
    cases b with
    | wrongLength n => cases h
    | fields x =>
      cases h
      exact readsBack_fields .coordRestart rfl fits_nil rfl rfl (by decide)
  | getPartStatus b =>
    cases b with
    | wrongLength n => cases h
    | fields x =>
      cases h
      exact readsBack_fields .getPartStatus rfl fits_nil rfl rfl (by decide)
  | setNoticeMask b =>
    cases b with
    | wrongLength n => cases h
    | fields x =>
      cases h
      exact readsBack_fields .setNoticeMask rfl
        (by simpa [wellFormed, bodyOk, byteOk, and_assoc] using wf) rfl rfl (by decide)
  | setTime b =>
    cases b with
    | wrongLength n => cases h
    | fields x =>
      cases h
      exact readsBack_fields .setTime rfl
        (by simpa [wellFormed, bodyOk, byteOk, and_assoc] using wf) rfl rfl (by decide)
  | getTime b =>
    cases b with
    | wrongLength n => cases h
    | fields x =>
      cases h
      exact readsBack_fields .getTime rfl fits_nil rfl rfl (by decide)
  | setBeacon b =>
    cases b with
    | wrongLength n => cases h
    | fields x =>
      cases h
      exact readsBack_fields .setBeacon rfl
        (by simpa [wellFormed, bodyOk, byteOk, and_assoc] using wf) rfl rfl (by decide)
  | setPosition b =>
    cases b with
    | wrongLength n => cases h
    | fields x =>
      cases h
      exact readsBack_fields .setPosition rfl
        (by simpa [wellFormed, bodyOk, byteOk, and_assoc] using wf) rfl rfl (by decide)
  | clearPosition b =>
    cases b with
    | wrongLength n => cases h
    | fields x =>
      cases h
      exact readsBack_fields .clearPosition rfl
        (by simpa [wellFormed, bodyOk, byteOk, and_assoc] using wf) rfl rfl (by decide)
  | getPosition b =>
    cases b with
    | wrongLength n => cases h
    | fields x =>
      cases h
      exact readsBack_fields .getPosition rfl
        (by simpa [wellFormed, bodyOk, byteOk, and_assoc] using wf) rfl rfl (by decide)
  | reIdentify b =>
    cases b with
    | wrongLength n => cases h
    | fields x =>
      cases h
      exact readsBack_fields .reIdentify rfl
        (by simpa [wellFormed, bodyOk, byteOk, and_assoc] using wf) rfl rfl (by decide)
  | rejoin b =>
    cases b with
    | wrongLength n => cases h
    | fields x =>
      cases h
      exact readsBack_fields .rejoin rfl
        (by simpa [wellFormed, bodyOk, byteOk, and_assoc] using wf) rfl rfl (by decide)
  | setLink b =>
    cases b with
    | wrongLength n => cases h
    | fields x =>
      cases h
      exact readsBack_fields .setLink rfl
        (by simpa [wellFormed, bodyOk, byteOk, and_assoc] using wf) rfl rfl (by decide)
  | getLink b =>
    cases b with
    | wrongLength n => cases h
    | fields x =>
      cases h
      exact readsBack_fields .getLink rfl
        (by simpa [wellFormed, bodyOk, byteOk, and_assoc] using wf) rfl rfl (by decide)
  | getPlatoons b =>
    cases b with
    | wrongLength n => cases h
    | fields x =>
      cases h
      exact readsBack_fields .getPlatoons rfl
        (by simpa [wellFormed, bodyOk, byteOk, and_assoc] using wf) rfl rfl (by decide)
  | setSlack b =>
    cases b with
    | wrongLength n => cases h
    | fields x =>
      cases h
      exact readsBack_fields .setSlack rfl
        (by simpa [wellFormed, bodyOk, byteOk, and_assoc] using wf) rfl rfl (by decide)
  | setTransitionLimits b =>
    cases b with
    | wrongLength n => cases h
    | fields x =>
      cases h
      exact readsBack_fields .setTransitionLimits rfl
        (by simpa [wellFormed, bodyOk, byteOk, and_assoc] using wf) rfl rfl (by decide)
  | setRule b =>
    cases b with
    | wrongLength n => cases h
    | fields x =>
      cases h
      exact readsBack_fields .setRule rfl
        (by simpa [wellFormed, bodyOk, byteOk, and_assoc] using wf) rfl rfl (by decide)
  | clearRule b =>
    cases b with
    | wrongLength n => cases h
    | fields x =>
      cases h
      exact readsBack_fields .clearRule rfl
        (by simpa [wellFormed, bodyOk, byteOk, and_assoc] using wf) rfl rfl (by decide)
  | getRuleRead b =>
    cases b with
    | wrongLength n => cases h
    | fields x =>
      cases h
      exact readsBack_getRuleRead wf
  | getRuleReadAndZero b =>
    cases b with
    | wrongLength n => cases h
    | fields x =>
      cases h
      exact ⟨readGetRule_zero ((fitsByte_iff x).1 wf), Nat.le_of_ble_eq_true rfl⟩
  | stageOpenBlank b =>
    cases b with
    | wrongLength n => cases h
    | fields x =>
      cases h
      exact readsBack_stageOpenBlank wf
  | stageOpenCopy b =>
    cases b with
    | wrongLength n => cases h
    | fields x =>
      cases h
      exact readsBack_stageOpenCopy wf
  | stageHeader b =>
    cases b with
    | wrongLength n => cases h
    | fields x =>
      cases h
      exact readsBack_fields .stageHeader rfl
        (by simpa [wellFormed, bodyOk, byteOk, and_assoc] using wf) rfl rfl (by decide)
  | stageSeek b =>
    cases b with
    | wrongLength n => cases h
    | fields x =>
      cases h
      exact readsBack_fields .stageSeek rfl
        (by simpa [wellFormed, bodyOk, byteOk, and_assoc] using wf) rfl rfl (by decide)
  | stageEntryWrite b =>
    cases b with
    | wrongLength n => cases h
    | fields x =>
      cases h
      exact readsBack_stageEntryWrite wf
  | stageEntryClear b =>
    cases b with
    | wrongLength n => cases h
    | fields x =>
      cases h
      exact readsBack_stageEntryClear wf
  | stageRead b =>
    cases b with
    | wrongLength n => cases h
    | fields x =>
      cases h
      exact readsBack_fields .stageRead rfl fits_nil rfl rfl (by decide)
  | stageDiscard b =>
    cases b with
    | wrongLength n => cases h
    | fields x =>
      cases h
      exact readsBack_fields .stageDiscard rfl fits_nil rfl rfl (by decide)
  | commitPlan b =>
    cases b with
    | wrongLength n => cases h
    | fields x =>
      cases h
      exact readsBack_fields .commitPlan rfl fits_nil rfl rfl (by decide)
  | erasePlan b =>
    cases b with
    | wrongLength n => cases h
    | fields x =>
      cases h
      exact readsBack_fields .erasePlan rfl
        (by simpa [wellFormed, bodyOk, byteOk, and_assoc] using wf) rfl rfl (by decide)
  | getSlot b =>
    cases b with
    | wrongLength n => cases h
    | fields x =>
      cases h
      exact readsBack_fields .getSlot rfl
        (by simpa [wellFormed, bodyOk, byteOk, and_assoc] using wf) rfl rfl (by decide)
  | setSelectModeFree b =>
    cases b with
    | wrongLength n => cases h
    | fields x =>
      cases h
      exact readsBack_setSelectModeFree wf
  | setSelectModePinned b =>
    cases b with
    | wrongLength n => cases h
    | fields x =>
      cases h
      exact ⟨readSelectMode_pinned ((fitsByte_iff x).1 wf), Nat.le_of_ble_eq_true rfl⟩
  | setSelectModeResponsive b =>
    cases b with
    | wrongLength n => cases h
    | fields x =>
      cases h
      exact ⟨readSelectMode_responsive ((fitsByte_iff x).1 wf), Nat.le_of_ble_eq_true rfl⟩
  | setSelectEntryWrite b =>
    cases b with
    | wrongLength n => cases h
    | fields x =>
      cases h
      exact readsBack_setSelectEntryWrite wf
  | setSelectEntryClear b =>
    cases b with
    | wrongLength n => cases h
    | fields x =>
      cases h
      exact readsBack_setSelectEntryClear wf
  | getSelection b =>
    cases b with
    | wrongLength n => cases h
    | fields x =>
      cases h
      exact readsBack_fields .getSelection rfl fits_nil rfl rfl (by decide)
  | setQueueLimits b =>
    cases b with
    | wrongLength n => cases h
    | fields x =>
      cases h
      exact readsBack_fields .setQueueLimits rfl
        (by simpa [wellFormed, bodyOk, byteOk, and_assoc] using wf) rfl rfl (by decide)
  | getQueue b =>
    cases b with
    | wrongLength n => cases h
    | fields x =>
      cases h
      exact readsBack_fields .getQueue rfl
        (by simpa [wellFormed, bodyOk, byteOk, and_assoc] using wf) rfl rfl (by decide)
  | setPriorityPolicy b =>
    cases b with
    | wrongLength n => cases h
    | fields x =>
      cases h
      exact readsBack_fields .setPriorityPolicy rfl
        (by simpa [wellFormed, bodyOk, byteOk, and_assoc] using wf) rfl rfl (by decide)
  | getPreemption b =>
    cases b with
    | wrongLength n => cases h
    | fields x =>
      cases h
      exact readsBack_fields .getPreemption rfl fits_nil rfl rfl (by decide)
  | cancelRoute b =>
    cases b with
    | wrongLength n => cases h
    | fields x =>
      cases h
      exact readsBack_fields .cancelRoute rfl
        (by simpa [wellFormed, bodyOk, byteOk, and_assoc] using wf) rfl rfl (by decide)
  | _ => cases h

/-- Settles O9: the frame is taken whole, and each body is read field by field as its layout writes it. -/
theorem requestFramesReadBack : Obligations.RequestFramesReadBack := by
  unfold Obligations.RequestFramesReadBack
  intro c bytes wf h
  obtain ⟨⟨k, fields⟩, hf, rfl⟩ := Option.map_eq_some_iff.1 h
  obtain ⟨read, short⟩ := requestFields_readBack wf hf
  rw [receiveBytes_request _ _ (by rw [bodyBytes_length]; exact short), read]

end Sys2Proof.Proofs.RequestFrames
end

section
/-! PROOF. The Plan Library (06) and the requests of the Plan Selector (07): the staging record, commit and erase, and the
requested mode and table (O25 to O28). -/

open Sys2Proof Sys2Proof.Machine

namespace Sys2Proof.Proofs.PlanLibrary

open SupervisoryLine (writing_iff)

/-! ### STAGE-OPEN (R107) -/

theorem openBlank_taken (target : SlotIx) (s : State) :
    openBlank { target := target.val + 1, source := 1 } s =
      (s.withStaging (some (openedStaging target none (Vector.replicate 12 none))), .done .none) := by
  unfold openBlank
  rw [slotOf_number]
  rfl

theorem openBlank_targetOutside {n m : Nat} (hn : n = 0 ∨ 24 < n) (s : State) :
    openBlank { target := n, source := m } s = (s, .badValue 0 1) := by
  unfold openBlank
  rw [slotOf_outside hn]

theorem openBlank_sourceOutside (target : SlotIx) {m : Nat} (hm : 2 ≤ m) (s : State) :
    openBlank { target := target.val + 1, source := m } s = (s, .badValue 0 2) := by
  unfold openBlank
  rw [slotOf_number]
  exact if_pos (by dsimp only; omega)

theorem openCopy_targetOutside {n m : Nat} (hn : n = 0 ∨ 24 < n) (s : State) :
    openCopy { target := n, sourceSlot := m } s = (s, .badValue 0 1) := by
  unfold openCopy
  rw [slotOf_outside hn]

theorem openCopy_writing (target : SlotIx) (n : Nat) {s : State} (h : s.pl.write ≠ .idle) :
    openCopy { target := target.val + 1, sourceSlot := n } s = (s, .busy) := by
  unfold openCopy
  rw [slotOf_number]
  exact if_pos ((writing_iff _).2 h)

/-- With no write in flight the answer turns on the source slot alone. -/
theorem openCopy_idle (target : SlotIx) (n : Nat) {s : State} (idle : s.pl.write = .idle) :
    openCopy { target := target.val + 1, sourceSlot := n } s =
      match slotOf n with
      | none => (s, .badValue 0 3)
      | some source =>
        match s.pl.slots.get source with
        | .valid plan => (s.withStaging (some (openedStaging target (some plan.header) plan.entries)), .done .none)
        | _ => (s, .badValue 0 3) := by
  unfold openCopy
  rw [slotOf_number]
  exact if_neg (fun w => (writing_iff _).1 w idle)

theorem openCopy_taken (target source : SlotIx) {plan : Plan} {s : State} (idle : s.pl.write = .idle)
    (h : s.pl.slots.get source = .valid plan) :
    openCopy { target := target.val + 1, sourceSlot := source.val + 1 } s =
      (s.withStaging (some (openedStaging target (some plan.header) plan.entries)), .done .none) := by
  rw [openCopy_idle target _ idle, slotOf_number]
  dsimp only
  rw [h]

theorem openCopy_sourceOutside (target : SlotIx) {n : Nat} (hn : n = 0 ∨ 24 < n) {s : State} (idle : s.pl.write = .idle) :
    openCopy { target := target.val + 1, sourceSlot := n } s = (s, .badValue 0 3) := by
  rw [openCopy_idle target _ idle, slotOf_outside hn]

theorem openCopy_sourceNotValid (target source : SlotIx) {s : State} (idle : s.pl.write = .idle)
    (h : ∀ plan, s.pl.slots.get source ≠ .valid plan) :
    openCopy { target := target.val + 1, sourceSlot := source.val + 1 } s = (s, .badValue 0 3) := by
  rw [openCopy_idle target _ idle, slotOf_number]
  dsimp only
  split
  · next plan hp => exact absurd hp (h plan)
  · rfl

/-- Settles O25: each source by the answer of its branch of R107. -/
theorem stageOpenOpens : Obligations.StageOpenOpens := by
  unfold Obligations.StageOpenOpens
  intro target s ready
  refine ⟨congrArg Host.Outcome.next (onRequest_done ready (openBlank_taken target (frameTaken s))),
    fun source plan idle h => congrArg Host.Outcome.next
      (onRequest_done ready (openCopy_taken (s := frameTaken s) target source idle h)),
    fun n busy => congrArg Host.Outcome.next (onRequest_refused ready (openCopy_writing (s := frameTaken s) target n busy)),
    fun n idle hn => congrArg Host.Outcome.next
      (onRequest_refused ready (openCopy_sourceOutside (s := frameTaken s) target hn idle)),
    fun source idle h => congrArg Host.Outcome.next
      (onRequest_refused ready (openCopy_sourceNotValid (s := frameTaken s) target source idle h)),
    fun n m hn => ⟨congrArg Host.Outcome.next (onRequest_refused ready (openCopy_targetOutside hn (frameTaken s))),
      congrArg Host.Outcome.next (onRequest_refused ready (openBlank_targetOutside hn (frameTaken s)))⟩,
    fun m hm => congrArg Host.Outcome.next (onRequest_refused ready (openBlank_sourceOutside target hm (frameTaken s)))⟩

/-! ### The open staging record (R108 to R110) -/

theorem whileOpen_open {handle : Staging → State → State × Answer} {x : Staging} {s : State} (h : s.pl.staging = some x) :
    whileOpen handle s = handle x s := by
  unfold whileOpen
  rw [h]

theorem whileOpen_closed {handle : Staging → State → State × Answer} {s : State} (h : s.pl.staging = none) :
    whileOpen handle s = (s, .noSuch) := by
  unfold whileOpen
  rw [h]

theorem waveOf_outside {code : Nat} (h : 2 < code) : waveOf code = none := by
  unfold waveOf
  split <;> first | omega | rfl

theorem incrementOf_outside {code : Nat} (h : 2 < code) : incrementOf code = none := by
  unfold incrementOf
  split <;> first | omega | rfl

theorem stageHeader_taken {x : Staging} {s : State} {length code : Nat} {wave : Wave} (h : s.pl.staging = some x)
    (lo : 400 ≤ length) (hi : length ≤ 2400) (hw : waveOf code = some wave) :
    stageHeader { cycleLength := length, wave := code } s =
      (s.withStaging (some { x with header := some { cycleLength := length, wave := wave } }), .done .none) := by
  unfold stageHeader
  rw [whileOpen_open h, if_neg (by simp [inRange, lo, hi]), hw]

theorem stageHeader_badLength {x : Staging} {s : State} {length : Nat} (code : Nat) (h : s.pl.staging = some x)
    (hl : length < 400 ∨ 2400 < length) :
    stageHeader { cycleLength := length, wave := code } s = (s, .badValue 0 1) := by
  unfold stageHeader
  rw [whileOpen_open h]
  exact if_pos (by simp [inRange]; omega)

theorem stageHeader_badWave {x : Staging} {s : State} {length code : Nat} (h : s.pl.staging = some x)
    (lo : 400 ≤ length) (hi : length ≤ 2400) (hc : 2 < code) :
    stageHeader { cycleLength := length, wave := code } s = (s, .badValue 0 2) := by
  unfold stageHeader
  rw [whileOpen_open h, if_neg (by simp [inRange, lo, hi]), waveOf_outside hc]

theorem stageSeek_taken {x : Staging} {s : State} {code : Nat} {mode : IncrementMode} (p : Pos) (h : s.pl.staging = some x)
    (hm : incrementOf code = some mode) :
    stageSeek { position := p.val + 1, mode := code } s =
      (s.withStaging (some { x with cursor := p, mode := mode }), .done .none) := by
  unfold stageSeek
  rw [whileOpen_open h, posOf_number]
  dsimp only
  rw [hm]

theorem stageSeek_badPosition {x : Staging} {s : State} {n : Nat} (code : Nat) (h : s.pl.staging = some x)
    (hn : n = 0 ∨ 12 < n) : stageSeek { position := n, mode := code } s = (s, .badValue 0 1) := by
  unfold stageSeek
  rw [whileOpen_open h, posOf_outside hn]

theorem stageSeek_badMode {x : Staging} {s : State} {code : Nat} (p : Pos) (h : s.pl.staging = some x) (hc : 2 < code) :
    stageSeek { position := p.val + 1, mode := code } s = (s, .badValue 0 2) := by
  unfold stageSeek
  rw [whileOpen_open h, posOf_number]
  dsimp only
  rw [incrementOf_outside hc]

theorem afterWrite_eq (x : Staging) : afterWrite x = if x.mode = .hold then x.cursor else advance x.cursor := by
  unfold afterWrite
  cases x.mode <;> rfl

theorem afterRead_eq (x : Staging) : afterRead x = if x.mode = .onAccess then advance x.cursor else x.cursor := by
  unfold afterRead
  cases x.mode <;> rfl

/-- The first field of a STAGE-ENTRY WRITE out of its range, or 0 when each is in range. -/
theorem entryFieldFault_eq (f : EntryFields) :
    entryFieldFault f =
      if 2399 < f.offset then some 2 else if f.mainGreen < 50 ∨ 2400 < f.mainGreen then some 3
      else if f.minMain < 50 ∨ 2400 < f.minMain then some 4 else if f.maxMain < 50 ∨ 2400 < f.maxMain then some 5
      else if f.sideMin < 50 ∨ 2400 < f.sideMin then some 6 else if f.lostTime < 20 ∨ 200 < f.lostTime then some 7
      else if 1 < f.adapt then some 8 else none := by
  have outside (lo hi n : Nat) : inRange lo hi n = true ↔ ¬ (n < lo ∨ hi < n) := by simp [inRange]
  have above (n : Nat) : inRange 0 2399 n = true ↔ ¬ 2399 < n := by simp [inRange]
  have flag (n : Nat) : decide (n ≤ 1) = true ↔ ¬ 1 < n := by simp
  unfold entryFieldFault
  simp only [firstBad, above, outside, flag, ite_not]

theorem stageEntryWrite_taken {x : Staging} {s : State} {f : EntryFields} (h : s.pl.staging = some x)
    (hf : entryFieldFault f = none) : stageEntryWrite f s = putEntry (some (entryOf f)) x s := by
  unfold stageEntryWrite
  rw [whileOpen_open h, hf]

theorem stageEntryWrite_fault {x : Staging} {s : State} {f : EntryFields} {field : Nat} (h : s.pl.staging = some x)
    (hf : entryFieldFault f = some field) : stageEntryWrite f s = (s, .badValue 0 field) := by
  unfold stageEntryWrite
  rw [whileOpen_open h, hf]

theorem stageEntryClear_taken {x : Staging} {s : State} (h : s.pl.staging = some x) :
    stageEntryClear 1 s = putEntry none x s := by
  unfold stageEntryClear
  rw [whileOpen_open h]
  rfl

theorem stageEntryClear_badOperation {x : Staging} {s : State} {n : Nat} (h : s.pl.staging = some x) (hn : 2 ≤ n) :
    stageEntryClear n s = (s, .badValue 0 1) := by
  unfold stageEntryClear
  rw [whileOpen_open h]
  exact if_pos (by omega)

theorem stageRead_taken {x : Staging} {s : State} (h : s.pl.staging = some x) :
    stageRead s = (s.withStaging (some { x with cursor := afterRead x }), .done (.stage
      { positionRead := x.cursor, entry := x.entries.get x.cursor, header := x.header, target := x.target,
        cursor := afterRead x, mode := x.mode })) := whileOpen_open h

theorem stageDiscard_taken {x : Staging} {s : State} (h : s.pl.staging = some x) :
    stageDiscard s = (s.withStaging none, .done .none) := whileOpen_open h

/-- A request to the open record whose answer puts it in the form `y`. -/
theorem answered_staging {α : Type} {k : RequestKind} {f : α} {handle : α → State → State × Answer} {s : State}
    {y : Option Staging} {a : Answer} (ready : Ready s) (h : handle f (frameTaken s) = ((frameTaken s).withStaging y, a)) :
    onRequest k (.fields f) handle s = (s.withStaging y).answered k a := onRequest_done ready h

/-- The edits of header, cursor and increment mode. -/
theorem stagingHeaderAndCursor {x : Staging} {s : State} (ready : Ready s) (h : s.pl.staging = some x) :
    (∀ length code wave, 400 ≤ length → length ≤ 2400 → waveOf code = some wave →
      exec (.stageHeader (.fields { cycleLength := length, wave := code })) s =
        .next ((s.withStaging (some { x with header := some { cycleLength := length, wave := wave } })).answered
          .stageHeader (.done .none))) ∧
    ∀ (p : Pos) code mode, incrementOf code = some mode →
      exec (.stageSeek (.fields { position := p.val + 1, mode := code })) s =
        .next ((s.withStaging (some { x with cursor := p, mode := mode })).answered .stageSeek (.done .none)) :=
  ⟨fun _ _ _ lo hi hw => congrArg Host.Outcome.next
      (answered_staging ready (stageHeader_taken (s := frameTaken s) h lo hi hw)),
    fun p _ _ hm => congrArg Host.Outcome.next (answered_staging ready (stageSeek_taken (s := frameTaken s) p h hm))⟩

theorem entryFieldFault_none {f : EntryFields} (ho : f.offset ≤ 2399) (hg : 50 ≤ f.mainGreen ∧ f.mainGreen ≤ 2400)
    (hn : 50 ≤ f.minMain ∧ f.minMain ≤ 2400) (hx : 50 ≤ f.maxMain ∧ f.maxMain ≤ 2400)
    (hs : 50 ≤ f.sideMin ∧ f.sideMin ≤ 2400) (hl : 20 ≤ f.lostTime ∧ f.lostTime ≤ 200) (ha : f.adapt ≤ 1) :
    entryFieldFault f = none := by
  rw [entryFieldFault_eq, if_neg (by omega), if_neg (by omega), if_neg (by omega), if_neg (by omega), if_neg (by omega),
    if_neg (by omega), if_neg (by omega)]

theorem entryFieldFault_some {f : EntryFields} {field : Nat}
    (h : field = (if 2399 < f.offset then 2 else if f.mainGreen < 50 ∨ 2400 < f.mainGreen then 3
      else if f.minMain < 50 ∨ 2400 < f.minMain then 4 else if f.maxMain < 50 ∨ 2400 < f.maxMain then 5
      else if f.sideMin < 50 ∨ 2400 < f.sideMin then 6 else if f.lostTime < 20 ∨ 200 < f.lostTime then 7
      else if 1 < f.adapt then 8 else 0)) (h0 : field ≠ 0) : entryFieldFault f = some field := by
  rw [entryFieldFault_eq]
  subst h
  split_ifs at h0 ⊢ <;> first | rfl | exact absurd rfl h0

/-- The edits of the place at the cursor, with the cursor after them. -/
theorem stagingEntries {x : Staging} {s : State} (ready : Ready s) (h : s.pl.staging = some x) :
    (∀ f : EntryFields, entryFieldFault f = none →
      exec (.stageEntryWrite (.fields f)) s = .next ((s.withStaging (some { x with
        cursor := afterWrite x, entries := x.entries.set x.cursor.val (some (entryOf f)) })).answered .stageEntry
          (.done (.cursor (afterWrite x))))) ∧
    exec (.stageEntryClear (.fields 1)) s = .next ((s.withStaging (some { x with
      cursor := afterWrite x, entries := x.entries.set x.cursor.val none })).answered .stageEntry
        (.done (.cursor (afterWrite x)))) ∧
    exec (.stageRead (.fields ())) s = .next ((s.withStaging (some { x with cursor := afterRead x })).answered .stageRead
      (.done (.stage { positionRead := x.cursor, entry := x.entries.get x.cursor, header := x.header, target := x.target,
                       cursor := afterRead x, mode := x.mode }))) ∧
    exec (.stageDiscard (.fields ())) s = .next ((s.withStaging none).answered .stageDiscard (.done .none)) :=
  ⟨fun _ hf => congrArg Host.Outcome.next (answered_staging ready (stageEntryWrite_taken (s := frameTaken s) h hf)),
    congrArg Host.Outcome.next (answered_staging ready (stageEntryClear_taken (s := frameTaken s) h)),
    congrArg Host.Outcome.next
      (answered_staging (handle := fun _ => stageRead) ready (stageRead_taken (s := frameTaken s) h)),
    congrArg Host.Outcome.next
      (answered_staging (handle := fun _ => stageDiscard) ready (stageDiscard_taken (s := frameTaken s) h))⟩

/-- Settles O26: header and cursor, the place at the cursor, and the closed record. -/
theorem stagingRecordEdited : Obligations.StagingRecordEdited := by
  unfold Obligations.StagingRecordEdited
  refine ⟨fun x s ready h => ?_, fun x s ready h => ?_, fun s ready h => ?_⟩
  · obtain ⟨header, cursor⟩ := stagingHeaderAndCursor ready h
    exact ⟨header,
      fun length code hl => congrArg Host.Outcome.next
        (onRequest_refused ready (stageHeader_badLength (s := frameTaken s) code h hl)),
      fun length code lo hi hc => congrArg Host.Outcome.next
        (onRequest_refused ready (stageHeader_badWave (s := frameTaken s) h lo hi hc)),
      cursor,
      fun n code hn => congrArg Host.Outcome.next
        (onRequest_refused ready (stageSeek_badPosition (s := frameTaken s) code h hn)),
      fun p code hc => congrArg Host.Outcome.next (onRequest_refused ready (stageSeek_badMode (s := frameTaken s) p h hc))⟩
  · obtain ⟨write, clear, read, discard⟩ := stagingEntries ready h
    rw [afterWrite_eq] at clear
    rw [afterRead_eq] at read
    refine ⟨fun f ho hg hn hx hs hl ha => ?_,
      fun f field hf h0 => congrArg Host.Outcome.next (onRequest_refused ready
        (stageEntryWrite_fault (s := frameTaken s) h (entryFieldFault_some hf h0))), clear,
      fun n hn => congrArg Host.Outcome.next
        (onRequest_refused ready (stageEntryClear_badOperation (s := frameTaken s) h hn)), read, discard⟩
    have written := write f (entryFieldFault_none ho hg hn hx hs hl ha)
    rw [afterWrite_eq, entryOf, beq_eq_decide] at written
    exact written
  · exact ⟨fun f => congrArg Host.Outcome.next (onRequest_refused ready (whileOpen_closed (s := frameTaken s) h)),
      fun f => congrArg Host.Outcome.next (onRequest_refused ready (whileOpen_closed (s := frameTaken s) h)),
      fun f => congrArg Host.Outcome.next (onRequest_refused ready (whileOpen_closed (s := frameTaken s) h)),
      fun n => congrArg Host.Outcome.next (onRequest_refused ready (whileOpen_closed (s := frameTaken s) h)),
      congrArg Host.Outcome.next (onRequest_refused ready (whileOpen_closed (s := frameTaken s) h)),
      congrArg Host.Outcome.next (onRequest_refused ready (whileOpen_closed (s := frameTaken s) h)),
      congrArg Host.Outcome.next (onRequest_refused ready (whileOpen_closed (s := frameTaken s) h))⟩

/-! ### COMMIT-PLAN (R111, R112) -/

theorem entryFault_eq (c : Nat) (e : PlanEntry) :
    entryFault c e =
      if c ≤ e.offset then some 1 else if e.mainGreen < e.minMain ∨ e.maxMain < e.mainGreen then some 2
      else if c < e.maxMain + e.sideMin + e.lostTime then some 4 else none := by
  have outside (lo hi n : Nat) : inRange lo hi n = true ↔ ¬ (n < lo ∨ hi < n) := by simp [inRange]
  have below (a b : Nat) : decide (a < b) = true ↔ ¬ b ≤ a := by simp
  have within (a b : Nat) : decide (a ≤ b) = true ↔ ¬ b < a := by simp
  unfold entryFault
  simp only [firstBad, below, outside, within, ite_not]

/-- Places whose entries pass every test are passed over. -/
theorem entriesFault_append {c : Nat} {entries : EntryPlaces} (front back : List Pos)
    (h : ∀ q ∈ front, ∀ f, entries.get q = some f → entryFault c f = none) :
    entriesFault c entries (front ++ back) = entriesFault c entries back := by
  induction front with
  | nil => rfl
  | cons q front ih =>
    have rest := ih (fun r hr => h r (List.mem_cons_of_mem _ hr))
    rw [List.cons_append, entriesFault]
    split
    · exact rest
    · next f hf =>
      rw [h q List.mem_cons_self f hf]
      exact rest

theorem entriesFault_none {c : Nat} {entries : EntryPlaces} (h : ∀ q f, entries.get q = some f → entryFault c f = none) :
    entriesFault c entries positions = none := by
  have all := entriesFault_append (c := c) (entries := entries) positions [] (fun q _ => h q)
  rw [List.append_nil] at all
  exact all

/-- The positions in order, split at one of them. -/
theorem positions_split (p : Pos) : positions = positions.filter (· < p) ++ p :: positions.filter (p < ·) := by
  revert p
  decide

/-- The first failing place, with its field (R111 step 3). -/
theorem entriesFault_first {c : Nat} {entries : EntryPlaces} {p : Pos} {e : PlanEntry} {field : Nat}
    (before : ∀ q f, q < p → entries.get q = some f → entryFault c f = none) (he : entries.get p = some e)
    (hf : entryFault c e = some field) : entriesFault c entries positions = some (p.val + 1, field) := by
  rw [positions_split p, entriesFault_append _ _ (fun q hq f => before q f (by simpa using (List.mem_filter.1 hq).2)),
    entriesFault, he]
  dsimp only
  rw [hf]
  rfl

theorem entryPositions_ne_nil {entries : EntryPlaces} {p : Pos} {e : PlanEntry} (h : entries.get p = some e) :
    ¬ (entryPositions entries).isEmpty = true := by
  have member : p ∈ entryPositions entries := List.mem_filter.2 ⟨mem_positions p, by rw [h]; rfl⟩
  rw [List.isEmpty_iff]
  exact List.ne_nil_of_mem member

theorem validateStaged_noHeader {x : Staging} (h : x.header = none) : validateStaged x = .inl (0, 1) := by
  unfold validateStaged
  rw [h]

theorem validateStaged_noEntries {x : Staging} {header : PlanHeader} (h : x.header = some header)
    (empty : ∀ p, x.entries.get p = none) : validateStaged x = .inl (0, 3) := by
  have none : entryPositions x.entries = [] := List.filter_eq_nil_iff.2 (fun p _ => by rw [empty p]; nofun)
  unfold validateStaged
  rw [h]
  exact if_pos (by rw [none]; rfl)

theorem validateStaged_fault {x : Staging} {header : PlanHeader} {p : Pos} {e : PlanEntry} {field : Nat}
    (h : x.header = some header)
    (before : ∀ q f, q < p → x.entries.get q = some f → entryFault header.cycleLength f = none)
    (he : x.entries.get p = some e) (hf : entryFault header.cycleLength e = some field) :
    validateStaged x = .inl (p.val + 1, field) := by
  unfold validateStaged
  rw [h]
  refine (if_neg (entryPositions_ne_nil he)).trans ?_
  rw [entriesFault_first before he hf]

theorem validateStaged_valid {x : Staging} {header : PlanHeader} (h : x.header = some header)
    (valid : planValid { header := header, entries := x.entries } = true) :
    validateStaged x = .inr { header := header, entries := x.entries } := by
  simp only [planValid, Bool.and_eq_true, Bool.not_eq_true', List.all_eq_true] at valid
  obtain ⟨⟨-, some⟩, tests⟩ := valid
  have sound : entriesFault header.cycleLength x.entries positions = none := by
    refine entriesFault_none (fun q f hq => ?_)
    have test := tests q (mem_positions q)
    rw [hq] at test
    simpa using (Bool.and_eq_true_iff.1 test).2
  unfold validateStaged
  rw [h]
  refine (if_neg (by simp [some])).trans ?_
  rw [sound]

theorem commitPlan_writing {x : Staging} {s : State} (h : s.pl.staging = some x) (busy : s.pl.write ≠ .idle) :
    commitPlan s = (s, .busy) := by
  unfold commitPlan
  rw [whileOpen_open h]
  exact if_pos ((writing_iff _).2 busy)

theorem commitPlan_fault {x : Staging} {s : State} {p field : Nat} (h : s.pl.staging = some x) (idle : s.pl.write = .idle)
    (hf : validateStaged x = .inl (p, field)) : commitPlan s = (s, .badValue p field) := by
  unfold commitPlan
  rw [whileOpen_open h]
  refine (if_neg (fun w => (writing_iff _).1 w idle)).trans ?_
  rw [hf]

theorem commitPlan_taken {x : Staging} {s : State} {plan : Plan} (h : s.pl.staging = some x) (idle : s.pl.write = .idle)
    (hp : validateStaged x = .inr plan) :
    commitPlan s = ({ s with pl := { s.pl with write := .committing x.target plan, staging := none } }, .accepted) := by
  unfold commitPlan
  rw [whileOpen_open h]
  refine (if_neg (fun w => (writing_iff _).1 w idle)).trans ?_
  rw [hp]

theorem exec_commitPlan_fault {x : Staging} {s : State} {p field : Nat} (ready : Ready s) (h : s.pl.staging = some x)
    (idle : s.pl.write = .idle) (hf : validateStaged x = .inl (p, field)) :
    exec (.commitPlan (.fields ())) s = .next (s.answered .commitPlan (.badValue p field)) :=
  congrArg Host.Outcome.next
    (onRequest_refused (handle := fun _ => commitPlan) ready (commitPlan_fault (s := frameTaken s) h idle hf))

/-- COMMIT-PLAN to an open record. -/
theorem commitPlan_answered {x : Staging} {s : State} (ready : Ready s) (h : s.pl.staging = some x) :
    (s.pl.write ≠ .idle → exec (.commitPlan (.fields ())) s = .next (s.answered .commitPlan .busy)) ∧
    (∀ plan, s.pl.write = .idle → validateStaged x = .inr plan →
      exec (.commitPlan (.fields ())) s = .next (({ s with pl := { s.pl with
        write := .committing x.target plan, staging := none } } : State).answered .commitPlan .accepted)) ∧
    ∀ p field, s.pl.write = .idle → validateStaged x = .inl (p, field) →
      exec (.commitPlan (.fields ())) s = .next (s.answered .commitPlan (.badValue p field)) :=
  ⟨fun busy => congrArg Host.Outcome.next
      (onRequest_refused (handle := fun _ => commitPlan) ready (commitPlan_writing (s := frameTaken s) h busy)),
    fun plan idle hp => congrArg Host.Outcome.next
      (onRequest_done (handle := fun _ => commitPlan)
        (t := { s with pl := { s.pl with write := .committing x.target plan, staging := none } }) ready
        (commitPlan_taken (s := frameTaken s) h idle hp)),
    fun _ _ => exec_commitPlan_fault ready h⟩

theorem exec_commitComplete {slot : SlotIx} {plan : Plan} {s : State} (h : s.pl.write = .committing slot plan) :
    ∃ sli, exec .commitComplete s =
      .next { s with pl := { s.pl with slots := s.pl.slots.set slot.val (.valid plan), write := .idle },
                     ps := s.ps.commitDone slot, sli := sli } := by
  refine ⟨(transmitterRun (commitDone s)).sli, ?_⟩
  change Host.Outcome.next (transmitterRun (commitDone s)) = _
  unfold commitDone
  rw [h]
  rfl

/-! What the Plan Selector makes of a commit (R127). -/

theorem remake_eq (ps : Selector) (slot : SlotIx) (cause : PlanCause) :
    ps.remake slot cause = { ps with
      pendingPlan := some { slot := slot, cause := cause },
      deferrals := if ps.pendingPlan.map PendingPlan.slot = some slot then ps.deferrals else 0 } := by
  unfold Selector.remake
  cases h : ps.pendingPlan with
  | none => simp [Selector.makePending]
  | some x =>
    by_cases hs : x.slot = slot
    · simp [hs]
    · simp [hs, Selector.makePending]

theorem commitDone_active {ps : Selector} {slot : SlotIx} (hm : ps.mode ≠ .free) (ha : ps.activeSlot = some slot) :
    ((∀ x, ps.pendingPlan = some x → x.slot = slot) → ps.commitDone slot = ps.remake slot .reload) ∧
      ((∃ x, ps.pendingPlan = some x ∧ x.slot ≠ slot) → ps.commitDone slot = ps) := by
  unfold Selector.commitDone
  rw [if_neg hm, if_pos ha]
  refine ⟨fun same => ?_, fun ⟨x, hx, other⟩ => ?_⟩
  · cases hp : ps.pendingPlan with
    | none => rfl
    | some x => exact if_pos (same x hp)
  · rw [hx]
    exact if_neg other

theorem commitDone_inactive {ps : Selector} {slot : SlotIx} (ha : ps.activeSlot ≠ some slot) :
    (ps.mode = .pinned slot → ps.commitDone slot = ps.remake slot .pin) ∧
      (ps.mode ≠ .pinned slot → ps.commitDone slot = ps) := by
  unfold Selector.commitDone
  refine ⟨fun pinned => ?_, fun other => ?_⟩
  · rw [if_neg (by rw [pinned]; nofun), if_neg ha, if_pos pinned]
  · rw [if_neg ha, if_neg other, ite_self]

/-! ### ERASE-PLAN (R113) -/

theorem erasePlan_outside {n : Nat} (hn : n = 0 ∨ 24 < n) (s : State) : erasePlan n s = (s, .badValue 0 1) := by
  unfold erasePlan
  rw [slotOf_outside hn]

theorem erasePlan_writing (slot : SlotIx) {s : State} (busy : s.pl.write ≠ .idle) :
    erasePlan (slot.val + 1) s = (s, .busy) := by
  unfold erasePlan
  rw [slotOf_number]
  exact if_pos ((writing_iff _).2 busy)

theorem erasePlan_idle (slot : SlotIx) {s : State} (idle : s.pl.write = .idle) :
    erasePlan (slot.val + 1) s =
      if s.pl.slots.get slot = .empty then (s, .noSuch)
      else ({ s with pl := { s.pl with write := .erasing slot } }, .accepted) := by
  unfold erasePlan
  rw [slotOf_number]
  exact if_neg (fun w => (writing_iff _).1 w idle)

theorem exec_eraseComplete {slot : SlotIx} {s : State} (h : s.pl.write = .erasing slot) :
    ∃ sli, exec .eraseComplete s =
      .next { s with pl := { s.pl with slots := s.pl.slots.set slot.val .empty, write := .idle }, sli := sli } := by
  refine ⟨(transmitterRun (eraseDone s)).sli, ?_⟩
  change Host.Outcome.next (transmitterRun (eraseDone s)) = _
  unfold eraseDone
  rw [h]
  rfl

/-- Settles O27: the checks of COMMIT-PLAN in their order, both completions, and ERASE-PLAN. -/
theorem commitAndEraseWriteTheSlot : Obligations.CommitAndEraseWriteTheSlot := by
  unfold Obligations.CommitAndEraseWriteTheSlot
  refine ⟨fun x s ready h => ?_, fun slot plan s h => ?_, fun s ready => ⟨fun n hn => ?_, fun slot => ?_⟩, fun slot s h => ?_⟩
  · obtain ⟨busy, taken, fault⟩ := commitPlan_answered ready h
    refine ⟨busy, fun header idle hh _ valid => taken _ idle (validateStaged_valid hh valid),
      fun idle hh => fault 0 1 idle (validateStaged_noHeader hh),
      fun header idle hh empty => fault 0 3 idle (validateStaged_noEntries hh empty),
      fun header p e field idle hh he before hf h0 => ?_⟩
    refine fault _ _ idle (validateStaged_fault hh (fun q f hq hf' => ?_) he ?_)
    · obtain ⟨ho, hlo, hhi, hsum⟩ := before q f hq hf'
      rw [entryFault_eq, if_neg (by omega), if_neg (by omega), if_neg (by omega)]
    · rw [entryFault_eq]
      subst hf
      split_ifs at h0 ⊢ <;> first | rfl | exact absurd rfl h0
  · obtain ⟨sli, done⟩ := exec_commitComplete h
    refine ⟨_, done, ?_, fun i hi => ?_, rfl, rfl, ⟨fun free => ?_, fun hm ha same => ?_, fun hm ha other => ?_,
      fun pinned ha => ?_, fun other ha => ?_⟩, rfl, rfl, rfl, rfl, rfl, rfl, rfl, rfl, rfl⟩
    · exact (get_set _ _ _ _).trans (if_pos rfl)
    · exact (get_set _ _ _ _).trans (if_neg hi.symm)
    · exact if_pos free
    · exact ((commitDone_active hm ha).1 same).trans (remake_eq _ _ _)
    · exact (commitDone_active hm ha).2 other
    · exact ((commitDone_inactive ha).1 pinned).trans (remake_eq _ _ _)
    · exact (commitDone_inactive ha).2 other
  · exact congrArg Host.Outcome.next (onRequest_refused ready (erasePlan_outside hn (frameTaken s)))
  · refine ⟨fun busy => congrArg Host.Outcome.next
        (onRequest_refused ready (erasePlan_writing (s := frameTaken s) slot busy)), fun idle empty => ?_, fun idle full => ?_⟩
    · exact congrArg Host.Outcome.next
        (onRequest_refused ready ((erasePlan_idle (s := frameTaken s) slot idle).trans (if_pos empty)))
    · exact congrArg Host.Outcome.next
        (onRequest_done (t := { s with pl := { s.pl with write := .erasing slot } }) ready
          ((erasePlan_idle (s := frameTaken s) slot idle).trans (if_neg full)))
  · obtain ⟨sli, done⟩ := exec_eraseComplete h
    exact ⟨_, done, (get_set _ _ _ _).trans (if_pos rfl), fun i hi => (get_set _ _ _ _).trans (if_neg hi.symm), rfl, rfl,
      rfl, rfl, rfl, rfl, rfl, rfl, rfl, rfl, rfl, rfl⟩

/-! ### The requested mode (R122) -/

theorem selectFree_outside {n : Nat} (hn : 3 ≤ n) (s : State) : selectFree n s = (s, .badValue 0 1) :=
  if_pos (by omega)

theorem selectPinned_valid {slot : SlotIx} {plan : Plan} {s : State} (h : s.pl.slots.get slot = .valid plan) :
    selectPinned (slot.val + 1) s = requestMode (.pinned slot) s := by
  unfold selectPinned
  rw [slotOf_number]
  exact if_pos (by rw [h]; rfl)

theorem slotState_valid {x : Slot} : slotState x = .valid ↔ ∃ plan, x = .valid plan := by
  cases x <;> simp [slotState]

theorem selectPinned_notValid {slot : SlotIx} {s : State} (h : ∀ plan, s.pl.slots.get slot ≠ .valid plan) :
    selectPinned (slot.val + 1) s = (s, .noSuch) := by
  unfold selectPinned
  rw [slotOf_number]
  refine if_neg (fun valid => ?_)
  obtain ⟨plan, hp⟩ := slotState_valid.1 valid
  exact h plan hp

theorem selectPinned_outside {n : Nat} (hn : n = 0 ∨ 24 < n) (s : State) : selectPinned n s = (s, .badValue 0 2) := by
  unfold selectPinned
  rw [slotOf_outside hn]

theorem selectResponsive_inRange {n : Nat} (lo : 1 ≤ n) (hi : n ≤ 15) (s : State) :
    selectResponsive n s = requestMode (.responsive n) s := if_pos (by simp [inRange, lo, hi])

theorem selectResponsive_outside {n : Nat} (hn : n = 0 ∨ 15 < n) (s : State) : selectResponsive n s = (s, .badValue 0 2) :=
  if_neg (by simp [inRange]; omega)

theorem answered_requestMode {k : RequestKind} {n : Nat} {m : RequestedMode} {handle : Nat → State → State × Answer}
    {s : State} (ready : Ready s) (h : handle n (frameTaken s) = requestMode m (frameTaken s)) :
    onRequest k (.fields n) handle s =
      ({ s with ps := { s.ps with requested := some m } } : State).answered k (.done .none) :=
  onRequest_done ready h

/-! ### The selection table (R121) -/

theorem selectFault_eq (x : SelectFields) :
    selectFault x =
      if 9999 < x.minTotal then some 4 else if x.maxTotal < x.minTotal ∨ 9999 < x.maxTotal then some 5
      else if 100 < x.minShare then some 6 else if x.maxShare < x.minShare ∨ 100 < x.maxShare then some 7 else none := by
  have within (a b : Nat) : decide (a ≤ b) = true ↔ ¬ b < a := by simp
  have both (a b c : Nat) : (decide (a ≤ b) && decide (c ≤ a)) = true ↔ ¬ (a < c ∨ b < a) := by
    simp only [Bool.and_eq_true, decide_eq_true_eq]
    omega
  unfold selectFault
  simp only [firstBad, within, both, ite_not]

theorem writeSelect_taken (i : SelectIx) (slot : SlotIx) {x : SelectFields} (hi : x.index = i.val + 1)
    (hs : x.slot = slot.val + 1) (h : selectFault x = none) (s : State) :
    writeSelect x s = ({ s with ps := { s.ps with table := s.ps.table.set i.val (some
      { slot := slot, minTotal := x.minTotal, maxTotal := x.maxTotal, minShare := x.minShare,
        maxShare := x.maxShare }) } }, .done .none) := by
  simp only [writeSelect, hi, selectOf_number, hs, slotOf_number, h]

theorem writeSelect_fault (i : SelectIx) (slot : SlotIx) {x : SelectFields} {field : Nat} (hi : x.index = i.val + 1)
    (hs : x.slot = slot.val + 1) (h : selectFault x = some field) (s : State) :
    writeSelect x s = (s, .badValue 0 field) := by
  simp only [writeSelect, hi, selectOf_number, hs, slotOf_number, h]

theorem writeSelect_badIndex {x : SelectFields} (h : x.index = 0 ∨ 8 < x.index) (s : State) :
    writeSelect x s = (s, .badValue 0 1) := by
  unfold writeSelect
  rw [selectOf_outside h]

theorem writeSelect_badSlot {x : SelectFields} (lo : 1 ≤ x.index) (hi : x.index ≤ 8) (h : x.slot = 0 ∨ 24 < x.slot)
    (s : State) : writeSelect x s = (s, .badValue 0 3) := by
  obtain ⟨i, hx⟩ := selectOf_inside lo hi
  unfold writeSelect
  rw [hx, slotOf_outside h]

theorem clearSelect_taken (i : SelectIx) (s : State) :
    clearSelect { index := i.val + 1, operation := 1 } s =
      ({ s with ps := { s.ps with table := s.ps.table.set i.val none } }, .done .none) := by
  unfold clearSelect
  rw [selectOf_number]
  rfl

theorem clearSelect_badOperation (i : SelectIx) {operation : Nat} (h : 2 ≤ operation) (s : State) :
    clearSelect { index := i.val + 1, operation := operation } s = (s, .badValue 0 2) := by
  unfold clearSelect
  rw [selectOf_number]
  exact if_pos (by dsimp only; omega)

theorem clearSelect_badIndex {n : Nat} (operation : Nat) (h : n = 0 ∨ 8 < n) (s : State) :
    clearSelect { index := n, operation := operation } s = (s, .badValue 0 1) := by
  unfold clearSelect
  rw [selectOf_outside h]

/-- Settles O28: the mode by its three requests, the table by the checks in their order. -/
theorem selectionRequested : Obligations.SelectionRequested := by
  unfold Obligations.SelectionRequested
  refine ⟨fun s ready => ?_, fun s ready => ⟨fun i slot minTotal maxTotal minShare maxShare => ⟨fun ok => ?_, fun bad => ?_⟩,
    fun f h => congrArg Host.Outcome.next (onRequest_refused ready (writeSelect_badIndex h (frameTaken s))),
    fun f lo hi h => congrArg Host.Outcome.next (onRequest_refused ready (writeSelect_badSlot lo hi h (frameTaken s))),
    fun i => congrArg Host.Outcome.next
      (onRequest_done (t := { s with ps := { s.ps with table := s.ps.table.set i.val none } }) ready
        (clearSelect_taken i (frameTaken s))),
    fun i operation h => congrArg Host.Outcome.next
      (onRequest_refused ready (clearSelect_badOperation i h (frameTaken s))),
    fun n operation h => congrArg Host.Outcome.next
      (onRequest_refused ready (clearSelect_badIndex operation h (frameTaken s)))⟩⟩
  · exact ⟨congrArg Host.Outcome.next (answered_requestMode ready rfl),
      fun n hn => congrArg Host.Outcome.next (onRequest_refused ready (selectFree_outside hn (frameTaken s))),
      fun slot plan h => congrArg Host.Outcome.next (answered_requestMode ready (selectPinned_valid (s := frameTaken s) h)),
      fun slot h => congrArg Host.Outcome.next (onRequest_refused ready (selectPinned_notValid (s := frameTaken s) h)),
      fun n hn => congrArg Host.Outcome.next (onRequest_refused ready (selectPinned_outside hn (frameTaken s))),
      fun n lo hi => congrArg Host.Outcome.next
        (answered_requestMode ready (selectResponsive_inRange lo hi (frameTaken s))),
      fun n hn => congrArg Host.Outcome.next (onRequest_refused ready (selectResponsive_outside hn (frameTaken s)))⟩
  · obtain ⟨h₁, h₂, h₃, h₄⟩ := ok
    have sound : selectFault
        { index := i.val + 1, slot := slot.val + 1, minTotal := minTotal, maxTotal := maxTotal, minShare := minShare,
          maxShare := maxShare } = none := by
      rw [selectFault_eq, if_neg (by dsimp only; omega), if_neg (by dsimp only; omega), if_neg (by dsimp only; omega),
        if_neg (by dsimp only; omega)]
    exact congrArg Host.Outcome.next (onRequest_done
      (t := { s with ps := { s.ps with table := s.ps.table.set i.val (some
        { slot := slot, minTotal := minTotal, maxTotal := maxTotal, minShare := minShare, maxShare := maxShare }) } })
      ready (writeSelect_taken i slot rfl rfl sound (frameTaken s)))
  · refine congrArg Host.Outcome.next (onRequest_refused ready (writeSelect_fault i slot rfl rfl ?_ _))
    rw [selectFault_eq]
    dsimp only
    split_ifs <;> first | rfl | omega

end Sys2Proof.Proofs.PlanLibrary
end

section
/-! PROOF. What a change of coordination records leaves and what a pass over the positions does: the layer that the proofs
about the Offset Coordinator share. -/

open Sys2Proof Sys2Proof.Machine

namespace Sys2Proof.Proofs.Coordination

/-! ### Passes over the positions -/

theorem foldl_each {β : Type} {f : Pos → State → State} {look : State → Pos → β} {K : List Pos → State → Prop}
    {P : Pos → β → Prop} {s : State}
    (each : ∀ p rest u, K (p :: rest) u → look u p = look s p →
      K rest (f p u) ∧ P p (look (f p u) p) ∧ ∀ q, q ≠ p → look (f p u) q = look u q)
    (l : List Pos) (nodup : l.Nodup) (u : State) (start : K l u) (fresh : ∀ p ∈ l, look u p = look s p) :
    K [] (l.foldl (fun u p => f p u) u) ∧ (∀ p ∈ l, P p (look (l.foldl (fun u p => f p u) u) p)) ∧
      ∀ p, p ∉ l → look (l.foldl (fun u p => f p u) u) p = look u p := by
  induction l generalizing u with
  | nil => exact ⟨start, nofun, fun _ _ => rfl⟩
  | cons p l ih =>
    obtain ⟨outside, nodup⟩ := List.nodup_cons.1 nodup
    obtain ⟨kept, own, others⟩ := each p l u start (fresh p List.mem_cons_self)
    have still : ∀ q ∈ l, look (f p u) q = look s q := fun q hq =>
      (others q (fun e => outside (e ▸ hq))).trans (fresh q (List.mem_cons_of_mem _ hq))
    obtain ⟨done, all, rest⟩ := ih nodup (f p u) kept still
    refine ⟨done, fun q hq => ?_, fun q hq => ?_⟩
    · rcases List.mem_cons.1 hq with rfl | hq
      · rw [List.foldl_cons, rest q outside]
        exact own
      · exact all q hq
    · rw [List.mem_cons, not_or] at hq
      exact (rest q hq.2).trans (others q hq.1)

/-- A pass over the positions that handles each by itself: `look` is what is asked of a position, `K` what the pass keeps
while the positions of its list are still to come. -/
theorem forPositions_each {β : Type} {f : Pos → State → State} {look : State → Pos → β} {K : List Pos → State → Prop}
    {P : Pos → β → Prop} {s : State} (start : K positions s)
    (each : ∀ p rest u, K (p :: rest) u → look u p = look s p →
      K rest (f p u) ∧ P p (look (f p u) p) ∧ ∀ q, q ≠ p → look (f p u) q = look u q) :
    K [] (forPositions f s) ∧ ∀ p, P p (look (forPositions f s) p) := by
  obtain ⟨done, all, -⟩ := foldl_each each positions (by decide) s start (fun _ _ => rfl)
  exact ⟨done, fun p => all p (mem_positions p)⟩

/-! ### Changes of coordination records -/

/-- From `s` to `t` nothing but coordination records and the notices differs. -/
structure CoordOnly (s t : State) : Prop where
  pending : t.pending = s.pending
  ctb : t.ctb = s.ctb
  limits : t.oc.limits = s.oc.limits
  pt : t.pt = s.pt
  qw : t.qw = s.qw
  pm : t.pm = s.pm
  pl : t.pl = s.pl
  ps : t.ps = s.ps
  clc : t.clc = s.clc
  ih : t.ih = s.ih
  er : t.er = s.er
  config : t.config = s.config
  sli : { t.sli with notices := [], overrun := 0 } = { s.sli with notices := [], overrun := 0 }

theorem CoordOnly.rfl' (s : State) : CoordOnly s s := by constructor <;> rfl

theorem CoordOnly.trans {a b c : State} (h : CoordOnly a b) (g : CoordOnly b c) : CoordOnly a c :=
  ⟨g.pending.trans h.pending, g.ctb.trans h.ctb, g.limits.trans h.limits, g.pt.trans h.pt, g.qw.trans h.qw,
    g.pm.trans h.pm, g.pl.trans h.pl, g.ps.trans h.ps, g.clc.trans h.clc, g.ih.trans h.ih, g.er.trans h.er,
    g.config.trans h.config, g.sli.trans h.sli⟩

theorem CoordOnly.withCoord (s : State) (p : Pos) (f : Coord → Coord) : CoordOnly s (s.withCoord p f) := by
  constructor <;> rfl

theorem CoordOnly.raiseNotice (body : NoticeBody) (s : State) : CoordOnly s (raiseNotice body s) := by
  constructor <;> try rfl
  unfold Machine.raiseNotice Supervisory.offered
  dsimp only
  split
  · rfl
  · split <;> rfl

theorem CoordOnly.notePosition (p : Pos) (s : State) : CoordOnly s (notePosition p s) := .raiseNotice _ s

theorem CoordOnly.mode {s t : State} (h : CoordOnly s t) : t.sli.mode = s.sli.mode := (congrArg Supervisory.mode h.sli :)

theorem CoordOnly.imageEntry {s t : State} (h : CoordOnly s t) (p : Pos) : t.imageEntry p = s.imageEntry p := by
  unfold State.imageEntry
  rw [h.ps]

theorem CoordOnly.leaves {s t : State} (h : CoordOnly s t) : LeavesStores s t := by
  have sli := congrArg (fun x : Supervisory => { x with draining := false, sending := none }) h.sli
  exact ⟨h.pending, h.ctb, h.pl, h.config, by rw [h.er], by rw [h.ps], by rw [h.ps], h.limits, by rw [h.pm], by rw [h.qw],
    by rw [h.qw], by rw [h.pt], by rw [h.pt], by rw [h.pt], by rw [h.clc], sli⟩

@[simp] theorem raiseNotice_coord (body : NoticeBody) (s : State) (p : Pos) : (raiseNotice body s).coord p = s.coord p := rfl

@[simp] theorem notePosition_coord (p q : Pos) (s : State) : (notePosition p s).coord q = s.coord q := rfl

/-- A handling of one position: of the coordination records only its own differs. -/
structure CoordAt (p : Pos) (s t : State) : Prop where
  only : CoordOnly s t
  others : ∀ q, q ≠ p → t.coord q = s.coord q

theorem CoordAt.rfl' (p : Pos) (s : State) : CoordAt p s s := ⟨.rfl' s, fun _ _ => rfl⟩

theorem CoordAt.trans {p : Pos} {a b c : State} (h : CoordAt p a b) (g : CoordAt p b c) : CoordAt p a c :=
  ⟨h.only.trans g.only, fun q hq => (g.others q hq).trans (h.others q hq)⟩

theorem CoordAt.withCoord (p : Pos) (s : State) (f : Coord → Coord) : CoordAt p s (s.withCoord p f) :=
  ⟨.withCoord s p f, fun q hq => by rw [State.withCoord_coord, if_neg hq.symm]⟩

theorem CoordAt.noted {p : Pos} {s t : State} (h : CoordAt p s t) : CoordAt p s (notePosition p t) :=
  h.trans ⟨.notePosition p t, fun _ _ => rfl⟩

theorem CoordAt.setTarget (p : Pos) (s : State) : CoordAt p s (setTarget p s) := .withCoord p s _

theorem setTarget_coord (p : Pos) (s : State) :
    (setTarget p s).coord p =
      { s.coord p with
        target := (s.imageEntry p).map (fun e => targetOf e (s.coord p).trim s.ctb.cycleLength) } := by
  unfold setTarget
  rw [State.withCoord_coord, if_pos rfl]

/-- The band test leaves a position as it is, or sends it back to SEEKING in the direction of R30. -/
theorem testBand_cases (p : Pos) (s : State) :
    testBand p s = s ∨ ∃ t m, (s.coord p).state = .inStep ∧ (s.coord p).target = some t ∧ (s.coord p).measured = some m ∧
      (offsetDiff t.offset m.offset s.ctb.cycleLength).natAbs > s.oc.limits.tolerance + 10 ∧
      testBand p s =
        notePosition p (s.withCoord p (fun c => { c with state := .seeking (freshDirection p t.offset m.offset s) })) := by
  unfold testBand
  dsimp only
  split
  · next t m hs ht hm =>
    split
    · next out => exact .inr ⟨t, m, hs, ht, hm, out, rfl⟩
    · exact .inl rfl
  · exact .inl rfl

theorem CoordAt.testBand (p : Pos) (s : State) : CoordAt p s (testBand p s) := by
  rcases testBand_cases p s with h | ⟨t, m, -, -, -, -, h⟩
  · rw [h]
    exact .rfl' p s
  · rw [h]
    exact (CoordAt.withCoord p s _).noted

theorem testBand_trim (p : Pos) (s : State) : ((testBand p s).coord p).trim = (s.coord p).trim := by
  rcases testBand_cases p s with h | ⟨t, m, -, -, -, -, h⟩
  · rw [h]
  · rw [h, notePosition_coord, State.withCoord_coord, if_pos rfl]

theorem CoordAt.retarget (p : Pos) (s : State) : CoordAt p s (retarget p s) := by
  unfold Machine.retarget
  dsimp only
  split
  · exact .setTarget p s
  · exact (CoordAt.setTarget p s).trans (.testBand p _)

theorem retarget_trim (p : Pos) (s : State) : ((retarget p s).coord p).trim = (s.coord p).trim := by
  unfold retarget
  dsimp only
  split
  · rw [setTarget_coord]
  · rw [testBand_trim, setTarget_coord]

theorem CoordAt.withTrim (p : Pos) (trim : Int) (s : State) : CoordAt p s (withTrim p trim s) := by
  unfold Machine.withTrim
  split
  · exact .rfl' p s
  · exact (CoordAt.withCoord p s _).trans (.retarget p _)

theorem withTrim_trim (p : Pos) (trim : Int) (s : State) : ((withTrim p trim s).coord p).trim = trim := by
  unfold withTrim
  split
  · next h => exact h
  · rw [retarget_trim, State.withCoord_coord, if_pos rfl]

theorem clampInt_eq {lo hi : Int} (h : lo ≤ hi) (x : Int) : clampInt lo hi x = max lo (min hi x) := by
  unfold clampInt
  split
  · omega
  · split <;> omega

theorem clampNat_eq {lo hi : Nat} (h : lo ≤ hi) (x : Nat) : clampNat lo hi x = max lo (min hi x) := by
  unfold clampNat
  split
  · omega
  · split <;> omega

/-- Clearing the reason REFUSING, and a refusal count of 4 with it (R37). -/
theorem CoordAt.clearRefusing (p : Pos) (s : State) : CoordAt p s (clearRefusing p s) := by
  unfold Machine.clearRefusing
  split
  · exact (CoordAt.withCoord p s _).noted
  · split
    · exact .withCoord p s _
    · exact .rfl' p s

theorem clearRefusing_refusing {p : Pos} {s : State} (h : (s.coord p).state = .inLocal .refusing) :
    (clearRefusing p s).coord p = { s.coord p with state := .inLocal .awaitingMark, refusals := 0 } := by
  unfold clearRefusing
  rw [if_pos h, notePosition_coord, State.withCoord_coord, if_pos rfl]

theorem clearRefusing_other {p : Pos} {s : State} (h : (s.coord p).state ≠ .inLocal .refusing) :
    (clearRefusing p s).coord p =
      { s.coord p with refusals := if (s.coord p).refusals = 4 then 0 else (s.coord p).refusals } := by
  unfold clearRefusing
  rw [if_neg h]
  split
  · rw [State.withCoord_coord, if_pos rfl]
  · rfl

end Sys2Proof.Proofs.Coordination
end

section
/-! PROOF. Settings of the host: all of a request is taken or none of it (O23). -/

open Sys2Proof Sys2Proof.Machine

namespace Sys2Proof.Proofs.Settings

open Coordination

/-! ### Checks of fields -/

theorem inRange_iff (lo hi n : Nat) : inRange lo hi n = true ↔ ¬ (n < lo ∨ hi < n) := by
  simp [inRange]

theorem atMost_iff (a b : Nat) : decide (a ≤ b) = true ↔ ¬ b < a := by
  simp

/-! ### SET-SLACK, SET-QUEUE-LIMITS, SET-PRIORITY-POLICY (R46, R73, R99) -/

theorem slackFault_eq (x : SlackFields) :
    slackFault x =
      if 200 < x.early then some 1 else if 200 < x.late then some 2
      else if x.minimumSize < 1 ∨ 50 < x.minimumSize then some 3 else none := by
  unfold slackFault
  simp only [firstBad, inRange_iff, atMost_iff, ite_not]

theorem setSlack_taken {x : SlackFields} (h : slackFault x = none) (s : State) :
    setSlack x s = ({ s with pt := { s.pt with
      earlySlack := x.early, lateSlack := x.late, minimumSize := x.minimumSize } }, .done .none) := by
  unfold setSlack
  rw [h]

theorem setSlack_fault {x : SlackFields} {field : Nat} (h : slackFault x = some field) (s : State) :
    setSlack x s = (s, .badValue 0 field) := by
  unfold setSlack
  rw [h]

theorem queueLimitFault_eq (x : QueueLimitFields) :
    queueLimitFault x =
      if 1 < x.approachClass then some 1 else if 4 < x.exponent then some 2 else if 100 < x.buildingOn then some 3
      else if x.blockedOn < x.buildingOn ∨ 100 < x.blockedOn then some 4
      else if x.buildingOn < x.hysteresis then some 5 else none := by
  unfold queueLimitFault
  simp only [firstBad, inRange_iff, atMost_iff, ite_not]

theorem setQueueLimits_taken {x : QueueLimitFields} (h : queueLimitFault x = none) (s : State) :
    let limits : QueueLimits :=
      { exponent := x.exponent, buildingOn := x.buildingOn, blockedOn := x.blockedOn, hysteresis := x.hysteresis }
    setQueueLimits x s =
      (if x.approachClass = 0 then { s with qw := { s.qw with arterialLimits := limits } }
       else { s with qw := { s.qw with sideLimits := limits } }, .done .none) := by
  unfold setQueueLimits
  rw [h]

theorem setQueueLimits_fault {x : QueueLimitFields} {field : Nat} (h : queueLimitFault x = some field) (s : State) :
    setQueueLimits x s = (s, .badValue 0 field) := by
  unfold setQueueLimits
  rw [h]

theorem policyFault_eq (x : PolicyFields) :
    policyFault x =
      if x.routeTimeout < 300 ∨ 3000 < x.routeTimeout then some 1 else if 200 < x.extensionMax then some 2
      else if x.recovery < 1 ∨ 15 < x.recovery then some 3 else none := by
  unfold policyFault
  simp only [firstBad, inRange_iff, atMost_iff, ite_not]

theorem setPriorityPolicy_taken {x : PolicyFields} (h : policyFault x = none) (s : State) :
    setPriorityPolicy x s = ({ s with pm := { s.pm with policy :=
      { routeTimeout := x.routeTimeout, extensionMax := x.extensionMax, recovery := x.recovery } } }, .done .none) := by
  unfold setPriorityPolicy
  rw [h]

theorem setPriorityPolicy_fault {x : PolicyFields} {field : Nat} (h : policyFault x = some field) (s : State) :
    setPriorityPolicy x s = (s, .badValue 0 field) := by
  unfold setPriorityPolicy
  rw [h]

/-! ### SET-TRANSITION-LIMITS (R34) -/

theorem limitFault_eq (x : LimitFields) :
    limitFault x =
      if x.lengthen < 1 ∨ 30 < x.lengthen then some 1 else if x.shorten < 1 ∨ 30 < x.shorten then some 2
      else if 100 < x.tolerance then some 3 else if 200 < x.trimLimit then some 4 else if 100 < x.sideLow then some 5
      else if x.sideRange < 1 ∨ 100 < x.sideRange then some 6 else none := by
  unfold limitFault
  simp only [firstBad, inRange_iff, atMost_iff, ite_not]

theorem setTransitionLimits_fault {x : LimitFields} {field : Nat} (h : limitFault x = some field) (s : State) :
    setTransitionLimits x s = (s, .badValue 0 field) := by
  unfold setTransitionLimits
  rw [h]

/-- Every trim is clamped into the range of the trim limit, and only coordination records and notices change. -/
theorem forPositions_clampTrim (s : State) :
    CoordOnly s (forPositions clampTrim s) ∧ ∀ p, ((forPositions clampTrim s).coord p).trim =
      max (-(s.oc.limits.trimLimit : Int)) (min (s.oc.limits.trimLimit : Int) (s.coord p).trim) := by
  refine forPositions_each (look := fun u p => (u.coord p).trim) (K := fun _ u => CoordOnly s u)
    (P := fun p trim => trim = max (-(s.oc.limits.trimLimit : Int)) (min (s.oc.limits.trimLimit : Int) (s.coord p).trim))
    (.rfl' s) (fun p rest u hu fresh => ?_)
  have changed : CoordAt p u (clampTrim p u) := .withTrim p _ u
  refine ⟨hu.trans changed.only, ?_, fun q hq => by rw [changed.others q hq]⟩
  unfold clampTrim
  rw [withTrim_trim, clampInt_eq (by omega), hu.limits, fresh]

theorem setTransitionLimits_taken {x : LimitFields} (h : limitFault x = none) (s : State) :
    ∃ t, setTransitionLimits x s = (t, .done .none) ∧
      CoordOnly { s with oc := { s.oc with limits := limitsOf x } } t ∧
      ∀ p, (t.coord p).trim = max (-(x.trimLimit : Int)) (min (x.trimLimit : Int) (s.coord p).trim) := by
  refine ⟨forPositions clampTrim { s with oc := { s.oc with limits := limitsOf x } }, ?_, forPositions_clampTrim _⟩
  unfold setTransitionLimits
  rw [h]

theorem exec_setTransitionLimits {x : LimitFields} {s : State} (ready : Ready s) (h : limitFault x = none) :
    ∃ t, exec (.setTransitionLimits (.fields x)) s = .next t ∧
      t.oc.limits = { lengthen := x.lengthen, shorten := x.shorten, tolerance := x.tolerance, trimLimit := x.trimLimit,
                      sideLow := x.sideLow, sideRange := x.sideRange } ∧
      (∀ p, (t.coord p).trim = max (-(x.trimLimit : Int)) (min (x.trimLimit : Int) (s.coord p).trim)) ∧
      t.sli.replySlot = some (.request .setTransitionLimits (.done .none)) ∧ t.ctb = s.ctb ∧ t.pt = s.pt ∧ t.qw = s.qw ∧
      t.pm = s.pm ∧ t.pl = s.pl ∧ t.ps = s.ps ∧ t.clc = s.clc ∧ t.ih = s.ih ∧ t.er = s.er ∧ t.config = s.config := by
  obtain ⟨t, taken, only, trims⟩ := setTransitionLimits_taken h (frameTaken s)
  exact ⟨_, congrArg Host.Outcome.next (onRequest_result (k := .setTransitionLimits) ready taken), only.limits, trims, rfl,
    only.ctb, only.pt, only.qw, only.pm, only.pl, only.ps, only.clc, only.ih, only.er, only.config⟩

/-! ### SET-NOTICE-MASK (R173) -/

theorem enableSetOf_some {field : Nat} (h : field < 2 ^ 19) (overrun : bit field 18 = true) :
    ∃ kinds, enableSetOf field = some kinds ∧
      ∀ (i : Nat) (kind : NoticeKind), NoticeKind.all[i]? = some kind → (kind ∈ kinds ↔ bit field i = true) := by
  refine ⟨_, if_pos ⟨h, overrun⟩, fun i kind hk => ?_⟩
  have code : ∀ j, (kind, j) ∈ NoticeKind.all.zip (List.range 19) ↔ j = i := by
    have table : ∀ i < 19, ∀ kind, NoticeKind.all[i]? = some kind →
        ∀ j < 19, ((kind, j) ∈ NoticeKind.all.zip (List.range 19) ↔ j = i) := by
      decide
    have bound : i < 19 := (List.getElem?_eq_some_iff.1 hk).1
    intro j
    by_cases hj : j < 19
    · exact table i bound kind hk j hj
    · refine ⟨fun m => absurd (List.mem_range.1 (List.of_mem_zip m).2) hj, fun e => absurd (e ▸ bound) hj⟩
  simp only [List.mem_map, List.mem_filter, Prod.exists, exists_and_right, exists_eq_right]
  constructor
  · rintro ⟨j, member, set⟩
    rw [← (code j).1 member]
    exact set
  · exact fun set => ⟨i, (code i).2 rfl, set⟩

theorem setNoticeMask_taken {field : Nat} {kinds : List NoticeKind} (h : enableSetOf field = some kinds) (s : State) :
    setNoticeMask field s = ({ s with sli := { s.sli with enabled := kinds } }, .done .none) := by
  unfold setNoticeMask
  rw [h]

theorem setNoticeMask_refused {field : Nat} (h : 2 ^ 19 ≤ field ∨ bit field 18 = false) (s : State) :
    setNoticeMask field s = (s, .badValue 0 1) := by
  have none : enableSetOf field = none := if_neg (fun k => by
    rcases h with h | h
    · omega
    · rw [h] at k
      exact absurd k.2 (by decide))
  unfold setNoticeMask
  rw [none]

/-- Settles O23: each request by the first failing check of its rule, and by what it writes when none fails. -/
theorem settingsTakeAllOrNone : Obligations.SettingsTakeAllOrNone := by
  unfold Obligations.SettingsTakeAllOrNone
  refine ⟨fun x s ready => ⟨fun ok => ?_, fun bad => ?_⟩,
    fun x s ready => ⟨fun ok hc => ?_, fun ok hc => ?_, fun hc => ?_, fun hc bad => ?_⟩,
    fun x s ready => ⟨fun ok => ?_, fun bad => ?_⟩, fun x s ready => ⟨fun ok => ?_, fun bad => ?_⟩,
    fun field s ready => ⟨fun h overrun => ?_, fun h => ?_⟩⟩
  · have taken := setSlack_taken (x := x) (by rw [slackFault_eq, if_neg (by omega), if_neg (by omega), if_neg (by omega)])
    exact congrArg Host.Outcome.next (onRequest_done
      (t := { s with pt := { s.pt with earlySlack := x.early, lateSlack := x.late, minimumSize := x.minimumSize } })
      ready (taken (frameTaken s)))
  · refine congrArg Host.Outcome.next (onRequest_refused ready (setSlack_fault ?_ _))
    rw [slackFault_eq]
    split_ifs <;> first | rfl | omega
  · have taken := setQueueLimits_taken (x := x) (by
      rw [queueLimitFault_eq, if_neg (by omega), if_neg (by omega), if_neg (by omega), if_neg (by omega), if_neg (by omega)])
      (frameTaken s)
    dsimp only at taken
    rw [if_pos hc] at taken
    exact congrArg Host.Outcome.next (onRequest_done (t := { s with qw := { s.qw with arterialLimits := _ } }) ready taken)
  · have taken := setQueueLimits_taken (x := x) (by
      rw [queueLimitFault_eq, if_neg (by omega), if_neg (by omega), if_neg (by omega), if_neg (by omega), if_neg (by omega)])
      (frameTaken s)
    dsimp only at taken
    rw [if_neg (by omega)] at taken
    exact congrArg Host.Outcome.next (onRequest_done (t := { s with qw := { s.qw with sideLimits := _ } }) ready taken)
  · refine congrArg Host.Outcome.next (onRequest_refused ready (setQueueLimits_fault ?_ _))
    rw [queueLimitFault_eq, if_pos hc]
  · refine congrArg Host.Outcome.next (onRequest_refused ready (setQueueLimits_fault ?_ _))
    rw [queueLimitFault_eq]
    split_ifs <;> first | rfl | omega
  · have taken := setPriorityPolicy_taken (x := x)
      (by rw [policyFault_eq, if_neg (by omega), if_neg (by omega), if_neg (by omega)])
    exact congrArg Host.Outcome.next (onRequest_done (t := { s with pm := { s.pm with policy := _ } }) ready
      (taken (frameTaken s)))
  · refine congrArg Host.Outcome.next (onRequest_refused ready (setPriorityPolicy_fault ?_ _))
    rw [policyFault_eq]
    split_ifs <;> first | rfl | omega
  · refine exec_setTransitionLimits ready ?_
    rw [limitFault_eq, if_neg (by omega), if_neg (by omega), if_neg (by omega), if_neg (by omega), if_neg (by omega),
      if_neg (by omega)]
  · refine congrArg Host.Outcome.next (onRequest_refused ready (setTransitionLimits_fault ?_ _))
    rw [limitFault_eq]
    split_ifs <;> first | rfl | omega
  · obtain ⟨kinds, hk, members⟩ := enableSetOf_some h overrun
    exact ⟨kinds, congrArg Host.Outcome.next (onRequest_done (t := { s with sli := { s.sli with enabled := kinds } }) ready
      (setNoticeMask_taken hk (frameTaken s))), members⟩
  · exact congrArg Host.Outcome.next (onRequest_refused ready (setNoticeMask_refused h (frameTaken s)))

end Sys2Proof.Proofs.Settings
end

section
/-! PROOF. The rule table (O48). -/

open Sys2Proof Sys2Proof.Machine

namespace Sys2Proof.Proofs.RuleTable

open Settings

/-- A request met in the part mode it is taken in. -/
theorem inMode_taken {m : PartMode} {handle : State → State × Answer} {s : State} (h : s.sli.mode = m) :
    inMode m handle s = handle s := if_pos h

/-! ### SET-RULE and CLEAR-RULE (R165, R166) -/

theorem ruleOf_isSome (n : Nat) : (ruleOf n).isSome = true ↔ ¬ (n = 0 ∨ 48 < n) := by
  unfold ruleOf
  split <;> simp <;> omega

theorem matchKindOf_isSome (n : Nat) : (matchKindOf n).isSome = true ↔ ¬ (4 < n ∧ n ≠ 9) := by
  unfold matchKindOf
  split <;> simp_all
  omega

theorem matchDirectionOf_isSome (n : Nat) : (matchDirectionOf n).isSome = true ↔ ¬ 3 < n := by
  unfold matchDirectionOf eventDirectionOf
  split
  · simp
  · split <;> simp_all
    omega

theorem destinationsOf_isSome (n : Nat) : (destinationsOf n).isSome = true ↔ ¬ 15 < n := by
  unfold destinationsOf
  split <;> simp <;> omega

theorem ruleFault_eq (x : RuleFields) :
    ruleFault x =
      if x.index = 0 ∨ 48 < x.index then some 1 else if 4 < x.matchKind ∧ x.matchKind ≠ 9 then some 2
      else if 3 < x.matchDirection then some 3 else if x.detectorLow < 1 ∨ 32 < x.detectorLow then some 4
      else if (x.detectorHigh < 1 ∨ 32 < x.detectorHigh) ∨ x.detectorHigh < x.detectorLow then some 5
      else if x.positionSet < 1 ∨ 4095 < x.positionSet then some 6 else if 15 < x.destinations then some 7
      else if 255 < x.tag then some 8 else none := by
  have both (p q : Prop) : ¬ p ∧ ¬ q ↔ ¬ (p ∨ q) := not_or.symm
  unfold ruleFault
  simp only [firstBad, Bool.and_eq_true, ruleOf_isSome, matchKindOf_isSome, matchDirectionOf_isSome,
    destinationsOf_isSome, inRange_iff, atMost_iff, both, ite_not]

theorem setRule_fault {x : RuleFields} {field : Nat} {s : State} (setup : s.sli.mode = .setup)
    (h : ruleFault x = some field) : setRule x s = (s, .badValue 0 field) := by
  unfold setRule
  rw [inMode_taken setup, h]

theorem setRule_taken {x : RuleFields} {i : RuleIx} {kind : MatchKind} {direction : Option EventDirection}
    {destinations : Destinations} {s : State} (setup : s.sli.mode = .setup) (h : ruleFault x = none)
    (hi : ruleOf x.index = some i) (hk : matchKindOf x.matchKind = some kind)
    (hd : matchDirectionOf x.matchDirection = some direction) (hx : destinationsOf x.destinations = some destinations) :
    setRule x s = (putRule i (some
      { kind := kind, direction := direction, detectorLow := x.detectorLow, detectorHigh := x.detectorHigh,
        positions := x.positionSet, destinations := destinations, tag := x.tag }) s, .done .none) := by
  unfold setRule
  rw [inMode_taken setup]
  simp only [h, hi, hk, hd, hx]

theorem clearRule_outside {n : Nat} {s : State} (setup : s.sli.mode = .setup) (h : n = 0 ∨ 48 < n) :
    clearRule n s = (s, .badValue 0 1) := by
  unfold clearRule
  rw [inMode_taken setup, ruleOf_outside h]

theorem clearRule_free {i : RuleIx} {s : State} (setup : s.sli.mode = .setup) (h : s.er.rules.get i = none) :
    clearRule (i.val + 1) s = (s, .noSuch) := by
  unfold clearRule
  rw [inMode_taken setup, ruleOf_number]
  exact if_pos (by rw [h]; rfl)

theorem clearRule_held {i : RuleIx} {s : State} (setup : s.sli.mode = .setup) (h : s.er.rules.get i ≠ none) :
    clearRule (i.val + 1) s = (putRule i none s, .done .none) := by
  unfold clearRule
  rw [inMode_taken setup, ruleOf_number]
  exact if_neg (by rwa [Option.isNone_iff_eq_none])

/-! ### GET-RULE (R167) -/

theorem read_number (er : Router) (i : RuleIx) : er.read (i.val + 1) = .rule (er.rules.get i) (er.hits.get i) := by
  unfold Router.read
  rw [ruleOf_number]

theorem read_zero (er : Router) :
    er.read 0 = .ruleTable ((List.finRange 48).filter (fun i => (er.rules.get i).isSome)) er.fixedCount er.noMatch := by
  have places : rulePlaces = List.finRange 48 := by decide
  unfold Router.read
  rw [ruleOf_outside (.inl rfl), places]

theorem zeroed_number (er : Router) (i : RuleIx) : er.zeroed (i.val + 1) = { er with hits := er.hits.set i.val 0 } := by
  unfold Router.zeroed
  rw [ruleOf_number]

theorem zeroed_zero (er : Router) : er.zeroed 0 = { er with fixedCount := 0, noMatch := 0 } := by
  unfold Router.zeroed
  rw [ruleOf_outside (.inl rfl)]

theorem readRule_taken {n : Nat} (h : n ≤ 48) (s : State) :
    readRule { index := n, action := 0 } s = (s, .done (s.er.read n)) := by
  unfold readRule
  rw [if_neg (by dsimp only; omega), if_neg (not_not_intro rfl)]

theorem readRule_badIndex {x : RuleQuery} (h : 48 < x.index) (s : State) : readRule x s = (s, .badValue 0 1) :=
  if_pos h

theorem readRule_badAction {x : RuleQuery} (h : x.index ≤ 48) (h' : 2 ≤ x.action) (s : State) :
    readRule x s = (s, .badValue 0 2) := by
  unfold readRule
  rw [if_neg (by omega), if_pos (by omega)]

theorem readAndZeroRule_taken {n : Nat} (h : n ≤ 48) (s : State) :
    readAndZeroRule n s = ({ s with er := s.er.zeroed n }, .done (s.er.read n)) := if_neg (by omega)

theorem readAndZeroRule_badIndex {n : Nat} (h : 48 < n) (s : State) : readAndZeroRule n s = (s, .badValue 0 1) :=
  if_pos h

theorem exec_getRuleRead {n : Nat} {s : State} (ready : Ready s) (h : n ≤ 48) :
    exec (.getRuleRead (.fields { index := n, action := 0 })) s =
      .next (s.answered .getRule (.done (s.er.read n))) :=
  congrArg Host.Outcome.next (onRequest_refused ready (readRule_taken h (frameTaken s)))

theorem exec_getRuleReadAndZero {n : Nat} {s : State} (ready : Ready s) (h : n ≤ 48) :
    exec (.getRuleReadAndZero (.fields n)) s =
      .next (({ s with er := s.er.zeroed n } : State).answered .getRule (.done (s.er.read n))) :=
  congrArg Host.Outcome.next
    (onRequest_done (t := { s with er := s.er.zeroed n }) ready (readAndZeroRule_taken h (frameTaken s)))

/-- Settles O48: SET-RULE and CLEAR-RULE by the first failing check, GET-RULE by index and action. -/
theorem ruleTableWrittenAndRead : Obligations.RuleTableWrittenAndRead := by
  unfold Obligations.RuleTableWrittenAndRead
  intro s ready
  refine ⟨fun i kind matchKind way matchDirection low high set destinations tag setup hk hd detectors places hx ht => ?_,
    fun x field setup hf bad => congrArg Host.Outcome.next (onRequest_refused ready (setRule_fault setup ?_)),
    fun n setup hn => congrArg Host.Outcome.next (onRequest_refused ready (clearRule_outside setup hn)),
    fun i setup => ⟨fun h => congrArg Host.Outcome.next (onRequest_refused ready (clearRule_free setup h)),
      fun h => congrArg Host.Outcome.next
        (onRequest_done (t := putRule i none s) ready (clearRule_held (s := frameTaken s) setup h))⟩,
    fun i => ?_, fun reply hr => ?_,
    fun n action hn => ⟨congrArg Host.Outcome.next (onRequest_refused ready (readRule_badIndex hn (frameTaken s))),
      congrArg Host.Outcome.next (onRequest_refused ready (readAndZeroRule_badIndex hn (frameTaken s)))⟩,
    fun n action hn ha =>
      congrArg Host.Outcome.next (onRequest_refused ready (readRule_badAction hn ha (frameTaken s)))⟩
  · obtain ⟨h₁, h₂, h₃⟩ := detectors
    have kinds := (matchKindOf_isSome kind).1 (by rw [hk]; rfl)
    have ways := (matchDirectionOf_isSome way).1 (by rw [hd]; rfl)
    refine congrArg Host.Outcome.next (onRequest_done (t := putRule i (some _) s) ready
      (setRule_taken (s := frameTaken s) setup ?_ (ruleOf_number i) hk hd (if_pos hx)))
    have inside := i.isLt
    rw [ruleFault_eq, if_neg (by dsimp only; omega), if_neg kinds, if_neg ways, if_neg (by dsimp only; omega),
      if_neg (by dsimp only; omega), if_neg (by dsimp only; omega), if_neg (by dsimp only; omega),
      if_neg (by dsimp only; omega)]
  · subst hf
    rw [ruleFault_eq]
    split_ifs at bad ⊢ <;> first | rfl | omega
  · have bound := i.isLt
    rw [exec_getRuleRead ready (by omega), exec_getRuleReadAndZero ready (by omega), read_number, zeroed_number]
    exact ⟨rfl, rfl⟩
  · rw [exec_getRuleRead ready (by omega), exec_getRuleReadAndZero ready (by omega), read_zero, zeroed_zero, hr]
    exact ⟨rfl, rfl⟩

end Sys2Proof.Proofs.RuleTable
end

section
/-! PROOF. The configuration of positions (O36), and REJOIN (O41). -/

open Sys2Proof Sys2Proof.Machine

namespace Sys2Proof.Proofs.Positions

open Settings RuleTable Coordination

/-! ### SET-POSITION (R146) -/

theorem posOf_isSome (n : Nat) : (posOf n).isSome = true ↔ ¬ (n = 0 ∨ 12 < n) := by
  unfold posOf
  split <;> simp <;> omega

theorem recoveryOf_isSome (n : Nat) : (recoveryOf n).isSome = true ↔ ¬ 1 < n := by
  unfold recoveryOf
  split <;> simp_all
  omega

theorem positionFault_eq (x : PositionFields) :
    positionFault x =
      if x.position = 0 ∨ 12 < x.position then some 1 else if x.address < 1 ∨ 30 < x.address then some 2
      else if x.site < 1 ∨ 65535 < x.site then some 3 else if x.permittedModes < 1 ∨ 15 < x.permittedModes then some 4
      else if 1 < x.recovery then some 5 else if 3 < x.routeLength then some 6 else none := by
  unfold positionFault
  simp only [firstBad, posOf_isSome, recoveryOf_isSome, inRange_iff, atMost_iff, ite_not]

theorem otherConfigured_iff (s : State) (p : Pos) (same : PositionConfig → Bool) :
    otherConfigured s p same = true ↔ ∃ q cfg, q ≠ p ∧ s.config.get q = some cfg ∧ same cfg = true := by
  simp only [otherConfigured, List.any_eq_true, Bool.and_eq_true, bne_iff_ne, ne_eq]
  constructor
  · rintro ⟨q, -, hq, h⟩
    cases hc : s.config.get q with
    | none => simp [hc] at h
    | some cfg => exact ⟨q, cfg, hq, hc, by simpa [hc] using h⟩
  · rintro ⟨q, cfg, hq, hc, h⟩
    exact ⟨q, mem_positions q, hq, by simpa [hc] using h⟩

theorem readPosition_fault {x : PositionFields} {field : Nat} (h : positionFault x = some field) (s : State) :
    readPosition x s = .inl field := by
  unfold readPosition
  simp only [h]

theorem readPosition_inRange {x : PositionFields} {p : Pos} {recovery : Recovery} (h : positionFault x = none)
    (hp : posOf x.position = some p) (hr : recoveryOf x.recovery = some recovery) (s : State) :
    readPosition x s =
      if otherConfigured s p (fun cfg => cfg.address == x.address) then .inl 2
      else if otherConfigured s p (fun cfg => cfg.site == x.site) then .inl 3
      else
        .inr (p, { address := x.address, site := x.site, permittedModes := x.permittedModes, recovery := recovery,
                   routeLength := x.routeLength }) := by
  unfold readPosition
  simp only [h, hp, hr]

theorem setPosition_drain {s : State} (setup : s.sli.mode = .setup) (h : s.clc.drainFlag = true) (x : PositionFields) :
    setPosition x s = (s, .busy) := by
  unfold setPosition
  rw [inMode_taken setup, if_pos h]

theorem setPosition_fault {x : PositionFields} {field : Nat} {s : State} (setup : s.sli.mode = .setup)
    (h : s.clc.drainFlag = false) (hx : readPosition x s = .inl field) : setPosition x s = (s, .badValue 0 field) := by
  unfold setPosition
  rw [inMode_taken setup, if_neg (by simp [h]), hx]

theorem setPosition_taken {x : PositionFields} {p : Pos} {cfg : PositionConfig} {s : State} (setup : s.sli.mode = .setup)
    (h : s.clc.drainFlag = false) (hx : readPosition x s = .inr (p, cfg)) :
    setPosition x s = (s.withConfig p (some cfg), .done .none) := by
  unfold setPosition
  rw [inMode_taken setup, if_neg (by simp [h]), hx]

/-! ### CLEAR-POSITION (R147) -/

theorem clearPosition_drain {s : State} (setup : s.sli.mode = .setup) (h : s.clc.drainFlag = true) (n : Nat) :
    clearPosition n s = (s, .busy) := by
  unfold clearPosition
  rw [inMode_taken setup, if_pos h]

theorem clearPosition_outside {n : Nat} {s : State} (setup : s.sli.mode = .setup) (h : s.clc.drainFlag = false)
    (hn : n = 0 ∨ 12 < n) : clearPosition n s = (s, .badValue 0 1) := by
  unfold clearPosition
  rw [inMode_taken setup, if_neg (by simp [h]), posOf_outside hn]

theorem clearPosition_free {p : Pos} {s : State} (setup : s.sli.mode = .setup) (h : s.clc.drainFlag = false)
    (hp : s.config.get p = none) : clearPosition (p.val + 1) s = (s, .noSuch) := by
  unfold clearPosition
  rw [inMode_taken setup, if_neg (by simp [h]), posOf_number]
  exact if_pos (by rw [hp]; rfl)

theorem clearPosition_held {p : Pos} {s : State} (setup : s.sli.mode = .setup) (h : s.clc.drainFlag = false)
    (hp : s.config.get p ≠ none) : clearPosition (p.val + 1) s = (clearIdent p (s.withConfig p none), .done .none) := by
  unfold clearPosition
  rw [inMode_taken setup, if_neg (by simp [h]), posOf_number]
  exact if_neg (by rwa [Option.isNone_iff_eq_none])

theorem clearIdent_ident (p q : Pos) (s : State) :
    (clearIdent p s).ident q = if p = q then Ident.reset else s.ident q := get_set _ _ _ _

theorem clearIdent_health (p q : Pos) (s : State) :
    (clearIdent p s).health q = if p = q then Health.reset else s.health q := get_set _ _ _ _

/-- Settles O36: the drain flag first, then the fields in order, then address and site against the other positions. -/
theorem positionsConfigured : Obligations.PositionsConfigured := by
  unfold Obligations.PositionsConfigured
  intro s ready setup
  refine ⟨fun x drain => congrArg Host.Outcome.next
      (onRequest_refused ready (setPosition_drain (s := frameTaken s) setup drain x)),
    fun n drain => congrArg Host.Outcome.next
      (onRequest_refused ready (clearPosition_drain (s := frameTaken s) setup drain n)),
    fun drain => ⟨fun x p recovery hp address site modes hr route => ?_, fun x field hf bad => ?_,
      fun n hn => congrArg Host.Outcome.next
        (onRequest_refused ready (clearPosition_outside (s := frameTaken s) setup drain hn)),
      fun p => ⟨fun free => congrArg Host.Outcome.next
          (onRequest_refused ready (clearPosition_free (s := frameTaken s) setup drain free)), fun held => ?_⟩⟩⟩
  · have inside := p.isLt
    have sound : positionFault x = none := by
      have known : ¬ 1 < x.recovery := by cases recovery <;> simp_all
      rw [positionFault_eq, if_neg (by omega), if_neg (by omega), if_neg (by omega), if_neg (by omega), if_neg known,
        if_neg (by omega)]
    have read := readPosition_inRange sound (by rw [hp, posOf_number p])
      (by rw [hr]; cases recovery <;> rfl : recoveryOf x.recovery = some recovery) (frameTaken s)
    have byAddress := otherConfigured_iff (frameTaken s) p (fun cfg => cfg.address == x.address)
    have bySite := otherConfigured_iff (frameTaken s) p (fun cfg => cfg.site == x.site)
    simp only [beq_iff_eq] at byAddress bySite
    refine ⟨fun shared => ?_, fun own shared => ?_, fun own own' => ?_⟩
    · rw [if_pos (byAddress.2 shared)] at read
      exact congrArg Host.Outcome.next (onRequest_refused ready (setPosition_fault setup drain read))
    · rw [if_neg (fun h => own (byAddress.1 h)), if_pos (bySite.2 shared)] at read
      exact congrArg Host.Outcome.next (onRequest_refused ready (setPosition_fault setup drain read))
    · rw [if_neg (fun h => own (byAddress.1 h)), if_neg (fun h => own' (bySite.1 h))] at read
      exact congrArg Host.Outcome.next
        (onRequest_done (t := s.withConfig p (some _)) ready (setPosition_taken setup drain read))
  · refine congrArg Host.Outcome.next (onRequest_refused ready
      (setPosition_fault setup drain (readPosition_fault ?_ _)))
    subst hf
    rw [positionFault_eq]
    split_ifs at bad ⊢ <;> first | rfl | omega
  · refine ⟨_, congrArg Host.Outcome.next (onRequest_done (t := clearIdent p (s.withConfig p none)) ready
      (clearPosition_held (s := frameTaken s) setup drain held)), rfl, (clearIdent_ident p p _).trans (if_pos rfl),
      (clearIdent_health p p _).trans (if_pos rfl),
      fun q hq => ⟨(clearIdent_ident p q _).trans (if_neg hq.symm), (clearIdent_health p q _).trans (if_neg hq.symm)⟩,
      rfl, rfl, rfl, rfl, rfl, rfl, rfl, rfl, rfl, rfl⟩

/-! ### REJOIN (R154, R37) -/

theorem rejoin_outside {n : Nat} {s : State} (live : s.sli.mode = .live) (hn : n = 0 ∨ 12 < n) :
    rejoin n s = (s, .badValue 0 1) := by
  unfold rejoin
  rw [inMode_taken live, posOf_outside hn]

theorem rejoin_free {p : Pos} {s : State} (live : s.sli.mode = .live) (hp : s.config.get p = none) :
    rejoin (p.val + 1) s = (s, .noSuch) := by
  unfold rejoin
  rw [inMode_taken live, posOf_number]
  exact if_pos (by rw [hp]; rfl)

theorem rejoin_inService {p : Pos} {s : State} (live : s.sli.mode = .live) (hp : s.config.get p ≠ none)
    (h : (s.health p).state ≠ .cutOff) : rejoin (p.val + 1) s = (clearRefusing p s, .done .none) := by
  unfold rejoin
  rw [inMode_taken live, posOf_number]
  dsimp only
  rw [if_neg (by rwa [Option.isNone_iff_eq_none]), if_pos h]

theorem rejoin_cutOff {p : Pos} {s : State} (live : s.sli.mode = .live) (hp : s.config.get p ≠ none)
    (h : (s.health p).state = .cutOff) :
    rejoin (p.val + 1) s =
      if (s.health p).probeDeadline.isSome ∨ (s.health p).stage ≠ .none then (s, .inProgress)
      else (clearRefusing p (s.withHealth p (fun h => { h with probeDeadline := some (later s.now 50) })), .accepted) := by
  unfold rejoin
  rw [inMode_taken live, posOf_number]
  dsimp only
  rw [if_neg (by rwa [Option.isNone_iff_eq_none]), if_neg (not_not_intro h)]

/-- A REJOIN that is taken clears REFUSING, and changes nothing else than the health table `v` says. -/
theorem exec_rejoin_cleared {p : Pos} {s : State} {v : Vector Health 12} {a : Answer} (ready : Ready s)
    (h : rejoin (p.val + 1) (frameTaken s) =
      (clearRefusing p { frameTaken s with ih := { s.ih with health := v } }, a)) :
    ∃ t, exec (.rejoin (.fields (p.val + 1))) s = .next t ∧ t.ih = { s.ih with health := v } ∧
      t.sli.replySlot = some (.request .rejoin a) ∧
      ((s.coord p).state = .inLocal .refusing →
        t.coord p = { s.coord p with state := .inLocal .awaitingMark, refusals := 0 }) ∧
      ((s.coord p).state ≠ .inLocal .refusing →
        t.coord p = { s.coord p with refusals := if (s.coord p).refusals = 4 then 0 else (s.coord p).refusals }) ∧
      (∀ q, q ≠ p → t.coord q = s.coord q) ∧ t.ctb = s.ctb ∧ t.pt = s.pt ∧ t.qw = s.qw ∧ t.pm = s.pm ∧ t.pl = s.pl ∧
      t.ps = s.ps ∧ t.clc = s.clc ∧ t.er = s.er ∧ t.config = s.config := by
  obtain ⟨only, others⟩ := CoordAt.clearRefusing p { frameTaken s with ih := { s.ih with health := v } }
  have own := clearRefusing_refusing (p := p) (s := { frameTaken s with ih := { s.ih with health := v } })
  have other := clearRefusing_other (p := p) (s := { frameTaken s with ih := { s.ih with health := v } })
  have after := onRequest_result (k := .rejoin) ready h
  generalize clearRefusing p { frameTaken s with ih := { s.ih with health := v } } = u at *
  exact ⟨_, congrArg Host.Outcome.next after, only.ih, rfl, own, other, others, only.ctb, only.pt, only.qw, only.pm, only.pl,
    only.ps, only.clc, only.er, only.config⟩

/-- Settles O41: the cases of REJOIN, and in those it takes the clearing of REFUSING. -/
theorem rejoinTaken : Obligations.RejoinTaken := by
  unfold Obligations.RejoinTaken
  intro p s ready live
  refine ⟨fun n hn => congrArg Host.Outcome.next (onRequest_refused ready (rejoin_outside (s := frameTaken s) live hn)),
    fun free => congrArg Host.Outcome.next (onRequest_refused ready (rejoin_free (s := frameTaken s) live free)),
    fun held cut busy => congrArg Host.Outcome.next (onRequest_refused ready
      ((rejoin_cutOff (s := frameTaken s) live held cut).trans (if_pos (by rwa [Option.isSome_iff_ne_none])))),
    fun held idle => ?_⟩
  by_cases cut : (s.health p).state = .cutOff
  · obtain ⟨absent, unstaged⟩ := idle cut
    have taken := (rejoin_cutOff (s := frameTaken s) live held cut).trans
      (if_neg (by rintro (h | h); exacts [absurd absent (Option.isSome_iff_ne_none.1 h), h unstaged]))
    obtain ⟨t, run, ih, slot, own, other, others, rest⟩ := exec_rejoin_cleared ready taken
    have health : ∀ q, t.health q =
        if p = q then { s.health p with probeDeadline := some (later s.now 50) } else s.health q := fun q => by
      unfold State.health
      rw [ih]
      exact get_update _ _ _ _
    obtain ⟨ctb, pt, qw, pm, pl, ps, clc, er, config⟩ := rest
    exact ⟨t, run, fun _ => ⟨(health p).trans (if_pos rfl), slot⟩, fun h => absurd cut h, own, other,
      fun q hq => ⟨others q hq, (health q).trans (if_neg hq.symm)⟩, ctb, pt, qw, pm, pl, ps, clc, er, config,
      (congrArg Identification.ident ih :)⟩
  · obtain ⟨t, run, ih, slot, own, other, others, rest⟩ :=
      exec_rejoin_cleared (v := s.ih.health) ready (rejoin_inService (s := frameTaken s) live held cut)
    have health : ∀ q, t.health q = s.health q := fun q => by
      unfold State.health
      rw [ih]
    obtain ⟨ctb, pt, qw, pm, pl, ps, clc, er, config⟩ := rest
    exact ⟨t, run, fun h => absurd h cut, fun _ => ⟨health p, slot⟩, own, other,
      fun q hq => ⟨others q hq, health q⟩, ctb, pt, qw, pm, pl, ps, clc, er, config, (congrArg Identification.ident ih :)⟩

end Sys2Proof.Proofs.Positions
end

section
/-! PROOF. Links: what changes of the Platoon Tracker leave, and what SET-LINK, GET-LINK, GET-PLATOONS and the close of a
window do (O20). -/

open Sys2Proof Sys2Proof.Machine

namespace Sys2Proof.Proofs.Links

open Settings

/-! ### Changes of the Platoon Tracker -/

/-- From `s` to `t` nothing but the Platoon Tracker and the notices differs. -/
structure TrackerOnly (s t : State) : Prop where
  pending : t.pending = s.pending
  ctb : t.ctb = s.ctb
  oc : t.oc = s.oc
  qw : t.qw = s.qw
  pm : t.pm = s.pm
  pl : t.pl = s.pl
  ps : t.ps = s.ps
  clc : t.clc = s.clc
  ih : t.ih = s.ih
  er : t.er = s.er
  config : t.config = s.config
  sli : { t.sli with notices := [], overrun := 0 } = { s.sli with notices := [], overrun := 0 }

theorem TrackerOnly.rfl' (s : State) : TrackerOnly s s := by constructor <;> rfl

theorem TrackerOnly.trans {a b c : State} (h : TrackerOnly a b) (g : TrackerOnly b c) : TrackerOnly a c :=
  ⟨g.pending.trans h.pending, g.ctb.trans h.ctb, g.oc.trans h.oc, g.qw.trans h.qw, g.pm.trans h.pm, g.pl.trans h.pl,
    g.ps.trans h.ps, g.clc.trans h.clc, g.ih.trans h.ih, g.er.trans h.er, g.config.trans h.config, g.sli.trans h.sli⟩

theorem TrackerOnly.ofTracker (s : State) (pt : Tracker) : TrackerOnly s { s with pt := pt } := by constructor <;> rfl

theorem TrackerOnly.withLink (s : State) (l : Link) (f : LinkRecord → LinkRecord) : TrackerOnly s (s.withLink l f) := by
  obtain ⟨pt, h, -⟩ := withLink_eq s l f
  rw [h]
  exact .ofTracker s pt

theorem TrackerOnly.freeRecords (n : Nat) (s : State) : TrackerOnly s (freeRecords n s) := .ofTracker s _

theorem raiseNotice_sli (body : NoticeBody) (s : State) :
    { (raiseNotice body s).sli with notices := [], overrun := 0 } = { s.sli with notices := [], overrun := 0 } := by
  unfold raiseNotice Supervisory.offered
  dsimp only
  split
  · rfl
  · split <;> rfl

theorem TrackerOnly.raiseNotice (body : NoticeBody) (s : State) : TrackerOnly s (raiseNotice body s) := by
  constructor <;> first | rfl | exact raiseNotice_sli body s

theorem TrackerOnly.mode {s t : State} (h : TrackerOnly s t) : t.sli.mode = s.sli.mode := (congrArg Supervisory.mode h.sli :)

theorem freeRecords_link (n : Nat) (s : State) (l : Link) : (freeRecords n s).link l = s.link l := by
  apply link_congr <;> (unfold freeRecords Tracker.freed; split <;> rfl)

@[simp] theorem raiseNotice_link (body : NoticeBody) (s : State) (l : Link) : (raiseNotice body s).link l = s.link l := rfl

@[simp] theorem noteTracking_link (l m : Link) (s : State) : (noteTracking l s).link m = s.link m := rfl

theorem TrackerOnly.noteTracking (l : Link) (s : State) : TrackerOnly s (noteTracking l s) := .raiseNotice _ s

/-! ### Link names -/

theorem directionOf_outside {n : Nat} (h : 1 < n) : directionOf n = none := by
  unfold directionOf
  split
  · omega
  · omega
  · rfl

theorem directionOf_inside {n : Nat} (h : n ≤ 1) : ∃ d, directionOf n = some d := by
  obtain rfl | rfl : n = 0 ∨ n = 1 := by omega
  · exact ⟨.inbound, rfl⟩
  · exact ⟨.outbound, rfl⟩

theorem directionOf_code (d : Direction) : directionOf (directionCode d) = some d := by
  cases d <;> rfl

theorem readLink_named {segment direction : Nat} {k : Segment} {d : Direction} (hk : segmentOf segment = some k)
    (hd : directionOf direction = some d) : readLink segment direction = .inr { segment := k, direction := d } := by
  unfold readLink
  rw [hk, hd]

theorem readLink_badSegment {segment : Nat} (h : segment = 0 ∨ 11 < segment) (direction : Nat) :
    readLink segment direction = .inl 1 := by
  unfold readLink
  rw [segmentOf_outside h]

theorem readLink_badDirection {segment direction : Nat} (lo : 1 ≤ segment) (hi : segment ≤ 11) (h : 1 < direction) :
    readLink segment direction = .inl 2 := by
  obtain ⟨k, hk⟩ := segmentOf_inside lo hi
  unfold readLink
  rw [hk, directionOf_outside h]

/-! ### SET-LINK (R44) -/

theorem linkFault_eq (x : LinkFields) :
    linkFault x =
      if x.distance < 50 ∨ 5000 < x.distance then some 3 else if x.speed < 20 ∨ 90 < x.speed then some 4
      else if 200 < x.lead then some 5 else if x.depth < 1 ∨ 8 < x.depth then some 6 else none := by
  unfold linkFault
  simp only [firstBad, inRange_iff, atMost_iff, ite_not]

theorem setLink_badName {x : LinkFields} {field : Nat} (h : readLink x.segment x.direction = .inl field) (s : State) :
    setLink x s = (s, .badValue 0 field) := by
  unfold setLink
  rw [h]

theorem setLink_fault {x : LinkFields} {l : Link} {field : Nat} (hl : readLink x.segment x.direction = .inr l)
    (h : linkFault x = some field) (s : State) : setLink x s = (s, .badValue 0 field) := by
  unfold setLink
  rw [hl]
  dsimp only
  rw [h]

theorem trimQueue_link (l m : Link) (s : State) :
    (trimQueue l s).link m =
      if l = m then { s.link l with queue := (s.link l).queue.drop ((s.link l).queue.length - (s.link l).depth) }
      else s.link m := by
  unfold trimQueue
  dsimp only
  rw [freeRecords_link, State.withLink_link]

theorem trimQueue_free (l : Link) (s : State) :
    (trimQueue l s).pt.freeCount = s.pt.freeCount + ((s.link l).queue.length - (s.link l).depth) := by
  unfold trimQueue
  dsimp only
  rw [freeRecords_free, State.withLink_free]

theorem TrackerOnly.trimQueue (l : Link) (s : State) : TrackerOnly s (trimQueue l s) :=
  (TrackerOnly.withLink s l _).trans (.freeRecords _ _)

theorem written_eq (r : LinkRecord) (x : LinkFields) :
    r.written x = { distance := x.distance, speed := x.speed,
                    estimate := max 50 (min 1200 (x.distance * 36 / x.speed)), lead := x.lead, depth := x.depth,
                    tracked := true, lost := 0, queue := r.queue } := by
  unfold LinkRecord.written designTravel
  dsimp only
  rw [Coordination.clampNat_eq (by omega)]

/-- SET-LINK writes the record of its link, and removes the oldest records above the depth limit. -/
theorem setLink_taken {x : LinkFields} {l : Link} (hl : readLink x.segment x.direction = .inr l) (h : linkFault x = none)
    (s : State) :
    ∃ t, setLink x s = (t, .done .none) ∧ TrackerOnly s t ∧
      t.link l = { distance := x.distance, speed := x.speed,
                   estimate := max 50 (min 1200 (x.distance * 36 / x.speed)), lead := x.lead, depth := x.depth,
                   tracked := true, lost := 0,
                   queue := (s.link l).queue.drop ((s.link l).queue.length - x.depth) } ∧
      t.pt.freeCount = s.pt.freeCount + ((s.link l).queue.length - x.depth) ∧ ∀ m, m ≠ l → t.link m = s.link m := by
  have told : ∀ u : State, TrackerOnly u (if (s.link l).tracked then u else noteTracking l u) ∧
      (∀ m, (if (s.link l).tracked then u else noteTracking l u).link m = u.link m) ∧
      (if (s.link l).tracked then u else noteTracking l u).pt.freeCount = u.pt.freeCount := fun u => by
    split
    · exact ⟨.rfl' u, fun _ => rfl, rfl⟩
    · exact ⟨.noteTracking l u, fun _ => rfl, rfl⟩
  obtain ⟨only, links, free⟩ := told (s.withLink l (fun r => r.written x))
  refine ⟨trimQueue l (if (s.link l).tracked then s.withLink l (fun r => r.written x)
    else noteTracking l (s.withLink l (fun r => r.written x))), ?_,
    ((TrackerOnly.withLink s l _).trans only).trans (.trimQueue l _), ?_, ?_, fun m hm => ?_⟩
  · unfold setLink
    rw [hl]
    dsimp only
    rw [h]
  · rw [trimQueue_link, if_pos rfl, links, State.withLink_link, if_pos rfl, written_eq]
  · rw [trimQueue_free, links, free, State.withLink_link, if_pos rfl, State.withLink_free, written_eq]
  · rw [trimQueue_link, if_neg hm.symm, links, State.withLink_link, if_neg hm.symm]

/-! ### GET-LINK and GET-PLATOONS (R45, R64) -/

theorem getLink_named {x : LinkName} {l : Link} (h : readLink x.segment x.direction = .inr l) (s : State) :
    getLink x s = (s, .done (.link { s.link l with queue := [] }
      (max 50 (min 1200 ((s.link l).distance * 36 / (s.link l).speed))) (s.link l).queue.length)) := by
  unfold getLink designTravel
  rw [h]
  dsimp only
  rw [Coordination.clampNat_eq (by omega)]

theorem getLink_badName {x : LinkName} {field : Nat} (h : readLink x.segment x.direction = .inl field) (s : State) :
    getLink x s = (s, .badValue 0 field) := by
  unfold getLink
  rw [h]

theorem getPlatoons_named {x : LinkName} {l : Link} (h : readLink x.segment x.direction = .inr l) (s : State) :
    getPlatoons x s = (s, .done (.platoons s.pt.freeCount s.pt.poolEmptyRaised (s.link l).queue)) := by
  unfold getPlatoons
  rw [h]

theorem getPlatoons_badName {x : LinkName} {field : Nat} (h : readLink x.segment x.direction = .inl field) (s : State) :
    getPlatoons x s = (s, .badValue 0 field) := by
  unfold getPlatoons
  rw [h]

/-! ### The close of a window (R57) -/

theorem closingLink_holds {s : State} {n : Nat} {l : Link} (h : closingLink s n = some l) :
    ∃ x ∈ (s.link l).queue, (x.number == n) = true := by
  have holds := List.find?_some h
  obtain ⟨x, member, closes⟩ := List.any_eq_true.1 holds
  exact ⟨x, member, (Bool.and_eq_true _ _ ▸ closes).1⟩

theorem losePlatoon_link (l m : Link) (n : Nat) (s : State) :
    (losePlatoon l n s).link m =
      if l = m then
        { s.link l with
          queue := (s.link l).queue.eraseP (fun x => x.number == n), lost := min 3 ((s.link l).lost + 1),
          tracked := (s.link l).tracked && decide ((s.link l).lost + 1 < 3) }
      else s.link m := by
  have count (k : Nat) : saturate 3 k = min 3 k := by
    unfold saturate
    split <;> omega
  have tracking : ((s.link l).tracked && !((s.link l).tracked && min 3 ((s.link l).lost + 1) == 3)) =
      ((s.link l).tracked && decide ((s.link l).lost + 1 < 3)) := by
    cases (s.link l).tracked with
    | false => rfl
    | true =>
      rw [Bool.true_and, Bool.true_and, Bool.true_and, Bool.eq_iff_iff]
      simp only [Bool.not_eq_true', beq_eq_false_iff_ne, decide_eq_true_eq]
      omega
  unfold losePlatoon
  dsimp only
  have told : ∀ (b : Bool) (u : State), (if b then noteTracking l u else u).link m = u.link m := fun b u => by
    cases b <;> rfl
  rw [told, freeRecords_link, State.withLink_link]
  split
  · rw [count, tracking]
    rfl
  · rfl

theorem losePlatoon_only (l : Link) (n : Nat) (s : State) :
    TrackerOnly s (losePlatoon l n s) ∧ (losePlatoon l n s).pt.freeCount = s.pt.freeCount + 1 := by
  unfold losePlatoon
  dsimp only
  split
  · exact ⟨((TrackerOnly.withLink s l _).trans (.freeRecords _ _)).trans (.noteTracking l _),
      (freeRecords_free _ _).trans (by rw [State.withLink_free])⟩
  · exact ⟨(TrackerOnly.withLink s l _).trans (.freeRecords _ _),
      (freeRecords_free _ _).trans (by rw [State.withLink_free])⟩

theorem windowEvent_closing {s : State} {n : Nat} {l : Link} (h : closingLink s n = some l) :
    windowEvent n s = finish (losePlatoon l n s) := by
  unfold windowEvent
  rw [h]

/-- Settles O20: SET-LINK by its name and then its fields, the reads by their name, and the close of a window as one loss. -/
theorem linksWrittenReportedAndLost : Obligations.LinksWrittenReportedAndLost := by
  unfold Obligations.LinksWrittenReportedAndLost
  refine ⟨fun x s ready => ⟨fun k d ok hk hd => ?_, fun bad => ?_⟩, fun k d s ready => ?_,
    fun x s ready => ⟨fun outside => ?_, fun lo hi outside => ?_⟩, fun n l s closing => ?_⟩
  · have code : x.direction = directionCode d := hd
    have named := readLink_named (hk ▸ segmentOf_number k) (code ▸ directionOf_code d)
    obtain ⟨t, taken, only, own, free, others⟩ := setLink_taken named (by
      rw [linkFault_eq, if_neg (by omega), if_neg (by omega), if_neg (by omega), if_neg (by omega)]) (frameTaken s)
    exact ⟨_, congrArg Host.Outcome.next (onRequest_result (k := .setLink) ready taken), own, free, others, rfl, only.ctb,
      only.oc, only.qw, only.pm, only.pl, only.ps, only.clc, only.ih, only.er, only.config⟩
  · refine congrArg Host.Outcome.next (onRequest_refused ready ?_)
    by_cases segment : x.segment = 0 ∨ 11 < x.segment
    · rw [if_pos segment]
      exact setLink_badName (readLink_badSegment segment _) _
    · rw [if_neg segment]
      by_cases direction : 1 < x.direction
      · rw [if_pos direction]
        exact setLink_badName (readLink_badDirection (by omega) (by omega) direction) _
      · rw [if_neg direction]
        obtain ⟨k, hk⟩ := segmentOf_inside (n := x.segment) (by omega) (by omega)
        obtain ⟨d, hd⟩ := directionOf_inside (n := x.direction) (by omega)
        refine setLink_fault (readLink_named hk hd) ?_ _
        rw [linkFault_eq]
        split_ifs <;> first | rfl | omega
  · have named := readLink_named (segmentOf_number k) (directionOf_code d)
    exact ⟨congrArg Host.Outcome.next (onRequest_refused ready (getLink_named named (frameTaken s))),
      congrArg Host.Outcome.next (onRequest_refused ready (getPlatoons_named named (frameTaken s)))⟩
  · have unnamed := readLink_badSegment outside x.direction
    exact ⟨congrArg Host.Outcome.next (onRequest_refused ready (getLink_badName unnamed (frameTaken s))),
      congrArg Host.Outcome.next (onRequest_refused ready (getPlatoons_badName unnamed (frameTaken s)))⟩
  · have unnamed := readLink_badDirection lo hi outside
    exact ⟨congrArg Host.Outcome.next (onRequest_refused ready (getLink_badName unnamed (frameTaken s))),
      congrArg Host.Outcome.next (onRequest_refused ready (getPlatoons_badName unnamed (frameTaken s)))⟩
  · obtain ⟨only, free⟩ := losePlatoon_only l n s
    have links := losePlatoon_link l (n := n) (s := s)
    have settles := settles_finish (losePlatoon l n s)
    have link : ∀ m, (finish (losePlatoon l n s)).link m = (losePlatoon l n s).link m :=
      link_congr (congrArg Tracker.inboundLinks settles.pt) (congrArg Tracker.outboundLinks settles.pt)
    have stores : LeavesStores s (finish (losePlatoon l n s)) :=
      windowEvent_closing closing ▸ (Moves.windowEvent (rt := true) n (.refl s)).leavesStores
    obtain ⟨x, member, number⟩ := closingLink_holds closing
    refine ⟨finish (losePlatoon l n s), congrArg Host.Outcome.next (windowEvent_closing closing), ?_, ?_,
      (congrArg Tracker.freeCount settles.pt).trans free, fun m hm => ?_, settles.oc.trans only.oc,
      settles.qw.trans only.qw, settles.pm.trans only.pm, settles.ps.trans only.ps, settles.er.trans only.er, stores⟩
    · rw [link, links, if_pos rfl]
    · rw [link, links, if_pos rfl]
      have := List.length_eraseP_of_mem (p := fun x : Platoon => x.number == n) member number
      have := List.length_pos_of_mem member
      dsimp only
      omega
    · rw [link, links, if_neg hm.symm]

end Sys2Proof.Proofs.Links
end

section
/-! PROOF. Offers to the Link Command Queue (O33). -/

open Sys2Proof Sys2Proof.Machine

namespace Sys2Proof.Proofs.Offers

/-! ### Who may offer, and what an offer replaces (R136, R137) -/

theorem isLive_iff (s : State) : s.isLive = true ↔ s.sli.mode = .live := by
  simp [State.isLive]

theorem drains_iff (c : LineCommand) : drains c = true ↔ c = .routeEnd ∨ c = .runLocal ∨ c = .quiet := by
  cases c <;> simp [drains]

theorem offerOpen_iff (s : State) (c : LineCommand) :
    offerOpen s c = true ↔
      s.sli.mode = .live ∨ (s.clc.drainFlag = true ∧ (c = .routeEnd ∨ c = .runLocal ∨ c = .quiet)) := by
  rw [offerOpen, Bool.or_eq_true, Bool.and_eq_true, isLive_iff, drains_iff]

theorem replaces_iff (c : LineCommand) (position : Option Pos) (x : QueueEntry) :
    replaces c position x = true ↔
      (c.isTimingSet = true ∧ x.command.isTimingSet = true ∧ x.position = position) ∨
        (c = .quiet ∧ (x.command = .quiet ∨ x.command = .runLocal) ∧ x.position = position) ∨
        (c = .runLocal ∧ x.command = .runLocal ∧ x.position = position) ∨ (c = .beacon ∧ x.command = .beacon) := by
  cases c <;> simp [replaces, LineCommand.isTimingSet]

theorem quietStands_iff (q : List QueueEntry) (position : Option Pos) :
    q.any (fun x => x.command == .quiet && x.position == position) = true ↔
      ∃ x ∈ q, x.command = .quiet ∧ x.position = position := by
  simp

/-! ### The cases of an offer -/

theorem offerEntry_closed {e : QueueEntry} {s : State} (h : offerOpen s e.command ≠ true) : offerEntry e s = (s, false) :=
  if_pos h

theorem offerEntry_barred {e : QueueEntry} {s : State}
    (h : e.command = .runLocal ∧ ∃ x ∈ s.clc.queue, x.command = .quiet ∧ x.position = e.position) :
    offerEntry e s = (s, false) := by
  by_cases closed : offerOpen s e.command = true
  · unfold offerEntry
    dsimp only
    rw [if_neg (not_not_intro closed), if_pos ⟨h.1, (quietStands_iff _ _).2 h.2⟩]
  · exact offerEntry_closed closed

theorem offerEntry_replaces {e : QueueEntry} {s : State} (ho : offerOpen s e.command = true)
    (hb : ¬ (e.command = .runLocal ∧ ∃ x ∈ s.clc.queue, x.command = .quiet ∧ x.position = e.position))
    (h : ∃ x ∈ s.clc.queue, replaces e.command e.position x = true) :
    offerEntry e s =
      (s.withQueue (joinQueue e (s.clc.queue.filter (fun x => !replaces e.command e.position x))), true) := by
  unfold offerEntry
  dsimp only
  rw [if_neg (not_not_intro ho), if_neg (by rwa [quietStands_iff]), if_pos (List.any_eq_true.2 h)]

/-- An offer that replaces nothing goes by the room in the queue. -/
theorem offerEntry_room {e : QueueEntry} {s : State} (ho : offerOpen s e.command = true)
    (hb : ¬ (e.command = .runLocal ∧ ∃ x ∈ s.clc.queue, x.command = .quiet ∧ x.position = e.position))
    (h : ∀ x ∈ s.clc.queue, replaces e.command e.position x ≠ true) :
    (s.clc.queue.length < 24 → offerEntry e s = (s.withQueue (joinQueue e s.clc.queue), true)) ∧
      (24 ≤ s.clc.queue.length → e.rank ≤ lowestRank s.clc.queue → offerEntry e s = (s, false)) ∧
      ∀ victim rest, 24 ≤ s.clc.queue.length → lowestRank s.clc.queue < e.rank →
        evictYoungest (lowestRank s.clc.queue) s.clc.queue = (some victim, rest) →
        offerEntry e s = (evicted victim (s.withQueue (joinQueue e rest)), true) := by
  have none : ¬ s.clc.queue.any (replaces e.command e.position) = true := by
    rw [List.any_eq_true]
    rintro ⟨x, hx, hr⟩
    exact h x hx hr
  have capacity : Config.queueCapacity = 24 := rfl
  unfold offerEntry
  dsimp only
  rw [if_neg (not_not_intro ho), if_neg (by rwa [quietStands_iff]), if_neg none]
  refine ⟨fun room => if_pos (by omega), fun full high => ?_, fun victim rest full low hv => ?_⟩
  · rw [if_neg (by omega), if_pos high]
  · rw [if_neg (by omega), if_neg (by omega), hv]

/-! ### Evictions (R138) -/

theorem le_lowestRank {n : Nat} (bound : n ≤ 5) (q : List QueueEntry) :
    n ≤ lowestRank q ↔ ∀ x ∈ q, x.onLine = false → n ≤ x.rank := by
  have pass : ∀ (q : List QueueEntry) (r : Nat),
      n ≤ q.foldl (fun r e => if e.onLine then r else min r e.rank) r ↔
        n ≤ r ∧ ∀ x ∈ q, x.onLine = false → n ≤ x.rank := by
    intro q
    induction q with
    | nil => simp
    | cons e q ih =>
      intro r
      rw [List.foldl_cons, ih, List.forall_mem_cons]
      cases e.onLine with
      | true => simp
      | false => simp [and_assoc]
  exact (pass q 5).trans (and_iff_right bound)

theorem rank_le (e : QueueEntry) : e.rank ≤ 4 := by
  unfold QueueEntry.rank
  cases e.command.commandClass <;> decide

theorem lowestRank_eq {q : List QueueEntry} {victim : QueueEntry} (member : victim ∈ q) (off : victim.onLine = false)
    (lowest : ∀ x ∈ q, x.onLine = false → victim.rank ≤ x.rank) : lowestRank q = victim.rank := by
  have bound := rank_le victim
  refine Nat.le_antisymm (not_lt.1 fun h => ?_) ((le_lowestRank (by omega) q).2 lowest)
  exact absurd ((le_lowestRank (n := victim.rank + 1) (by omega) q).1 h victim member off) (by omega)

theorem evictYoungest_absent {r : Nat} {q : List QueueEntry} (h : ∀ x ∈ q, x.onLine = false → x.rank ≠ r) :
    evictYoungest r q = (none, q) := by
  induction q with
  | nil => rfl
  | cons e q ih =>
    rw [List.forall_mem_cons] at h
    unfold evictYoungest
    rw [ih h.2]
    dsimp only
    exact if_neg (by simpa using h.1)

theorem evictYoungest_youngest {victim : QueueEntry} (before after : List QueueEntry) (off : victim.onLine = false)
    (youngest : ∀ x ∈ after, x.onLine = false → x.rank ≠ victim.rank) :
    evictYoungest victim.rank (before ++ victim :: after) = (some victim, before ++ after) := by
  induction before with
  | nil =>
    rw [List.nil_append, evictYoungest, evictYoungest_absent youngest]
    dsimp only
    rw [if_pos (by simp [off])]
    rfl
  | cons e before ih =>
    rw [List.cons_append, evictYoungest, ih]
    rfl

theorem evicted_other {e : QueueEntry} (h : e.command ≠ .identify) (h' : e.command ≠ .quiet) (s : State) :
    evicted e s = s := by
  unfold evicted
  split
  · contradiction
  · contradiction
  · rfl

theorem evicted_retries {e : QueueEntry} {p : Pos} (h : e.command = .identify ∨ e.command = .quiet)
    (hp : e.position = some p) (s : State) :
    evicted e s = s.withIdent p (fun i => { i with retry := some (later s.now 10) }) := by
  unfold evicted
  rcases h with h | h <;> rw [h, hp] <;> rfl

/-! ### The place of a new entry (R136) -/

theorem joinQueue_inOrder (e : QueueEntry) {q : List QueueEntry} (h : q.Pairwise (fun a b => b.rank ≤ a.rank)) :
    joinQueue e q = q.filter (fun x => decide (e.rank ≤ x.rank)) ++ e :: q.filter (fun x => decide (x.rank < e.rank)) := by
  induction q with
  | nil => rfl
  | cons x q ih =>
    obtain ⟨below, h⟩ := List.pairwise_cons.1 h
    unfold joinQueue
    by_cases lower : x.rank < e.rank
    · have all : ∀ y ∈ x :: q, y.rank < e.rank := List.forall_mem_cons.2
        ⟨lower, fun y hy => Nat.lt_of_le_of_lt (below y hy) lower⟩
      rw [if_pos lower, List.filter_eq_nil_iff.2 (fun y hy => by simpa using all y hy),
        List.filter_eq_self.2 (fun y hy => by simpa using all y hy), List.nil_append]
    · rw [if_neg lower, ih h, List.filter_cons_of_pos (by simpa using lower), List.filter_cons_of_neg (by simpa using lower)]
      rfl

/-- Settles O33, by the cases of an offer in their order. -/
theorem offersToTheQueue : Obligations.OffersToTheQueue := by
  unfold Obligations.OffersToTheQueue
  intro e s
  have closed (h : ¬ (s.sli.mode = .live ∨ (s.clc.drainFlag = true ∧
      (e.command = .routeEnd ∨ e.command = .runLocal ∨ e.command = .quiet)))) : offerOpen s e.command ≠ true :=
    fun ho => h ((offerOpen_iff s e.command).1 ho)
  refine ⟨fun h => h.elim (fun h => offerEntry_closed (closed h)) offerEntry_barred, fun ht hb older => ?_,
    fun ht hb older => ?_, joinQueue_inOrder e⟩
  · obtain ⟨x, hx, old⟩ := older
    refine ⟨_, offerEntry_replaces ((offerOpen_iff _ _).2 ht) hb ⟨x, hx, (replaces_iff _ _ x).2 old⟩,
      List.filter_sublist, fun y hy hold => ?_, ?_, fun y => replaces_iff _ _ y⟩
    · have := (List.mem_filter.1 hy).2
      rw [(replaces_iff _ _ y).2 hold] at this
      exact absurd this (by decide)
    · rw [List.length_eq_countP_add_countP (fun x => replaces e.command e.position x) (l := s.clc.queue), Nat.add_comm,
        List.countP_eq_length_filter (p := fun a => decide ¬ _)]
      congr 3
      funext y
      cases replaces e.command e.position y <;> rfl
  · obtain ⟨room, refused, evicts⟩ := offerEntry_room ((offerOpen_iff s e.command).2 ht) hb
      (fun x hx hr => older x hx ((replaces_iff _ _ x).1 hr))
    have bound := rank_le e
    refine ⟨room, fun full high => refused full ((le_lowestRank (by omega) _).2 high),
      fun full before victim after split off low lowest youngest => ?_⟩
    have rank := lowestRank_eq (q := s.clc.queue) (victim := victim) (by simp [split]) off lowest
    have taken := evicts victim (before ++ after) full (by omega)
      (by rw [rank, split]; exact evictYoungest_youngest before after off youngest)
    exact ⟨fun h h' => by rw [taken, evicted_other h h'], fun p h hp => by rw [taken, evicted_retries h hp]; rfl⟩

end Sys2Proof.Proofs.Offers
end

section
/-! PROOF. Exchanges: their phases (O29), and what a GOOD one does to the figures of its position (O30). -/

open Sys2Proof Sys2Proof.Machine

namespace Sys2Proof.Proofs.Exchanges

/-! ### Phases (R131) -/

theorem expects_poll {k : ReplyKind} (h : k ≠ .heartbeat) (h' : k ≠ .status) {w : Work}
    (hw : w = .poll ∨ ∃ route, w = .command .probePoll route) : expects w k = false := by
  rcases hw with rfl | ⟨route, rfl⟩ <;> cases k <;> first | rfl | contradiction

theorem expects_identify {k : ReplyKind} (h : k ≠ .heartbeat) (h' : k ≠ .identity) (route : Option RouteRef) :
    expects (.command .identify route) k = false := by
  cases k <;> first | rfl | contradiction

theorem expects_other {k : ReplyKind} (h : k = .status ∨ k = .identity) {c : LineCommand} (route : Option RouteRef)
    (hp : c ≠ .probePoll) (hi : c ≠ .identify) : expects (.command c route) k = false := by
  rcases h with rfl | rfl <;> cases c <;> first | rfl | contradiction

theorem expects_answer {k : ReplyKind} (h : k = .ack ∨ k = .nak) {c : LineCommand} (route : Option RouteRef)
    (hp : c ≠ .probePoll) (hi : c ≠ .identify) (hb : c ≠ .beacon) : expects (.command c route) k = true := by
  rcases h with rfl | rfl <;> cases c <;> first | rfl | contradiction

@[simp] theorem expects_heartbeat (w : Work) : expects w .heartbeat = true := by
  unfold expects
  rfl

theorem nakReasonOf_outside {n : Nat} (h : 4 < n) : nakReasonOf n = none := by
  unfold nakReasonOf
  split <;> first | omega | rfl

theorem nakReasonOf_inside {n : Nat} (h : n ≤ 4) : ∃ r, nakReasonOf n = some r := by
  interval_cases n <;> exact ⟨_, rfl⟩

theorem nakReply_outside {n : Nat} (h : 4 < n) : nakReply n = none := by
  unfold nakReply
  rw [nakReasonOf_outside h]

theorem nakReply_reason {n : Nat} {r : NakReason} (h : nakReasonOf n = some r) :
    nakReply n = some (fun x p _ s => nakContents r x p s) := by
  unfold nakReply
  rw [h]

theorem stageOf_outside {n : Nat} (h : 3 < n) : stageOf n = none := by
  unfold stageOf
  split <;> first | omega | rfl

theorem statusReply_outside {reply : StatusFields} (h : 3 < reply.stage ∨ 8 < reply.records.length) :
    statusReply reply = none := by
  unfold statusReply
  rcases h with h | h
  · rw [stageOf_outside h]
  · split
    · rfl
    · exact if_neg (show ¬ reply.records.length ≤ 8 by omega)

theorem statusReply_inside {reply : StatusFields} {stage : SignalStage} (hs : stageOf reply.stage = some stage)
    (hn : reply.records.length ≤ 8) :
    statusReply reply = some (fun x p _ s => statusContents p x.work reply stage s) := by
  unfold statusReply
  rw [hs]
  exact if_pos hn

theorem frameSent_addressed {x : Exchange} {p : Pos} (hp : x.phase = .sending) (hx : x.position = some p) (s : State) :
    frameSent x s = { s with clc := s.clc.sent x .window } := by
  unfold frameSent
  rw [hp, hx]

theorem frameSent_broadcast {x : Exchange} (hp : x.phase = .sending) (hx : x.position = none) (s : State) :
    frameSent x s = takeOffLine { s with clc := s.clc.sent x .trailing } := by
  unfold frameSent
  rw [hp, hx]

/-- A BEACON exchange that ends with nothing else to do leaves the line idle and undriven. -/
theorem broadcastEnd_idle {x : Exchange} {s : State} (hp : x.phase = .sending ∨ x.phase = .trailing) (hx : x.position = none)
    (hd : ∀ p, s.clc.due.get p = none) (sending : x.phase = .sending → ∀ e ∈ s.clc.queue, e.onLine = true)
    (trailing : x.phase = .trailing → s.clc.queue = []) :
    ∃ t, broadcastEnd x s = t ∧ t.clc.line = .idle ∧ t.clc.driverEnable = false ∧ t.clc.txLevel = .mark ∧
      t.clc.queue = [] ∧ Settles s t := by
  have empty : (takeOffLine { s with clc := s.clc.released }).clc.queue = [] ∧
      broadcastEnd x s = finish (takeOffLine { s with clc := s.clc.released }) := by
    rcases hp with hp | hp
    · refine ⟨List.filter_eq_nil_iff.2 (fun e he => by simp [sending hp e he]), ?_⟩
      unfold broadcastEnd
      rw [hp, hx]
    · have none : takeOffLine { s with clc := s.clc.released } = { s with clc := s.clc.released } := by
        unfold takeOffLine State.withQueue LineController.released
        dsimp only
        rw [trailing hp]
        rfl
      rw [none]
      refine ⟨trailing hp, ?_⟩
      unfold broadcastEnd
      rw [hp, hx]
  obtain ⟨queue, ends⟩ := empty
  have settled := settleLine_nothing queue hd
  have settles : Settles s (takeOffLine { s with clc := s.clc.released }) := by constructor <;> rfl
  have clc := (transmitterRun_clc _).trans (congrArg State.clc settled)
  exact ⟨_, ends, (congrArg LineController.line clc :), (congrArg LineController.driverEnable clc :),
    (congrArg LineController.txLevel clc :), (congrArg LineController.queue clc :).trans queue,
    settles.trans (settles_finish _)⟩

/-- Settles O29, reply by reply: what the exchange expects, from whom, and in which phase. -/
theorem exchangePhases : Obligations.ExchangePhases := by
  unfold Obligations.ExchangePhases
  refine ⟨fun x p s hl hp hx => congrArg Host.Outcome.next ((onExchange_of hl).trans (frameSent_addressed hp hx s)),
    fun x p s h => ?_, fun s closed address => ?_,
    fun x s hl hp hx => congrArg Host.Outcome.next ((onExchange_of hl).trans (frameSent_broadcast hp hx s)),
    fun x s hl hp hx hd hs ht => ?_⟩
  · have away (k : ReplyKind) (n : Nat) (f : Option Contents) (hn : n ≠ x.address) :
        (.next (onReply k n f s) : Result) = .next (garbled x s) :=
      congrArg Host.Outcome.next (onReply_garbles h (.inl hn))
    have unexpected (k : ReplyKind) (n : Nat) (f : Option Contents) (hk : expects x.work k = false) :
        (.next (onReply k n f s) : Result) = .next (garbled x s) :=
      congrArg Host.Outcome.next (onReply_garbles h (.inr (.inl hk)))
    have unreadable (k : ReplyKind) (n : Nat) {f : Option Contents} (hf : f = none) :
        (.next (onReply k n f s) : Result) = .next (garbled x s) :=
      congrArg Host.Outcome.next (onReply_garbles h (.inr (.inr hf)))
    refine ⟨congrArg Host.Outcome.next (inPhase_of h.1 h.2.1), fun _ => congrArg Host.Outcome.next (inPhase_of h.1 h.2.1),
      fun n hn => ⟨away _ n _ hn, away _ n _ hn, fun _ => away _ n _ hn, fun _ => away _ n _ hn, fun _ => away _ n _ hn⟩,
      fun hw => ?_, fun route hw => ?_, fun c route hw hp hi => ?_, fun n reason hr => unreadable _ n (nakReply_outside hr),
      fun n reply hr => unreadable _ n (statusReply_outside hr)⟩
    · have off {k : ReplyKind} (h₁ : k ≠ .heartbeat) (h₂ : k ≠ .status) := expects_poll h₁ h₂ hw
      exact ⟨unexpected _ _ _ (off nofun nofun), fun _ => unexpected _ _ _ (off nofun nofun),
        fun _ => unexpected _ _ _ (off nofun nofun)⟩
    · have off {k : ReplyKind} (h₁ : k ≠ .heartbeat) (h₂ : k ≠ .identity) : expects x.work k = false :=
        hw ▸ expects_identify h₁ h₂ route
      exact ⟨unexpected _ _ _ (off nofun nofun), fun _ => unexpected _ _ _ (off nofun nofun),
        fun _ => unexpected _ _ _ (off nofun nofun)⟩
    · have off {k : ReplyKind} (hk : k = .status ∨ k = .identity) : expects x.work k = false :=
        hw ▸ expects_other hk route hp hi
      exact ⟨fun _ => unexpected _ _ _ (off (.inr rfl)), fun _ => unexpected _ _ _ (off (.inl rfl))⟩
  · have none (k : ReplyKind) (f : Option Contents) : (.next (onReply k address f s) : Result) = .next s :=
      congrArg Host.Outcome.next (onReply_closed closed k address f)
    exact ⟨none _ _, none _ _, fun _ => none _ _, fun _ => none _ _, fun _ => none _ _⟩
  · obtain ⟨t, ends, rest⟩ := broadcastEnd_idle hp hx hd hs ht
    exact ⟨t, congrArg Host.Outcome.next ((onExchange_of hl).trans ends), rest⟩

/-! ### The figures of a position (R152) -/

/-- From `s` to `t` the figures by which a position is judged stand, its probes and its quiet period apart, and so does the
time of the last GOOD exchange. -/
structure FiguresKept (p : Pos) (s t : State) : Prop where
  score : (t.health p).score = (s.health p).score
  failures : (t.health p).failures = (s.health p).failures
  state : (t.health p).state = (s.health p).state
  probeDeadline : (t.health p).probeDeadline = (s.health p).probeDeadline
  lastGood : t.ih.lastGood = s.ih.lastGood

theorem FiguresKept.rfl' (p : Pos) (s : State) : FiguresKept p s s := ⟨rfl, rfl, rfl, rfl, rfl⟩

theorem FiguresKept.trans {p : Pos} {a b c : State} (h : FiguresKept p a b) (g : FiguresKept p b c) : FiguresKept p a c :=
  ⟨g.score.trans h.score, g.failures.trans h.failures, g.state.trans h.state, g.probeDeadline.trans h.probeDeadline,
    g.lastGood.trans h.lastGood⟩

theorem FiguresKept.ofTables (p : Pos) {s t : State} (h : t.ih.health = s.ih.health) (h' : t.ih.lastGood = s.ih.lastGood) :
    FiguresKept p s t := by
  have figures : t.health p = s.health p := congrArg (fun v : Vector Health 12 => v.get p) h
  constructor <;> first | rw [figures] | exact h'

theorem FiguresKept.ofMoves (p : Pos) {rt : Bool} {s t : State} (h : Moves rt false s t) : FiguresKept p s t :=
  .ofTables p h.leavesOutcomes.health h.leavesOutcomes.lastGood

theorem FiguresKept.settles (p : Pos) {s t : State} (h : Settles s t) : FiguresKept p s t :=
  .ofTables p h.health h.lastGood

/-! ### The contents of a reply leave the figures -/

theorem startQuiet_figures (p : Pos) (s : State) : FiguresKept p s (startQuiet p s) := by
  unfold startQuiet
  split
  · refine .trans ?_ (.ofMoves p (rt := true) (Moves.quietReport p (.refl _)))
    constructor <;> first | rfl | rw [State.withHealth_health, if_pos rfl]
  · exact .rfl' p s

theorem acked_figures (p : Pos) (c : LineCommand) (route : Option RouteRef) (s : State) :
    FiguresKept p s (acked p c route s) := by
  unfold acked
  split
  · exact .ofMoves p (rt := true) (Moves.timingAcked p _ (.refl s))
  · exact startQuiet_figures p s
  · exact .ofMoves p (rt := true) (Moves.clearAcked p _ (.refl s))
  · exact .ofMoves p (rt := true) (Moves.handBack p _ (.refl s))
  · exact .rfl' p s

theorem naked_figures (p : Pos) (c : LineCommand) (route : Option RouteRef) (reason : NakReason) (s : State) :
    FiguresKept p s (naked p c route reason s) := by
  unfold naked
  split
  · exact .ofMoves p (rt := true) (Moves.timingNak p _ _ (.refl s))
  · exact startQuiet_figures p s
  · exact .ofMoves p (rt := true) (Moves.clearFailed p _ (.refl s))
  · exact .ofMoves p (rt := true) (Moves.handBack p _ (.refl s))
  · exact .rfl' p s

/-- A position whose last exchange was GOOD and whose score is below 160 passes the test for CUT-OFF. -/
def Sound (p : Pos) (s : State) : Prop := (s.health p).failures = 0 ∧ (s.health p).score < 160

theorem testCutOff_sound {p : Pos} {s : State} (h : Sound p s) : testCutOff p s = s := by
  have none : cutOffCause s p = none := cutOffCause_none.2 (.inr (.inr ⟨by rw [h.1]; decide, h.2⟩))
  unfold testCutOff
  rw [none]

/-- The state in which a completed identification is tested for CUT-OFF. -/
def identified (p : Pos) (mode : ResolvedMode) (f : Ident → Ident) (s : State) : State :=
  let s := s.withIdent p (fun i => { f i with state := .identified, mode := some mode, retry := none, byRequest := false })
  coordIdentified p mode { s with clc := { s.clc with accepted := s.clc.accepted.set p.val none } }

theorem identified_figures (p : Pos) (mode : ResolvedMode) (f : Ident → Ident) (s : State) :
    FiguresKept p s (identified p mode f s) :=
  .ofMoves p (rt := true) (Moves.coordIdentified p mode ((Moves.withIdent p _ (.refl s)).trans (.accepted _ _)))

theorem completeIdentified_eq (p : Pos) (mode : ResolvedMode) (f : Ident → Ident) (s : State) :
    completeIdentified p mode f s =
      let t := testCutOff p (identified p mode f s)
      let i := t.ident p
      raiseNotice (.identified p
        { result := .identified, site := i.site, abilities := i.abilities, detectors := i.detectors, mode := i.mode,
          basic := i.basic }) t := rfl

theorem completeIdentified_figures {p : Pos} {s : State} (h : Sound p s) (mode : ResolvedMode) (f : Ident → Ident) :
    FiguresKept p s (completeIdentified p mode f s) := by
  have kept := identified_figures p mode f s
  have sound : Sound p (identified p mode f s) := ⟨kept.failures.trans h.1, kept.score ▸ h.2⟩
  rw [completeIdentified_eq, testCutOff_sound sound]
  exact kept.trans (.ofMoves p (rt := true) (.notice _ _))

theorem completeMismatch_figures (p : Pos) (configured : Nat) (reported : Option Nat) (reason : MismatchReason) (s : State) :
    FiguresKept p s (completeMismatch p configured reported reason s) :=
  .ofMoves p (rt := true) (Moves.completeMismatch p _ _ _ (.refl s))

theorem identityContents_figures {x : Exchange} {p : Pos} {stood : Bool} {s : State} (h : Sound p s) (reply : IdentityFields) :
    FiguresKept p s (identityContents reply x p stood s) := by
  unfold identityContents
  split
  · unfold identityReply
    split
    · exact .rfl' p s
    · dsimp only
      split
      · exact completeIdentified_figures h _ _
      · exact completeMismatch_figures p _ _ _ s
  · exact .rfl' p s

theorem heartbeatIdentify_figures {p : Pos} {s : State} (h : Sound p s) : FiguresKept p s (heartbeatIdentify p s) := by
  unfold heartbeatIdentify
  split
  · exact .rfl' p s
  · split
    · exact completeIdentified_figures h _ _
    · exact completeMismatch_figures p _ _ _ s

theorem setSummary_figures (p : Pos) (figures : Option StatusFigures) (s : State) : FiguresKept p s (setSummary p figures s) :=
  .ofTables p rfl rfl

theorem heartbeatContents_figures {p : Pos} {s : State} (h : Sound p s) (work : Work) (stood : Bool) :
    FiguresKept p s (heartbeatContents p work stood s) := by
  unfold heartbeatContents
  split
  · exact setSummary_figures p _ s
  · exact setSummary_figures p _ s
  · split
    · exact heartbeatIdentify_figures h
    · exact .rfl' p s
  · exact acked_figures p _ _ s

theorem statusContents_figures (p : Pos) (work : Work) (reply : StatusFields) (stage : SignalStage) (s : State) :
    FiguresKept p s (statusContents p work reply stage s) := by
  unfold statusContents
  dsimp only
  split
  · exact (setSummary_figures p _ s).trans (.ofMoves p (Moves.takeStatus p reply (.refl _)))
  · exact setSummary_figures p _ s

/-! ### A GOOD exchange (R132, R152) -/

/-- Unless its position is CUT-OFF, a GOOD exchange is scored and its reply handled; an outcome of a probe does nothing more. -/
theorem endGood_inService {x : Exchange} {p : Pos} {f : Bool → State → State} {s : State} (h : (s.health p).state ≠ .cutOff)
    (score : (s.health p).score < 160) :
    endGood x p f s =
      f (onLineEntry s).isSome (takeOutcome p true (takeOffLine { s with clc := s.clc.released })) := by
  have health := (takeOutcome_good (p := p) (s := takeOffLine { s with clc := s.clc.released }) (.inr score)).2.1
  have open' : ((takeOutcome p true (takeOffLine { s with clc := s.clc.released })).health p).state ≠ .cutOff := by
    rw [health]
    change followedState { s.health p with score := (s.health p).score - 1 } ≠ .cutOff
    unfold followedState
    dsimp only
    split
    · split <;> nofun
    · split <;> nofun
    · next cut => exact absurd cut h
  have probe : ∀ b : Bool, (if b then
      probeOutcome p true (takeOutcome p true (takeOffLine { s with clc := s.clc.released }))
      else takeOutcome p true (takeOffLine { s with clc := s.clc.released })) =
        takeOutcome p true (takeOffLine { s with clc := s.clc.released }) := fun b => by
    cases b with
    | false => rfl
    | true => exact if_pos open'
  unfold endGood
  dsimp only
  rw [probe]

theorem followedState_eq {h : Health} (open' : h.state ≠ .cutOff) :
    followedState { h with score := h.score - 1 } =
      if h.state = .degraded ∧ h.score - 1 < 48 then .sound else if 64 ≤ h.score - 1 then .degraded else h.state := by
  unfold followedState
  dsimp only
  split
  · next e => rw [e]; simp
  · next e =>
    rw [e]
    simp only [true_and]
    split
    · rfl
    · split <;> rfl
  · next e => exact absurd e open'

/-- A reply that settles the outcome GOOD, with contents that leave the figures. -/
theorem onReply_scores {p : Pos} {x : Exchange} {s : State} {k : ReplyKind} {f : Contents} (h : awaiting s x p)
    (score : (s.health p).score < 160) (open' : (s.health p).state ≠ .cutOff) (he : expects x.work k = true)
    (contents : ∀ stood u, Sound p u → FiguresKept p u (f x p stood u)) {more : State → Prop}
    (further : ∀ stood u, u.now = s.now → more (finish (f x p stood u))) :
    ∃ t, onReply k x.address (some f) s = t ∧ (t.health p).score = (s.health p).score - 1 ∧ (t.health p).failures = 0 ∧
      (t.health p).state = (if (s.health p).state = .degraded ∧ (s.health p).score - 1 < 48 then .sound
        else if 64 ≤ (s.health p).score - 1 then .degraded else (s.health p).state) ∧
      t.ih.lastGood = some s.now ∧ more t := by
  obtain ⟨scored, figures, good, -⟩ :=
    takeOutcome_good (p := p) (s := takeOffLine { s with clc := s.clc.released }) (.inr score)
  have figures : (takeOutcome p true (takeOffLine { s with clc := s.clc.released })).health p =
      { s.health p with
        score := (s.health p).score - 1, failures := 0,
        state := followedState { s.health p with score := (s.health p).score - 1 } } := figures
  have kept := (contents (onLineEntry s).isSome _ ⟨congrArg Health.failures figures, by
    rw [figures]
    dsimp only
    omega⟩).trans (.settles p (settles_finish _))
  refine ⟨_, rfl, ?_⟩
  rw [onReply_good h rfl he, endGood_inService open' score]
  refine ⟨kept.score.trans (congrArg Health.score figures), kept.failures.trans (congrArg Health.failures figures), ?_,
    kept.lastGood.trans good, further _ _ (congrArg TimeBase.runningTime scored.ctb)⟩
  rw [kept.state, figures, ← followedState_eq open']

/-- Settles O30: every reply scores alike, and leaves the figures else. -/
theorem goodExchangeScores : Obligations.GoodExchangeScores := by
  unfold Obligations.GoodExchangeScores
  intro p x s h score open'
  refine ⟨?_, fun reply stage hw hs hn => ?_, fun reply route hw => ?_, fun c route hw hi hp hb => ?_⟩
  · obtain ⟨t, run, a, b, c, d, e⟩ := onReply_scores (k := .heartbeat) (f := fun x p stood s => heartbeatContents p x.work stood s)
      (more := fun t => x.work = .poll → t.clc.summaries.get p = some { received := s.now, figures := none }) h score open'
      (expects_heartbeat _) (fun stood u hu => heartbeatContents_figures hu _ _) (fun stood u now hw => by
        rw [(settles_finish _).summaries, hw]
        exact (get_set _ _ _ _).trans ((if_pos rfl).trans (by rw [now])))
    exact ⟨t, congrArg Host.Outcome.next run, a, b, c, d, run ▸ (heartbeat_moves x.address s).leavesStores, e⟩
  · obtain ⟨t, run, a, b, c, d, e⟩ := onReply_scores (k := .status) (f := fun x p _ s => statusContents p x.work reply stage s)
      (more := fun t => t.clc.summaries.get p = some { received := s.now, figures := some (statusFigures reply stage) }) h
      score open' (by rw [hw]; rfl) (fun _ u _ => statusContents_figures p _ reply stage u) (fun _ u now => by
        have summary : (setSummary p (some (statusFigures reply stage)) u).clc.summaries.get p =
            some { received := s.now, figures := some (statusFigures reply stage) } :=
          (get_set _ _ _ _).trans ((if_pos rfl).trans (by rw [now]))
        rw [(settles_finish _).summaries]
        unfold statusContents
        dsimp only
        split
        · rw [(Moves.takeStatus (st := false) p reply (.refl _)).leavesOutcomes.summaries]
          exact summary
        · exact summary)
    have run' : exec (.status x.address reply) s = .next t :=
      congrArg Host.Outcome.next (by rw [statusReply_inside hs hn]; exact run)
    have stores : LeavesStores s t := by
      have moves := (status_moves x.address reply s).leavesStores
      rwa [statusReply_inside hs hn, run] at moves
    exact ⟨t, run', a, b, c, d, stores, e⟩
  · obtain ⟨t, run, a, b, c, d, e⟩ := onReply_scores (k := .identity) (f := identityContents reply) (more := fun _ => True) h
      score open' (by rw [hw]; rfl) (fun stood u hu => identityContents_figures hu reply) (fun _ _ _ => trivial)
    exact ⟨t, congrArg Host.Outcome.next run, a, b, c, d, run ▸ (identity_moves x.address reply s).leavesStores, e⟩
  · refine ⟨?_, fun n hn => ?_⟩
    · obtain ⟨t, run, a, b, c, d, e⟩ := onReply_scores (k := .ack) (f := fun x p _ s => ackContents x p s)
        (more := fun _ => True) h score open' (hw ▸ expects_answer (.inl rfl) route hp hi hb) (fun _ u _ => by
          unfold ackContents
          rw [hw]
          exact acked_figures p _ _ u) (fun _ _ _ => trivial)
      exact ⟨t, congrArg Host.Outcome.next run, a, b, c, d, run ▸ (ack_moves x.address s).leavesStores, e⟩
    · obtain ⟨reason, hr⟩ := nakReasonOf_inside hn
      obtain ⟨t, run, a, b, c, d, e⟩ := onReply_scores (k := .nak) (f := fun x p _ s => nakContents reason x p s)
        (more := fun _ => True) h score open' (hw ▸ expects_answer (.inr rfl) route hp hi hb) (fun _ u _ => by
          unfold nakContents
          rw [hw]
          exact naked_figures p _ _ _ u) (fun _ _ _ => trivial)
      have run' : exec (.nak x.address n) s = .next t := congrArg Host.Outcome.next (by rw [nakReply_reason hr]; exact run)
      have stores : LeavesStores s t := by
        have moves := (nak_moves x.address n s).leavesStores
        rwa [nakReply_reason hr, run] at moves
      exact ⟨t, run', a, b, c, d, stores, e⟩

end Sys2Proof.Proofs.Exchanges
end

section
/-! PROOF. The road: what the handlings of the Offset Coordinator and the Priority Manager change at the positions they
concern, and what they leave. The layer that the proofs about routes, calls, reports and marks share. -/

open Sys2Proof Sys2Proof.Machine

namespace Sys2Proof.Proofs.Roads

/-! ### The relation -/

/-- From `s` to `t` by handlings of the road at positions of `A`, which offer commands of `C`: coordination records, owners,
routes, the queue, retry deadlines and notices apart, nothing differs; with `wide`, platoons and approach records may. The
records and owners of other positions stand, every trim stands, and what is new in the queue is a fresh offer for a position of
`A`. -/
structure Road (wide : Bool) (A : Pos → Prop) (C : LineCommand → Prop) (s t : State) : Prop where
  pending : t.pending = s.pending
  ctb : t.ctb = s.ctb
  limits : t.oc.limits = s.oc.limits
  pt : wide = false → t.pt = s.pt
  qw : wide = false → t.qw = s.qw
  pl : t.pl = s.pl
  ps : t.ps = s.ps
  er : t.er = s.er
  config : t.config = s.config
  budgets : t.pm.budgets = s.pm.budgets
  policy : t.pm.policy = s.pm.policy
  accepted : t.clc.accepted = s.clc.accepted
  outcomes : LeavesOutcomes s t
  sli : { t.sli with notices := [], overrun := 0 } = { s.sli with notices := [], overrun := 0 }
  ident : ∀ q, { t.ident q with retry := none } = { s.ident q with retry := none }
  retry : ∀ q, (t.ident q).retry = (s.ident q).retry ∨ (t.ident q).retry = some (later s.now 10)
  trim : ∀ q, (t.coord q).trim = (s.coord q).trim
  coord : ∀ q, ¬ A q → t.coord q = s.coord q
  owner : ∀ q, ¬ A q → t.owner q = s.owner q
  queue : ∀ e ∈ t.clc.queue, e ∈ s.clc.queue ∨
    (C e.command ∧ e.joined = s.now ∧ e.attempts = 0 ∧ e.onLine = false ∧ ∃ q, A q ∧ e.position = some q)

variable {wide : Bool} {A B : Pos → Prop} {C D : LineCommand → Prop}

namespace Road

theorem rfl' (s : State) : Road wide A C s s := by
  constructor <;> first | rfl | exact .rfl' s | exact fun _ => rfl | exact fun _ _ => rfl | exact fun _ => .inl rfl |
    exact fun _ h => .inl h

theorem now {s t : State} (h : Road wide A C s t) : t.now = s.now := congrArg TimeBase.runningTime h.ctb

theorem trans {a b c : State} (h : Road wide A C a b) (g : Road wide A C b c) : Road wide A C a c where
  pending := g.pending.trans h.pending
  ctb := g.ctb.trans h.ctb
  limits := g.limits.trans h.limits
  pt w := (g.pt w).trans (h.pt w)
  qw w := (g.qw w).trans (h.qw w)
  pl := g.pl.trans h.pl
  ps := g.ps.trans h.ps
  er := g.er.trans h.er
  config := g.config.trans h.config
  budgets := g.budgets.trans h.budgets
  policy := g.policy.trans h.policy
  accepted := g.accepted.trans h.accepted
  outcomes := h.outcomes.trans g.outcomes
  sli := g.sli.trans h.sli
  ident q := (g.ident q).trans (h.ident q)
  retry q := by
    rcases g.retry q with e | e
    · rw [e]
      exact h.retry q
    · rw [e, h.now]
      exact .inr rfl
  trim q := (g.trim q).trans (h.trim q)
  coord q hq := (g.coord q hq).trans (h.coord q hq)
  owner q hq := (g.owner q hq).trans (h.owner q hq)
  queue e he := by
    rcases g.queue e he with old | new
    · exact h.queue e old
    · exact .inr (h.now ▸ new)

theorem mono {s t : State} (h : Road wide A C s t) (positions : ∀ q, A q → B q) (commands : ∀ c, C c → D c) :
    Road wide B D s t :=
  { h with
    coord := fun q hq => h.coord q (fun a => hq (positions q a))
    owner := fun q hq => h.owner q (fun a => hq (positions q a))
    queue := fun e he => (h.queue e he).imp_right (fun ⟨c, j, a, l, q, hq, hp⟩ => ⟨commands _ c, j, a, l, q, positions q hq, hp⟩) }

theorem widen {s t : State} (h : Road false A C s t) : Road wide A C s t :=
  { h with pt := fun _ => h.pt rfl, qw := fun _ => h.qw rfl }

/-! Parts of the relation. -/

theorem mode {s t : State} (h : Road wide A C s t) : t.sli.mode = s.sli.mode := (congrArg Supervisory.mode h.sli :)

theorem isLive {s t : State} (h : Road wide A C s t) : t.isLive = s.isLive := by
  unfold State.isLive
  rw [h.mode]

theorem health {s t : State} (h : Road wide A C s t) (q : Pos) : t.health q = s.health q :=
  congrArg (fun v : Vector Health 12 => v.get q) h.outcomes.health

theorem imageEntry {s t : State} (h : Road wide A C s t) (q : Pos) : t.imageEntry q = s.imageEntry q := by
  unfold State.imageEntry
  rw [h.ps]

theorem budget {s t : State} (h : Road wide A C s t) (q : Pos) : t.budget q = s.budget q :=
  congrArg (fun v : Vector Nat 12 => v.get q) h.budgets

theorem identState {s t : State} (h : Road wide A C s t) (q : Pos) : (t.ident q).state = (s.ident q).state :=
  (congrArg Ident.state (h.ident q) :)

theorem identMode {s t : State} (h : Road wide A C s t) (q : Pos) : (t.ident q).mode = (s.ident q).mode :=
  (congrArg Ident.mode (h.ident q) :)

theorem offerOpen {s t : State} (h : Road wide A C s t) (c : LineCommand) : offerOpen t c = offerOpen s c := by
  unfold Machine.offerOpen
  rw [h.isLive, h.outcomes.drainFlag]

/-- A change of coordination records that keeps the trims. -/
theorem ofCoord {s : State} (v : Vector Coord 12) (trim : ∀ q, (v.get q).trim = (s.coord q).trim)
    (others : ∀ q, ¬ A q → v.get q = s.coord q) : Road wide A C s { s with oc := { s.oc with positions := v } } where
  pending := rfl
  ctb := rfl
  limits := rfl
  pt _ := rfl
  qw _ := rfl
  pl := rfl
  ps := rfl
  er := rfl
  config := rfl
  budgets := rfl
  policy := rfl
  accepted := rfl
  outcomes := by constructor <;> rfl
  sli := rfl
  ident _ := rfl
  retry _ := .inl rfl
  trim := trim
  coord := others
  owner _ _ := rfl
  queue _ h := .inl h

theorem withCoord {p : Pos} (hA : A p) (s : State) (f : Coord → Coord) (hf : ∀ c, (f c).trim = c.trim) :
    Road wide A C s (s.withCoord p f) := by
  refine ofCoord _ (fun q => ?_) (fun q hq => ?_)
  · rw [get_update]
    split
    · next h =>
      subst h
      exact hf _
    · rfl
  · rw [get_update, if_neg (fun h : p = q => hq (h ▸ hA))]
    rfl

theorem raiseNotice (body : NoticeBody) (s : State) : Road wide A C s (raiseNotice body s) where
  pending := rfl
  ctb := rfl
  limits := rfl
  pt _ := rfl
  qw _ := rfl
  pl := rfl
  ps := rfl
  er := rfl
  config := rfl
  budgets := rfl
  policy := rfl
  accepted := rfl
  outcomes := (Moves.notice (routing := true) s body).leavesOutcomes
  sli := Links.raiseNotice_sli body s
  ident _ := rfl
  retry _ := .inl rfl
  trim _ := rfl
  coord _ _ := rfl
  owner _ _ := rfl
  queue _ h := .inl h

theorem notePosition (p : Pos) (s : State) : Road wide A C s (notePosition p s) := raiseNotice _ s

/-- A change of owners and routes; owners of positions outside `A` stand. -/
theorem ofPriority {s : State} (pm : Priority) (budgets : pm.budgets = s.pm.budgets) (policy : pm.policy = s.pm.policy)
    (owner : ∀ q, ¬ A q → pm.owners.get q = s.owner q) : Road wide A C s { s with pm := pm } where
  pending := rfl
  ctb := rfl
  limits := rfl
  pt _ := rfl
  qw _ := rfl
  pl := rfl
  ps := rfl
  er := rfl
  config := rfl
  budgets := budgets
  policy := policy
  accepted := rfl
  outcomes := by constructor <;> rfl
  sli := rfl
  ident _ := rfl
  retry _ := .inl rfl
  trim _ := rfl
  coord _ _ := rfl
  owner := owner
  queue _ h := .inl h

theorem withRoutes (s : State) (f : List Route → List Route) : Road wide A C s (s.withRoutes f) :=
  ofPriority _ rfl rfl (fun _ _ => rfl)

/-! ### The queue -/

/-- A queue whose new entries are fresh offers for positions of `A`. -/
theorem ofQueue {s : State} (q : List QueueEntry) (new : ∀ e ∈ q, e ∈ s.clc.queue ∨
    (C e.command ∧ e.joined = s.now ∧ e.attempts = 0 ∧ e.onLine = false ∧ ∃ p, A p ∧ e.position = some p)) :
    Road wide A C s (s.withQueue q) where
  pending := rfl
  ctb := rfl
  limits := rfl
  pt _ := rfl
  qw _ := rfl
  pl := rfl
  ps := rfl
  er := rfl
  config := rfl
  budgets := rfl
  policy := rfl
  accepted := rfl
  outcomes := by constructor <;> rfl
  sli := rfl
  ident _ := rfl
  retry _ := .inl rfl
  trim _ := rfl
  coord _ _ := rfl
  owner _ _ := rfl
  queue := new

theorem withdraw (w : QueueEntry → Bool) (s : State) : Road wide A C s (withdraw w s) :=
  ofQueue _ (fun _ he => .inl (List.mem_of_mem_filter he))

theorem setRetry (p : Pos) (s : State) : Road wide A C s (setRetry p s) where
  pending := rfl
  ctb := rfl
  limits := rfl
  pt _ := rfl
  qw _ := rfl
  pl := rfl
  ps := rfl
  er := rfl
  config := rfl
  budgets := rfl
  policy := rfl
  accepted := rfl
  outcomes := by constructor <;> rfl
  sli := rfl
  ident q := by
    unfold Machine.setRetry
    rw [State.withIdent_ident]
    split
    · next h => rw [h]
    · rfl
  retry q := by
    unfold Machine.setRetry
    rw [State.withIdent_ident]
    split
    · exact .inr rfl
    · exact .inl rfl
  trim _ := rfl
  coord _ _ := rfl
  owner _ _ := rfl
  queue _ h := .inl h

theorem evicted (e : QueueEntry) (s : State) : Road wide A C s (evicted e s) := by
  unfold Machine.evicted
  split
  · exact setRetry _ s
  · exact setRetry _ s
  · exact rfl' s

theorem offerEntry {e : QueueEntry} {p : Pos} {s : State} (hA : A p) (hp : e.position = some p) (hC : C e.command)
    (joined : e.joined = s.now) (attempts : e.attempts = 0) (off : e.onLine = false) :
    Road wide A C s (offerEntry e s).1 := by
  have join (q : List QueueEntry) (old : ∀ x ∈ q, x ∈ s.clc.queue) : Road wide A C s (s.withQueue (joinQueue e q)) := by
    refine ofQueue _ (fun x hx => ?_)
    rcases mem_joinQueue.1 hx with rfl | hx
    · exact .inr ⟨hC, joined, attempts, off, p, hA, hp⟩
    · exact .inl (old x hx)
  unfold Machine.offerEntry
  dsimp only
  split
  · exact rfl' s
  · split
    · exact rfl' s
    · split
      · exact join _ (fun x hx => List.mem_of_mem_filter hx)
      · split
        · exact join _ (fun x hx => hx)
        · split
          · exact rfl' s
          · split
            · exact rfl' s
            · next victim rest hv => exact (join rest (fun x hx => (evictYoungest_some hv).1.subset hx)).trans (evicted _ _)

theorem offerTo {c : LineCommand} {p : Pos} (hA : A p) (hC : C c) (route : Option RouteRef) (s : State) :
    Road wide A C s (offerTo c p route s).1 := by
  unfold Machine.offerTo
  split
  · exact rfl' s
  · exact offerEntry hA rfl hC rfl rfl rfl

/-! ### The Offset Coordinator -/

theorem leaveToLocal {p : Pos} (hA : A p) (reason : LocalReason) {b : Bool} (hC : b = true → C .runLocal) (s : State) :
    Road wide A C s (leaveToLocal p reason b s) := by
  have left : Road wide A C s (Machine.notePosition p ((withdrawTiming p s).withCoord p
      (fun c => { c.unsteered (.inLocal reason) with commanded := false }))) :=
    ((withdraw _ s).trans (withCoord hA _ _ (by intro c; rfl))).trans (notePosition p _)
  unfold Machine.leaveToLocal
  dsimp only
  split
  · next h => exact left.trans (offerTo hA (hC h) none _)
  · exact left

theorem takeReason {p : Pos} (hA : A p) (reason : LocalReason) (s : State) : Road wide A C s (takeReason p reason s) := by
  unfold Machine.takeReason
  split
  · exact rfl' s
  · exact (withCoord hA s _ (by intro c; rfl)).trans (notePosition p _)

theorem setTarget {p : Pos} (hA : A p) (s : State) : Road wide A C s (setTarget p s) := withCoord hA s _ (by intro c; rfl)

theorem ownerTaken {p : Pos} (hA : A p) (s : State) : Road wide A C s (ownerTaken p s) := by
  unfold Machine.ownerTaken
  split
  · exact ((withdraw _ s).trans (withCoord hA _ _ (by intro c; rfl))).trans (notePosition p _)
  · exact rfl' s

theorem ownerReturned {p : Pos} (hA : A p) (hC : C .runLocal) (s : State) : Road wide A C s (ownerReturned p s) := by
  unfold Machine.ownerReturned
  split
  · split
    · exact ((withCoord hA s _ (by intro c; rfl)).trans (setTarget hA _)).trans (notePosition p _)
    · exact leaveToLocal hA _ (fun _ => hC) s
  · exact rfl' s

theorem coordUnseen {p : Pos} (hA : A p) (s : State) : Road wide A C s (coordUnseen p s) := by
  have left : Road wide A C s ((withdrawTiming p s).withCoord p
      (fun c => { c.unsteered .unseen with refusals := 0, fieldLocal := false })) :=
    (withdraw _ s).trans (withCoord hA _ _ (by intro c; rfl))
  unfold Machine.coordUnseen
  dsimp only
  split
  · exact left
  · exact left.trans (notePosition p _)

theorem coordIdentified {p : Pos} (hA : A p) (mode : ResolvedMode) (s : State) :
    Road wide A C s (coordIdentified p mode s) := by
  unfold Machine.coordIdentified
  dsimp only
  split
  · exact (withCoord hA s _ (by intro c; rfl)).trans (notePosition p _)
  · exact rfl' s

theorem coordOutOfService {p : Pos} (hA : A p) (reason : LocalReason) (s : State) :
    Road wide A C s (coordOutOfService p reason s) := by
  unfold Machine.coordOutOfService
  split
  · exact rfl' s
  · exact takeReason hA reason s
  · exact leaveToLocal hA reason (by simp) s

theorem fieldLocalSet {p : Pos} (hA : A p) (hC : C .runLocal) (s : State) : Road wide A C s (fieldLocalSet p s) := by
  have flagged : Road wide A C s (s.withCoord p (fun c => { c with fieldLocal := true })) := withCoord hA s _ (by intro c; rfl)
  unfold Machine.fieldLocalSet
  dsimp only
  split
  · exact flagged
  · exact flagged.trans (takeReason hA _ _)
  · exact flagged.trans (takeReason hA _ _)
  · exact flagged.trans (takeReason hA _ _)
  · exact flagged
  · exact flagged.trans (leaveToLocal hA _ (fun _ => hC) _)

theorem fieldLocalClear {p : Pos} (hA : A p) (s : State) : Road wide A C s (fieldLocalClear p s) := by
  have flagged : Road wide A C s (s.withCoord p (fun c => { c with fieldLocal := false })) := withCoord hA s _ (by intro c; rfl)
  unfold Machine.fieldLocalClear
  dsimp only
  split
  · exact flagged.trans (takeReason hA _ _)
  · exact flagged

theorem clearRefusing {p : Pos} (hA : A p) (s : State) : Road wide A C s (clearRefusing p s) := by
  unfold Machine.clearRefusing
  split
  · exact (withCoord hA s _ (by intro c; rfl)).trans (notePosition p _)
  · split
    · exact withCoord hA s _ (by intro c; rfl)
    · exact rfl' s

/-! ### The Priority Manager -/

theorem setOwner {p : Pos} (hA : A p) {o : Owner} (hC : o = .none → C .runLocal) (s : State) :
    Road wide A C s (setOwner p o s) := by
  have set : Road wide A C s { s with pm := { s.pm with owners := s.pm.owners.set p.val o } } :=
    ofPriority _ rfl rfl (fun q hq => (get_set _ _ _ _).trans (if_neg (fun h : p = q => hq (h ▸ hA))))
  unfold Machine.setOwner
  dsimp only
  split
  · exact set.trans (ownerTaken hA _)
  · split
    · next h => exact set.trans (ownerReturned hA (hC h.2) _)
    · exact set

theorem leaveRoute (p : Pos) (s : State) : Road wide A C s (leaveRoute p s) := withRoutes s _

theorem handBack {p : Pos} (hA : A p) (hC : C .runLocal) (origin : Pos) (s : State) : Road wide A C s (handBack p origin s) := by
  unfold Machine.handBack
  split
  · exact setOwner hA (fun _ => hC) s
  · exact rfl' s

theorem sendEnd {p : Pos} (hA : A p) (hE : C .routeEnd) (hL : C .runLocal) (ref : RouteRef) (s : State) :
    Road wide A C s (sendEnd p ref s).1 := by
  have sent : Road wide A C s (Machine.offerTo .routeEnd p (some ref) (withdrawClear p s)).1 :=
    (withdraw _ s).trans (offerTo hA hE _ _)
  unfold Machine.sendEnd
  dsimp only
  split
  · exact sent
  · exact sent.trans (handBack hA hL _ _)

theorem endMember {m : Member} (hA : A m.position) (hE : C .routeEnd) (hL : C .runLocal) (ref : RouteRef)
    (acc : State × List Pos) : Road wide A C acc.1 (endMember ref acc m).1 := by
  unfold Machine.endMember
  dsimp only
  split
  · exact (withdraw _ _).trans (setOwner hA (fun _ => hL) _)
  · exact sendEnd hA hE hL ref acc.1

theorem endMembers (hE : C .routeEnd) (hL : C .runLocal) (ref : RouteRef) (members : List Member) (acc : State × List Pos)
    (hA : ∀ m ∈ members, A m.position) : Road wide A C acc.1 (members.foldl (Machine.endMember ref) acc).1 := by
  induction members generalizing acc with
  | nil => exact rfl' _
  | cons m members ih =>
    rw [List.forall_mem_cons] at hA
    exact (endMember hA.1 hE hL ref acc).trans (ih _ hA.2)

theorem endRoute {r : Route} (hA : ∀ m ∈ r.members, A m.position) (hE : C .routeEnd) (hL : C .runLocal) (s : State) :
    Road wide A C s (endRoute r s).1 := (withRoutes s (fun rs => rs.filter (fun x => x.ref.origin != r.ref.origin))).trans
    (endMembers hE hL r.ref r.members (_, []) hA)

theorem endRouteFrom {p : Pos} {s : State} (hA : ∀ r, s.pm.routeFrom p = some r → ∀ m ∈ r.members, A m.position)
    (hE : C .routeEnd) (hL : C .runLocal) : Road wide A C s (endRouteFrom p s).1 := by
  unfold Machine.endRouteFrom
  split
  · exact rfl' s
  · next r h => exact endRoute (hA r h) hE hL s

theorem endCall {p : Pos} {s : State} (hp : A p) (hA : ∀ r, s.pm.routeFrom p = some r → ∀ m ∈ r.members, A m.position)
    (hE : C .routeEnd) (hL : C .runLocal) (cause : EndCause) : Road wide A C s (endCall p cause s) :=
  ((endRouteFrom hA hE hL).trans (setOwner hp (fun _ => hL) _)).trans (raiseNotice _ _)

theorem callLearned {p : Pos} (hA : A p) (cause : StartCause) (s : State) : Road wide A C s (callLearned p cause s) := by
  unfold Machine.callLearned
  split
  · exact (setOwner hA (by simp) s).trans (raiseNotice _ _)
  · exact rfl' s

theorem clearFailed {p : Pos} (hA : A p) (hC : C .runLocal) (ref : RouteRef) (s : State) :
    Road wide A C s (clearFailed p ref s) := by
  unfold Machine.clearFailed
  split
  · exact (leaveRoute p s).trans (setOwner hA (fun _ => hC) _)
  · exact rfl' s

theorem standingLost {p : Pos} {s : State} (hp : A p) (hA : ∀ r, s.pm.routeFrom p = some r → ∀ m ∈ r.members, A m.position)
    (hE : C .routeEnd) (hL : C .runLocal) : Road wide A C s (standingLost p s) := by
  unfold Machine.standingLost
  split
  · exact rfl' s
  · exact endCall hp hA hE hL _
  · exact (((leaveRoute p s).trans (withdraw _ _)).trans (withdraw _ _)).trans (setOwner hp (fun _ => hL) _)

end Road

end Sys2Proof.Proofs.Roads
end

section
/-! PROOF. The road, position by position: the records that its handlings give, what they keep of a position that is not
coordinated, which entries stay in the queue, and what the end of a handling makes of the queue. -/

open Sys2Proof Sys2Proof.Machine

namespace Sys2Proof.Proofs.Roads

/-! ### The records that the handlings give -/

theorem leaveToLocal_coord (p : Pos) (reason : LocalReason) (b : Bool) (s : State) :
    (leaveToLocal p reason b s).coord p =
      { s.coord p with state := .inLocal reason, measured := none, settle := none, grant := none, commanded := false } := by
  have told : ∀ u : State, (if b then (offerTo .runLocal p none u).1 else u).coord p = u.coord p := fun u => by
    cases b with
    | false => rfl
    | true => exact congrArg (fun oc : Coordinator => oc.positions.get p) (Offered.offerTo .runLocal p none u).oc
  unfold leaveToLocal
  dsimp only
  rw [told, Coordination.notePosition_coord, State.withCoord_coord, if_pos rfl]
  rfl

theorem takeReason_coord (p : Pos) (reason : LocalReason) (s : State) :
    (takeReason p reason s).coord p = { s.coord p with state := .inLocal reason } := by
  unfold takeReason
  split
  · next h => rw [← h]
  · rw [Coordination.notePosition_coord, State.withCoord_coord, if_pos rfl]

theorem ownerTaken_coord {p : Pos} {s : State} (h : steered (s.coord p).state = true) :
    (ownerTaken p s).coord p =
      { s.coord p with state := .preempted, measured := none, settle := none, grant := none, commanded := false } := by
  unfold ownerTaken
  rw [if_pos h, Coordination.notePosition_coord, State.withCoord_coord, if_pos rfl]
  rfl

theorem ownerTaken_unsteered {p : Pos} {s : State} (h : steered (s.coord p).state = false) : ownerTaken p s = s :=
  if_neg (by simp [h])

theorem ownerReturned_unpreempted {p : Pos} {s : State} (h : (s.coord p).state ≠ .preempted) : ownerReturned p s = s :=
  if_neg h

theorem ownerReturned_entry {p : Pos} {s : State} {e : PlanEntry} (h : (s.coord p).state = .preempted)
    (he : s.imageEntry p = some e) :
    (ownerReturned p s).coord p =
      { s.coord p with
        state := .seeking .lengthen, measured := none, commanded := false,
        target := some (targetOf e (s.coord p).trim s.ctb.cycleLength) } := by
  have entry : (s.withCoord p (fun c => { c with state := .seeking .lengthen, measured := none, commanded := false })).imageEntry
      p = some e := he
  unfold ownerReturned
  rw [if_pos h, he]
  dsimp only
  rw [Coordination.notePosition_coord, Coordination.setTarget_coord, entry, State.withCoord_coord, if_pos rfl]
  rfl

theorem ownerReturned_noEntry {p : Pos} {s : State} (h : (s.coord p).state = .preempted) (he : s.imageEntry p = none) :
    ownerReturned p s = leaveToLocal p .notInPlan true s := by
  unfold ownerReturned
  rw [if_pos h, he]

/-! ### Owners -/

/-- The state with an owner set, before the Offset Coordinator is told. -/
def withOwner (p : Pos) (o : Owner) (s : State) : State := { s with pm := { s.pm with owners := s.pm.owners.set p.val o } }

theorem withOwner_owner (p q : Pos) (o : Owner) (s : State) :
    (withOwner p o s).owner q = if p = q then o else s.owner q := get_set _ _ _ _

theorem setOwner_taken {p : Pos} {o : Owner} {s : State} (was : s.owner p = .none) (h : o ≠ .none) :
    setOwner p o s = ownerTaken p (withOwner p o s) := if_pos ⟨was, h⟩

theorem setOwner_none {p : Pos} {s : State} (was : s.owner p ≠ .none) :
    setOwner p .none s = ownerReturned p (withOwner p .none s) := by
  unfold setOwner
  dsimp only
  rw [if_neg (fun h => was h.1), if_pos ⟨was, rfl⟩]
  rfl

theorem setOwner_same {p : Pos} {o : Owner} {s : State} (h : s.owner p = .none ↔ o = .none) :
    setOwner p o s = withOwner p o s := by
  unfold setOwner
  dsimp only
  rw [if_neg (fun k => k.2 (h.1 k.1)), if_neg (fun k => k.1 (h.2 k.2))]
  rfl

theorem leaveToLocal_pm (p : Pos) (reason : LocalReason) (b : Bool) (s : State) :
    (leaveToLocal p reason b s).pm = s.pm := by
  unfold leaveToLocal
  dsimp only
  split
  · exact (Offered.offerTo .runLocal p none _).pm
  · rfl

theorem takeReason_pm (p : Pos) (reason : LocalReason) (s : State) : (takeReason p reason s).pm = s.pm := by
  unfold takeReason
  split <;> rfl

theorem ownerTaken_pm (p : Pos) (s : State) : (ownerTaken p s).pm = s.pm := by
  unfold ownerTaken
  split <;> rfl

theorem ownerReturned_pm (p : Pos) (s : State) : (ownerReturned p s).pm = s.pm := by
  unfold ownerReturned
  split
  · split
    · rfl
    · exact leaveToLocal_pm p _ _ s
  · rfl

theorem setOwner_pm (p : Pos) (o : Owner) (s : State) :
    (setOwner p o s).pm = { s.pm with owners := s.pm.owners.set p.val o } := by
  unfold setOwner
  dsimp only
  split
  · exact ownerTaken_pm p _
  · split
    · exact ownerReturned_pm p _
    · rfl

theorem setOwner_owner (p q : Pos) (o : Owner) (s : State) :
    (setOwner p o s).owner q = if p = q then o else s.owner q := by
  unfold State.owner
  rw [setOwner_pm]
  exact get_set _ _ _ _

theorem setOwner_routes (p : Pos) (o : Owner) (s : State) : (setOwner p o s).pm.routes = s.pm.routes := by
  rw [setOwner_pm]

theorem fieldLocalSet_pm (p : Pos) (s : State) : (fieldLocalSet p s).pm = s.pm := by
  unfold fieldLocalSet
  dsimp only
  split <;> first | rfl | exact takeReason_pm _ _ _ | exact leaveToLocal_pm _ _ _ _

theorem fieldLocalClear_pm (p : Pos) (s : State) : (fieldLocalClear p s).pm = s.pm := by
  unfold fieldLocalClear
  dsimp only
  split <;> first | rfl | exact takeReason_pm _ _ _

theorem fieldLocalSet_coordinated {p : Pos} {s : State} (h : coordinated (s.coord p).state = true) :
    fieldLocalSet p s = leaveToLocal p .fieldLocal true (s.withCoord p (fun c => { c with fieldLocal := true })) := by
  have state : ((s.withCoord p (fun c => { c with fieldLocal := true })).coord p).state = (s.coord p).state := by
    rw [State.withCoord_coord, if_pos rfl]
  unfold fieldLocalSet
  dsimp only
  split <;> next e => first
    | rfl
    | (rw [state] at e; rw [e] at h; exact absurd h Bool.false_ne_true)

theorem fieldLocalSet_local {p : Pos} {s : State} {reason : LocalReason} (h : (s.coord p).state = .inLocal reason) :
    (fieldLocalSet p s).coord p = { s.coord p with
      state := .inLocal (if reason = .awaitingMark ∨ reason = .free ∨ reason = .notInPlan then .fieldLocal else reason),
      fieldLocal := true } := by
  have flagged : (s.withCoord p (fun c => { c with fieldLocal := true })).coord p =
      { s.coord p with fieldLocal := true } := by rw [State.withCoord_coord, if_pos rfl]
  have state : ((s.withCoord p (fun c => { c with fieldLocal := true })).coord p).state = .inLocal reason := by
    rw [flagged, ← h]
  unfold fieldLocalSet
  dsimp only
  rw [state]
  cases reason <;> simp [takeReason_coord, flagged, h]

theorem fieldLocalSet_unseen {p : Pos} {s : State} (h : (s.coord p).state = .unseen) :
    fieldLocalSet p s = s.withCoord p (fun c => { c with fieldLocal := true }) := by
  have state : ((s.withCoord p (fun c => { c with fieldLocal := true })).coord p).state = .unseen := by
    rw [State.withCoord_coord, if_pos rfl, ← h]
  unfold fieldLocalSet
  dsimp only
  rw [state]

theorem fieldLocalClear_coord (p : Pos) (s : State) :
    (fieldLocalClear p s).coord p = { s.coord p with
      state := if (s.coord p).state = .inLocal .fieldLocal then .inLocal .awaitingMark else (s.coord p).state,
      fieldLocal := false } := by
  have flagged : (s.withCoord p (fun c => { c with fieldLocal := false })).coord p =
      { s.coord p with fieldLocal := false } := by rw [State.withCoord_coord, if_pos rfl]
  have state : ((s.withCoord p (fun c => { c with fieldLocal := false })).coord p).state = (s.coord p).state := by
    rw [flagged]
  unfold fieldLocalClear
  dsimp only
  rw [state]
  split
  · rw [takeReason_coord, flagged]
  · rw [flagged]

/-! ### What the Priority Manager keeps of a position -/

/-- From `s` to `t` by handlings of the Priority Manager: a position that is not coordinated keeps its record, and every
position its field-local flag. -/
structure Handled (s t : State) : Prop where
  rests : ∀ q, coordinated (s.coord q).state = false → t.coord q = s.coord q
  fieldLocal : ∀ q, (t.coord q).fieldLocal = (s.coord q).fieldLocal

namespace Handled

theorem rfl' (s : State) : Handled s s := ⟨fun _ _ => rfl, fun _ => rfl⟩

theorem trans {a b c : State} (h : Handled a b) (g : Handled b c) : Handled a c :=
  ⟨fun q hq => (g.rests q (by rw [h.rests q hq]; exact hq)).trans (h.rests q hq),
    fun q => (g.fieldLocal q).trans (h.fieldLocal q)⟩

theorem ofCoord {s t : State} (h : ∀ q, t.coord q = s.coord q) : Handled s t :=
  ⟨fun q _ => h q, fun q => by rw [h q]⟩

theorem ofOc {s t : State} (h : t.oc = s.oc) : Handled s t :=
  ofCoord (fun q => congrArg (fun oc : Coordinator => oc.positions.get q) h)

theorem ofOffered {s t : State} (h : Offered s t) : Handled s t := ofOc h.oc

/-- A change of the record of one coordinated position that keeps its field-local flag. -/
theorem ofPosition {p : Pos} {s t : State} (h : coordinated (s.coord p).state = true)
    (others : ∀ q, q ≠ p → t.coord q = s.coord q) (own : (t.coord p).fieldLocal = (s.coord p).fieldLocal) : Handled s t := by
  refine ⟨fun q hq => others q (fun e => ?_), fun q => ?_⟩
  · rw [e, h] at hq
    exact absurd hq (by decide)
  · by_cases e : q = p
    · rw [e]
      exact own
    · rw [others q e]

theorem coordinated_of_steered {c : CoordState} (h : steered c = true) : coordinated c = true := by
  cases c <;> first | rfl | exact absurd h Bool.false_ne_true

theorem ownerTaken (p : Pos) (s : State) : Handled s (ownerTaken p s) := by
  by_cases h : steered (s.coord p).state = true
  · exact ofPosition (p := p) (coordinated_of_steered h)
      (fun q hq => (Road.ownerTaken (wide := false) (A := (· = p)) (C := fun _ => True) rfl s).coord q hq)
      (by rw [ownerTaken_coord h])
  · rw [ownerTaken_unsteered (by simpa using h)]
    exact rfl' s

theorem ownerReturned (p : Pos) (s : State) : Handled s (ownerReturned p s) := by
  by_cases h : (s.coord p).state = .preempted
  · refine ofPosition (p := p) (by rw [h]; rfl)
      (fun q hq => (Road.ownerReturned (wide := false) (A := (· = p)) (C := fun _ => True) rfl trivial s).coord q hq) ?_
    cases he : s.imageEntry p with
    | none => rw [ownerReturned_noEntry h he, leaveToLocal_coord]
    | some e => rw [ownerReturned_entry h he]
  · rw [ownerReturned_unpreempted h]
    exact rfl' s

theorem setOwner (p : Pos) (o : Owner) (s : State) : Handled s (setOwner p o s) := by
  have set : Handled s (withOwner p o s) := ofOc rfl
  unfold Machine.setOwner
  dsimp only
  split
  · exact set.trans (ownerTaken p _)
  · split
    · exact set.trans (ownerReturned p _)
    · exact set

theorem handBack (p origin : Pos) (s : State) : Handled s (handBack p origin s) := by
  unfold Machine.handBack
  split
  · exact setOwner p _ s
  · exact rfl' s

theorem sendEnd (p : Pos) (ref : RouteRef) (s : State) : Handled s (sendEnd p ref s).1 := by
  have sent : Handled s (offerTo .routeEnd p (some ref) (withdrawClear p s)).1 :=
    ofOffered ((Offered.withdraw _ s).trans (.offerTo _ _ _ _))
  unfold Machine.sendEnd
  dsimp only
  split
  · exact sent
  · exact sent.trans (handBack p _ _)

theorem endMember (ref : RouteRef) (acc : State × List Pos) (m : Member) : Handled acc.1 (endMember ref acc m).1 := by
  unfold Machine.endMember
  dsimp only
  split
  · exact (ofOffered (.withdraw _ acc.1)).trans (setOwner _ _ _)
  · exact sendEnd _ ref acc.1

theorem endMembers (ref : RouteRef) (members : List Member) (acc : State × List Pos) :
    Handled acc.1 (members.foldl (Machine.endMember ref) acc).1 := by
  induction members generalizing acc with
  | nil => exact rfl' _
  | cons m members ih => exact (endMember ref acc m).trans (ih _)

theorem endRoute (r : Route) (s : State) : Handled s (endRoute r s).1 :=
  (ofOc (s := s) (t := s.withRoutes (fun rs => rs.filter (fun x => x.ref.origin != r.ref.origin))) rfl).trans
    (endMembers r.ref r.members (_, []))

theorem endRouteFrom (p : Pos) (s : State) : Handled s (endRouteFrom p s).1 := by
  unfold Machine.endRouteFrom
  split
  · exact rfl' s
  · exact endRoute _ s

theorem endCall (p : Pos) (cause : EndCause) (s : State) : Handled s (endCall p cause s) :=
  ((endRouteFrom p s).trans (setOwner p _ _)).trans (ofOc rfl)

theorem callLearned (p : Pos) (cause : StartCause) (s : State) : Handled s (callLearned p cause s) := by
  unfold Machine.callLearned
  split
  · exact (setOwner p _ s).trans (ofOc rfl)
  · exact rfl' s

theorem judgePreempting (p : Pos) (flag : Bool) (s : State) : Handled s (judgePreempting p flag s) := by
  unfold Machine.judgePreempting
  split
  · exact callLearned p _ s
  · split
    · exact endCall p _ s
    · exact rfl' s

theorem clearFailed (p : Pos) (ref : RouteRef) (s : State) : Handled s (clearFailed p ref s) := by
  unfold Machine.clearFailed
  split
  · exact (ofOc (s := s) (t := leaveRoute p s) rfl).trans (setOwner p _ _)
  · exact rfl' s

theorem standingLost (p : Pos) (s : State) : Handled s (standingLost p s) := by
  unfold Machine.standingLost
  split
  · exact rfl' s
  · exact endCall p _ s
  · exact (ofOc (s := s) (t := withdrawEnd p (withdrawClear p (leaveRoute p s))) rfl).trans (setOwner p _ _)

end Handled

/-! ### Entries that stay -/

/-- From `s` to `t` the queue grows by `n` entries at most, and where it has room for them, the entries of `P` stay. -/
structure Keeps (P : QueueEntry → Prop) (n : Nat) (s t : State) : Prop where
  length : t.clc.queue.length ≤ s.clc.queue.length + n
  kept : s.clc.queue.length + n ≤ 24 → ∀ e ∈ s.clc.queue, P e → e ∈ t.clc.queue

namespace Keeps

variable {P : QueueEntry → Prop}

theorem ofQueue {n : Nat} {s t : State} (h : t.clc.queue = s.clc.queue) : Keeps P n s t :=
  ⟨by rw [h]; exact Nat.le_add_right _ _, fun _ e he _ => by rw [h]; exact he⟩

theorem rfl' {n : Nat} (s : State) : Keeps P n s s := ofQueue rfl

theorem trans {m n : Nat} {a b c : State} (h : Keeps P m a b) (g : Keeps P n b c) : Keeps P (m + n) a c := by
  have grown := h.length
  refine ⟨by have := g.length; omega, fun room e he hp => g.kept (by omega) e (h.kept (by omega) e he hp) hp⟩

theorem le {m n : Nat} (le : m ≤ n) {s t : State} (h : Keeps P m s t) : Keeps P n s t :=
  ⟨by have := h.length; omega, fun room => h.kept (by omega)⟩

theorem withdraw {w : QueueEntry → Bool} (s : State) (h : ∀ e, P e → w e = false) : Keeps P 0 s (withdraw w s) :=
  ⟨List.length_filter_le _ _, fun _ e he hp => List.mem_filter.2 ⟨he, by rw [h e hp]; rfl⟩⟩

theorem evicted_queue (e : QueueEntry) (s : State) : (evicted e s).clc.queue = s.clc.queue := by
  unfold evicted
  split <;> rfl

theorem offerEntry {e : QueueEntry} (s : State) (h : ∀ x, P x → replaces e.command e.position x = false) :
    Keeps P 1 s (offerEntry e s).1 := by
  have capacity : Config.queueCapacity = 24 := rfl
  unfold Machine.offerEntry
  dsimp only
  split
  · exact rfl' s
  · split
    · exact rfl' s
    · split
      · refine ⟨?_, fun _ x hx hp => mem_joinQueue.2 (.inr (List.mem_filter.2 ⟨hx, by rw [h x hp]; rfl⟩))⟩
        rw [State.withQueue_queue, joinQueue_length]
        exact Nat.succ_le_succ (List.length_filter_le _ _)
      · split
        · refine ⟨?_, fun _ x hx _ => mem_joinQueue.2 (.inr hx)⟩
          rw [State.withQueue_queue, joinQueue_length]
        · split
          · exact rfl' s
          · split
            · exact rfl' s
            · next full _ _ victim rest hv =>
              have shorter := (evictYoungest_some hv).2
              refine ⟨?_, fun room => absurd room (by omega)⟩
              rw [evicted_queue, State.withQueue_queue, joinQueue_length]
              omega

theorem offerTo {c : LineCommand} {p : Pos} (route : Option RouteRef) (s : State)
    (h : ∀ x, P x → replaces c (some p) x = false) : Keeps P 1 s (offerTo c p route s).1 := by
  unfold Machine.offerTo
  split
  · exact rfl' s
  · exact offerEntry s h

theorem withdrawTiming (p : Pos) (s : State) (h : ∀ e, P e → e.command.isTimingSet = false) :
    Keeps P 0 s (withdrawTiming p s) := withdraw s (fun e he => by simp [h e he])

theorem leaveToLocal (p : Pos) (reason : LocalReason) (b : Bool) (s : State) (h : ∀ e, P e → e.command.isTimingSet = false)
    (h' : ∀ e, P e → replaces .runLocal (some p) e = false) : Keeps P 1 s (leaveToLocal p reason b s) := by
  have left : Keeps P 0 s (notePosition p ((Machine.withdrawTiming p s).withCoord p
      (fun c => { c.unsteered (.inLocal reason) with commanded := false }))) :=
    (withdrawTiming p s h).trans (n := 0) (ofQueue rfl)
  unfold Machine.leaveToLocal
  dsimp only
  split
  · exact left.trans (m := 0) (offerTo none _ h')
  · exact left.le (by omega)

theorem ownerReturned (p : Pos) (s : State) (h : ∀ e, P e → e.command.isTimingSet = false)
    (h' : ∀ e, P e → replaces .runLocal (some p) e = false) : Keeps P 1 s (ownerReturned p s) := by
  unfold Machine.ownerReturned
  split
  · split
    · exact ofQueue rfl
    · exact leaveToLocal p _ _ s h h'
  · exact rfl' s

theorem ownerTaken (p : Pos) (s : State) (h : ∀ e, P e → e.command.isTimingSet = false) :
    Keeps P 0 s (ownerTaken p s) := by
  unfold Machine.ownerTaken
  split
  · exact (withdrawTiming p s h).trans (n := 0) (ofQueue rfl)
  · exact rfl' s

theorem setOwner (p : Pos) (o : Owner) (s : State) (h : ∀ e, P e → e.command.isTimingSet = false)
    (h' : ∀ e, P e → replaces .runLocal (some p) e = false) : Keeps P 1 s (setOwner p o s) := by
  have set : Keeps P 0 s (withOwner p o s) := ofQueue rfl
  unfold Machine.setOwner
  dsimp only
  split
  · exact (set.trans (ownerTaken p _ h)).le (by omega)
  · split
    · exact set.trans (m := 0) (ownerReturned p _ h h')
    · exact set.le (by omega)

end Keeps

/-! ### The queue at the end of a handling -/

/-- What an entry is, its standing on the line apart. -/
def QueueEntry.core (e : QueueEntry) : LineCommand × Option Pos × Nat × Option RouteRef × Time :=
  (e.command, e.position, e.address, e.route, e.joined)

theorem arbiterRun_queue (s : State) :
    (arbiterRun s).clc.queue = s.clc.queue ∨
      ∃ e rest, s.clc.queue = e :: rest ∧ s.clc.line = .idle ∧
        (arbiterRun s).clc.queue = { e with onLine := true, attempts := e.attempts + 1 } :: rest := by
  unfold arbiterRun
  split
  · next idle =>
    split
    · next e rest hc => exact .inr ⟨e, rest, Moves.choose_entry hc, idle, rfl⟩
    · unfold beginPoll
      dsimp only
      split <;> exact .inl rfl
    · exact .inl rfl
  · exact .inl rfl

theorem dropBeacon_line (s : State) : (dropBeacon s).clc.line = s.clc.line := by
  unfold dropBeacon
  split <;> rfl

theorem settleLine_queue (s : State) :
    (settleLine s).clc.queue = (dropBeacon s).clc.queue ∨
      ∃ e rest, (dropBeacon s).clc.queue = e :: rest ∧ s.clc.line = .idle ∧
        (settleLine s).clc.queue = { e with onLine := true, attempts := e.attempts + 1 } :: rest := by
  rcases arbiterRun_queue (followSilence (dropDue (dropBeacon s))) with h | ⟨e, rest, split, idle, h⟩
  · exact .inl h
  · exact .inr ⟨e, rest, split, (dropBeacon_line s).symm.trans idle, h⟩

theorem finish_core (s : State) :
    (finish s).clc.queue.map QueueEntry.core = (dropBeacon s).clc.queue.map QueueEntry.core := by
  rcases settleLine_queue s with h | ⟨e, rest, split, -, h⟩
  · exact congrArg (List.map QueueEntry.core) h
  · have queue : (finish s).clc.queue = { e with onLine := true, attempts := e.attempts + 1 } :: rest := h
    rw [queue, split]
    rfl

/-- An entry after the end of a handling is one from before it. -/
theorem mem_finish {s : State} {e : QueueEntry} (h : e ∈ (finish s).clc.queue) :
    ∃ x ∈ s.clc.queue, QueueEntry.core e = QueueEntry.core x := by
  have member := List.mem_map_of_mem (f := QueueEntry.core) h
  rw [finish_core] at member
  obtain ⟨x, hx, same⟩ := List.mem_map.1 member
  refine ⟨x, ?_, same.symm⟩
  unfold dropBeacon at hx
  split at hx
  · exact hx
  · exact List.mem_of_mem_filter hx

/-- An entry other than a BEACON stays over the end of a handling. -/
theorem stays_finish {s : State} {e : QueueEntry} (h : e ∈ s.clc.queue) (hb : e.command ≠ .beacon) :
    ∃ x ∈ (finish s).clc.queue, QueueEntry.core x = QueueEntry.core e := by
  have kept : e ∈ (dropBeacon s).clc.queue := by
    unfold dropBeacon
    split
    · exact h
    · exact List.mem_filter.2 ⟨h, by simpa using hb⟩
  have member := List.mem_map_of_mem (f := QueueEntry.core) kept
  rw [← finish_core] at member
  exact List.mem_map.1 member

theorem core_command {e x : QueueEntry} (h : QueueEntry.core e = QueueEntry.core x) : e.command = x.command :=
  congrArg Prod.fst h

theorem core_position {e x : QueueEntry} (h : QueueEntry.core e = QueueEntry.core x) : e.position = x.position :=
  congrArg (fun c => c.2.1) h

theorem core_route {e x : QueueEntry} (h : QueueEntry.core e = QueueEntry.core x) : e.route = x.route :=
  congrArg (fun c => c.2.2.2.1) h

theorem runLocalQueued_finish {s : State} {p : Pos} (h : runLocalQueued s p) : runLocalQueued (finish s) p := by
  obtain ⟨e, he, hp, hc⟩ := h
  obtain ⟨x, hx, same⟩ := stays_finish he (by rw [hc]; nofun)
  exact ⟨x, hx, (core_position same).trans hp, (core_command same).trans hc⟩

/-- No TIMING-SET for a position stands in the queue. -/
def NoTiming (p : Pos) (s : State) : Prop := ∀ e ∈ s.clc.queue, e.position = some p → e.command.isTimingSet = false

theorem NoTiming.finish {p : Pos} {s : State} (h : NoTiming p s) : NoTiming p (finish s) := fun e he hp => by
  obtain ⟨x, hx, same⟩ := mem_finish he
  rw [core_command same]
  exact h x hx ((core_position same).symm.trans hp)

theorem NoTiming.road {wide : Bool} {A : Pos → Prop} {C : LineCommand → Prop} {p : Pos} {s t : State} (h : NoTiming p s)
    (road : Road wide A C s t) (hC : ∀ c, C c → c.isTimingSet = false) : NoTiming p t := fun e he hp => by
  rcases road.queue e he with old | ⟨hc, -⟩
  · exact h e old hp
  · exact hC _ hc

theorem noTiming_withdrawTiming (p : Pos) (s : State) : NoTiming p (withdrawTiming p s) := fun e he hp => by
  have kept := (List.mem_filter.1 he).2
  simpa [hp] using kept

theorem noTiming_leaveToLocal (p : Pos) (reason : LocalReason) (b : Bool) (s : State) :
    NoTiming p (leaveToLocal p reason b s) := by
  have left : NoTiming p (notePosition p ((withdrawTiming p s).withCoord p
      (fun c => { c.unsteered (.inLocal reason) with commanded := false }))) := noTiming_withdrawTiming p s
  unfold leaveToLocal
  dsimp only
  split
  · exact left.road (Road.offerTo (wide := false) (A := (· = p)) (C := (· = .runLocal)) rfl rfl none _)
      (fun c hc => by rw [hc]; rfl)
  · exact left

theorem noTiming_ownerTaken {p : Pos} {s : State} (h : steered (s.coord p).state = true) : NoTiming p (ownerTaken p s) := by
  unfold ownerTaken
  rw [if_pos h]
  exact noTiming_withdrawTiming p s

end Sys2Proof.Proofs.Roads
end

section
/-! PROOF. Answers to a TIMING-SET (O19), and the layer that the proofs about GOOD replies share. -/

open Sys2Proof Sys2Proof.Machine

namespace Sys2Proof.Proofs.Answers

open Exchanges Roads Coordination

/-! ### The state in which the contents of a GOOD reply find the part -/

/-- The line released, the entry of the exchange gone, and the outcome GOOD taken. -/
def afterGood (p : Pos) (s : State) : State := takeOutcome p true (takeOffLine { s with clc := s.clc.released })

/-- What stands in that state: only the line, the queue, status summaries and the figures of the outcome have changed. -/
structure Good (p : Pos) (s u : State) : Prop where
  pending : u.pending = s.pending
  ctb : u.ctb = s.ctb
  oc : u.oc = s.oc
  pt : u.pt = s.pt
  qw : u.qw = s.qw
  pm : u.pm = s.pm
  pl : u.pl = s.pl
  ps : u.ps = s.ps
  er : u.er = s.er
  config : u.config = s.config
  ident : u.ih.ident = s.ih.ident
  wasAbsent : u.ih.wasAbsent = s.ih.wasAbsent
  clc : { u.clc with summaries := s.clc.summaries } = (takeOffLine { s with clc := s.clc.released }).clc
  mode : u.sli.mode = s.sli.mode
  others : ∀ q, q ≠ p → u.health q = s.health q
  health : u.health p =
    { s.health p with score := (s.health p).score - 1, failures := 0,
                      state := followedState { s.health p with score := (s.health p).score - 1 } }

theorem afterGood_good {p : Pos} {s : State} (h : (s.health p).state = .cutOff ∨ (s.health p).score < 160) :
    Good p s (afterGood p s) := by
  obtain ⟨scored, health, -⟩ := takeOutcome_good (p := p) (s := takeOffLine { s with clc := s.clc.released }) h
  exact ⟨scored.pending, scored.ctb, scored.oc, scored.pt, scored.qw, scored.pm, scored.pl, scored.ps, scored.er,
    scored.config, scored.ident, scored.wasAbsent, congrArg (fun c : LineController => { c with summaries := s.clc.summaries }) scored.clc, scored.mode, scored.others, health⟩

namespace Good

variable {p : Pos} {s u : State}

theorem queue (h : Good p s u) : u.clc.queue = s.clc.queue.filter (fun e => !e.onLine) :=
  (congrArg LineController.queue h.clc :)

theorem line (h : Good p s u) : u.clc.line = .idle := (congrArg LineController.line h.clc :)

theorem accepted (h : Good p s u) : u.clc.accepted = s.clc.accepted := (congrArg LineController.accepted h.clc :)

theorem coord (h : Good p s u) (q : Pos) : u.coord q = s.coord q :=
  congrArg (fun oc : Coordinator => oc.positions.get q) h.oc

theorem owner (h : Good p s u) (q : Pos) : u.owner q = s.owner q :=
  congrArg (fun pm : Priority => pm.owners.get q) h.pm

theorem now (h : Good p s u) : u.now = s.now := congrArg TimeBase.runningTime h.ctb

theorem imageEntry (h : Good p s u) (q : Pos) : u.imageEntry q = s.imageEntry q := by
  unfold State.imageEntry
  rw [h.ps]

theorem identOf (h : Good p s u) (q : Pos) : u.ident q = s.ident q :=
  congrArg (fun v : Vector Ident 12 => v.get q) h.ident

theorem queueLength (h : Good p s u) : u.clc.queue.length ≤ s.clc.queue.length := by
  rw [h.queue]
  exact List.length_filter_le _ _

theorem memQueue (h : Good p s u) {e : QueueEntry} (he : e ∈ u.clc.queue) : e ∈ s.clc.queue :=
  List.mem_of_mem_filter (h.queue ▸ he)

theorem fits (h : Good p s u) {q : Pos} {n : Nat} (fits : runLocalFits s q n) : runLocalFits u q n := by
  obtain ⟨mode, config, room, quiet⟩ := fits
  have shorter := h.queueLength
  exact ⟨h.mode.trans mode, by rw [h.config]; exact config, by omega, fun e he => quiet e (h.memQueue he)⟩

end Good

/-! ### The exchanges of commands -/

theorem exec_ack {s : State} {x : Exchange} {p : Pos} {c : LineCommand} {route : Option RouteRef} (h : awaiting s x p)
    (hw : x.work = .command c route) (hp : c ≠ .probePoll) (hi : c ≠ .identify) (hb : c ≠ .beacon) :
    exec (.ack x.address) s = .next (finish (acked p c route (afterGood p s))) := by
  have contents : ackContents x p = acked p c route := by
    funext u
    unfold ackContents
    rw [hw]
  refine congrArg Host.Outcome.next
    ((onReply_good h rfl (hw ▸ expects_answer (.inl rfl) route hp hi hb)).trans (congrArg finish ?_))
  rw [endGood_plain (by rw [hw]; exact fun r e => hp (by cases e; rfl)), contents]
  rfl

theorem exec_heartbeat {s : State} {x : Exchange} {p : Pos} {c : LineCommand} {route : Option RouteRef} (h : awaiting s x p)
    (hw : x.work = .command c route) (hp : c ≠ .probePoll) (hi : c ≠ .identify) :
    exec (.heartbeat x.address) s = .next (finish (acked p c route (afterGood p s))) := by
  have contents (stood : Bool) : heartbeatContents p x.work stood = acked p c route := by
    funext u
    rw [hw]
    cases c <;> first | rfl | contradiction
  refine congrArg Host.Outcome.next ((onReply_good h rfl (expects_heartbeat _)).trans (congrArg finish ?_))
  rw [endGood_plain (by rw [hw]; exact fun r e => hp (by cases e; rfl)), contents]
  rfl

theorem exec_nak {s : State} {x : Exchange} {p : Pos} {c : LineCommand} {route : Option RouteRef} {code : Nat}
    {reason : NakReason} (h : awaiting s x p) (hw : x.work = .command c route) (hp : c ≠ .probePoll) (hi : c ≠ .identify)
    (hb : c ≠ .beacon) (hr : nakReasonOf code = some reason) :
    exec (.nak x.address code) s = .next (finish (naked p c route reason (afterGood p s))) := by
  have contents : nakContents reason x p = naked p c route reason := by
    funext u
    unfold nakContents
    rw [hw]
  refine congrArg Host.Outcome.next ?_
  rw [nakReply_reason hr, onReply_good h rfl (hw ▸ expects_answer (.inr rfl) route hp hi hb),
    endGood_plain (by rw [hw]; exact fun r e => hp (by cases e; rfl)), contents]
  rfl

theorem ack_leaves {n : Nat} {s t : State} (run : exec (.ack n) s = .next t) : LeavesStores s t :=
  Host.Outcome.next.inj run ▸ (ack_moves n s).leavesStores

theorem heartbeat_leaves {n : Nat} {s t : State} (run : exec (.heartbeat n) s = .next t) : LeavesStores s t :=
  Host.Outcome.next.inj run ▸ (heartbeat_moves n s).leavesStores

theorem nak_leaves {n code : Nat} {s t : State} (run : exec (.nak n code) s = .next t) : LeavesStores s t :=
  Host.Outcome.next.inj run ▸ (nak_moves n code s).leavesStores

/-- An ACK of a command, or the HEARTBEAT in its place, from a state `u` in which only the exchange has ended. -/
theorem exec_acked {i : Instr} {s : State} {x : Exchange} {p : Pos} {c : LineCommand} {route : Option RouteRef}
    (h : awaiting s x p) (hw : x.work = .command c route) (score : (s.health p).score < 160) (hp : c ≠ .probePoll)
    (hi : c ≠ .identify) (hb : c ≠ .beacon) (answer : i = .ack x.address ∨ i = .heartbeat x.address) :
    ∃ u, Good p s u ∧ exec i s = .next (finish (acked p c route u)) ∧ LeavesStores s (finish (acked p c route u)) := by
  refine ⟨afterGood p s, afterGood_good (.inr score), ?_⟩
  rcases answer with rfl | rfl
  · have run := exec_ack h hw hp hi hb
    exact ⟨run, ack_leaves run⟩
  · have run := exec_heartbeat h hw hp hi
    exact ⟨run, heartbeat_leaves run⟩

/-- A NAK of a command, from a state `u` in which only the exchange has ended. -/
theorem exec_naked {s : State} {x : Exchange} {p : Pos} {c : LineCommand} {route : Option RouteRef} {code : Nat}
    {reason : NakReason} (h : awaiting s x p) (hw : x.work = .command c route) (score : (s.health p).score < 160)
    (hp : c ≠ .probePoll) (hi : c ≠ .identify) (hb : c ≠ .beacon) (hr : nakReasonOf code = some reason) :
    ∃ u, Good p s u ∧ exec (.nak x.address code) s = .next (finish (naked p c route reason u)) ∧
      LeavesStores s (finish (naked p c route reason u)) := by
  have run := exec_nak h hw hp hi hb hr
  exact ⟨afterGood p s, afterGood_good (.inr score), run, nak_leaves run⟩

/-! ### What a GOOD reply passes by -/

/-- From `s` to `t` by a GOOD reply that handles the road at positions of `A`: platoons, approach records, the selector and the
router stand, and so do the records and owners of other positions. -/
structure Passed (A : Pos → Prop) (s t : State) : Prop where
  pt : t.pt = s.pt
  qw : t.qw = s.qw
  ps : t.ps = s.ps
  er : t.er = s.er
  coord : ∀ q, ¬ A q → t.coord q = s.coord q
  owner : ∀ q, ¬ A q → t.owner q = s.owner q
  budget : ∀ q, t.budget q = s.budget q

theorem finish_coord (s : State) (q : Pos) : (finish s).coord q = s.coord q :=
  congrArg (fun oc : Coordinator => oc.positions.get q) (settles_finish s).oc

theorem finish_owner (s : State) (q : Pos) : (finish s).owner q = s.owner q :=
  congrArg (fun pm : Priority => pm.owners.get q) (settles_finish s).pm

theorem finish_budget (s : State) (q : Pos) : (finish s).budget q = s.budget q :=
  congrArg (fun pm : Priority => pm.budgets.get q) (settles_finish s).pm

theorem finish_ident (s : State) (q : Pos) : (finish s).ident q = s.ident q :=
  congrArg (fun v : Vector Ident 12 => v.get q) (settles_finish s).ident

theorem finish_health (s : State) (q : Pos) : (finish s).health q = s.health q :=
  congrArg (fun v : Vector Health 12 => v.get q) (settles_finish s).health

theorem Passed.of {A : Pos → Prop} {C : LineCommand → Prop} {p : Pos} {s u v : State} (good : Good p s u)
    (road : Road false A C u v) : Passed A s (finish v) where
  pt := (settles_finish v).pt.trans ((road.pt rfl).trans good.pt)
  qw := (settles_finish v).qw.trans ((road.qw rfl).trans good.qw)
  ps := (settles_finish v).ps.trans (road.ps.trans good.ps)
  er := (settles_finish v).er.trans (road.er.trans good.er)
  coord q hq := (finish_coord v q).trans ((road.coord q hq).trans (good.coord q))
  owner q hq := (finish_owner v q).trans ((road.owner q hq).trans (good.owner q))
  budget q := (finish_budget v q).trans ((road.budget q).trans (congrArg (fun pm : Priority => pm.budgets.get q) good.pm))

/-! ### Answers to a TIMING-SET (R35, R36, R18, R92) -/

theorem timingAcked_coord (p : Pos) (t : TimingSet) (s : State) :
    (timingAcked p t s).coord p =
      if t.nextCycle ≠ t.cycleLength ∧ steered (s.coord p).state = true then
        { s.coord p with
          refusals := 0, measured := none,
          settle := some { stamp := s.now, lapses := later s.now (3 * s.ctb.cycleLength) } }
      else { s.coord p with refusals := 0 } := by
  have first : (s.withCoord p (fun c => { c with refusals := 0 })).coord p = { s.coord p with refusals := 0 } := by
    rw [State.withCoord_coord, if_pos rfl]
  unfold timingAcked
  dsimp only
  rw [first]
  split
  · rw [State.withCoord_coord, if_pos rfl, first]
    rfl
  · exact first

theorem CoordAt.timingAcked (p : Pos) (t : TimingSet) (s : State) : CoordAt p s (timingAcked p t s) := by
  unfold Machine.timingAcked
  dsimp only
  split
  · exact (CoordAt.withCoord p s _).trans (.withCoord p _ _)
  · exact .withCoord p s _

/-- A refusal as it is counted, before the position is given up. -/
def refused (p : Pos) (reason : NakReason) (t : TimingSet) (s : State) : State :=
  let s := s.withCoord p (fun c => { c with refusals := min 4 (c.refusals + 1) })
  raiseNotice (.timingRefused p reason (s.coord p).refusals t.planNumber) s

theorem refused_coord (p : Pos) (reason : NakReason) (t : TimingSet) (s : State) :
    (refused p reason t s).coord p = { s.coord p with refusals := min 4 ((s.coord p).refusals + 1) } := by
  unfold refused
  dsimp only
  rw [raiseNotice_coord, State.withCoord_coord, if_pos rfl]

theorem timingRefused_eq (p : Pos) (reason : NakReason) (t : TimingSet) (s : State) :
    timingRefused p reason t s =
      if 3 ≤ (s.coord p).refusals ∧ coordinated (s.coord p).state = true then
        leaveToLocal p .refusing true (refused p reason t s)
      else refused p reason t s := by
  have count : ∀ n, saturate 4 n = min 4 n := fun n => by
    unfold saturate
    split <;> omega
  have four : ((refused p reason t s).coord p).refusals = 4 ∧ coordinated ((refused p reason t s).coord p).state = true ↔
      3 ≤ (s.coord p).refusals ∧ coordinated (s.coord p).state = true := by
    rw [refused_coord]
    dsimp only
    exact and_congr_left (fun _ => by omega)
  have counted : timingRefused p reason t s =
      if ((refused p reason t s).coord p).refusals = 4 ∧ coordinated ((refused p reason t s).coord p).state = true then
        leaveToLocal p .refusing true (refused p reason t s)
      else refused p reason t s := by
    unfold timingRefused refused
    dsimp only
    simp only [count]
  rw [counted]
  exact if_congr four rfl rfl

theorem Road.refused {A : Pos → Prop} {C : LineCommand → Prop} {p : Pos} (hA : A p) (reason : NakReason) (t : TimingSet)
    (s : State) : Road false A C s (refused p reason t s) :=
  (Road.withCoord hA s _ (by intro c; rfl)).trans (.raiseNotice _ _)

theorem Road.timingRefused {A : Pos → Prop} {C : LineCommand → Prop} {p : Pos} (hA : A p) (hC : C .runLocal)
    (reason : NakReason) (t : TimingSet) (s : State) : Road false A C s (timingRefused p reason t s) := by
  rw [timingRefused_eq]
  split
  · exact (Road.refused hA reason t s).trans (.leaveToLocal hA _ (fun _ => hC) _)
  · exact Road.refused hA reason t s

theorem timingRefused_pm (p : Pos) (reason : NakReason) (t : TimingSet) (s : State) :
    (timingRefused p reason t s).pm = s.pm := by
  rw [timingRefused_eq]
  split
  · exact leaveToLocal_pm p _ _ _
  · rfl

theorem timingNak_counted {reason : NakReason} (h : reason ≠ .preempting) (h' : reason ≠ .localControl) (p : Pos)
    (t : TimingSet) (s : State) : timingNak p t reason s = timingRefused p reason t s := by
  cases reason <;> first | rfl | contradiction

theorem runLocalFits_same {s u : State} {p : Pos} {n : Nat} (h : runLocalFits s p n) (mode : u.sli.mode = s.sli.mode)
    (config : u.config = s.config) (queue : u.clc.queue = s.clc.queue) : runLocalFits u p n := by
  obtain ⟨live, configured, room, quiet⟩ := h
  exact ⟨mode.trans live, by rw [config]; exact configured, by rw [queue]; exact room, by rw [queue]; exact quiet⟩

theorem callLearned_owned {p : Pos} {s : State} (h : s.owner p ≠ .none) (cause : StartCause) : callLearned p cause s = s :=
  if_neg h

theorem callLearned_free {p : Pos} {s : State} (h : s.owner p = .none) (cause : StartCause) :
    callLearned p cause s =
      raiseNotice (.preemptStart p .none cause .noneRequested) (ownerTaken p (withOwner p (.localCall .none) s)) := by
  unfold callLearned
  rw [if_pos h, setOwner_taken (o := .localCall .none) h (by simp)]

theorem callLearned_pm {p : Pos} {s : State} (h : s.owner p = .none) (cause : StartCause) :
    (callLearned p cause s).pm = { s.pm with owners := s.pm.owners.set p.val (.localCall .none) } := by
  rw [callLearned_free h]
  exact ownerTaken_pm p _

theorem timingSet_acked {p : Pos} {x : Exchange} {figures : TimingSet} {route : Option RouteRef} {c : Instr} {s : State}
    (h : awaiting s x p) (hw : x.work = .command (.timingSet figures) route) (score : (s.health p).score < 160)
    (hc : c = .ack x.address ∨ c = .heartbeat x.address) :
    ∃ t, exec c s = .next t ∧
      (figures.nextCycle ≠ figures.cycleLength ∧ steered (s.coord p).state = true →
        t.coord p = { s.coord p with
          refusals := 0, measured := none,
          settle := some { stamp := s.now, lapses := later s.now (3 * s.ctb.cycleLength) } }) ∧
      (¬ (figures.nextCycle ≠ figures.cycleLength ∧ steered (s.coord p).state = true) →
        t.coord p = { s.coord p with refusals := 0 }) ∧
      (∀ q, q ≠ p → t.coord q = s.coord q) ∧ t.pt = s.pt ∧ t.qw = s.qw ∧ t.pm = s.pm ∧ t.er = s.er ∧ LeavesStores s t := by
  obtain ⟨u, good, run, stores⟩ := exec_acked h hw score nofun nofun nofun hc
  have one := CoordAt.timingAcked p figures u
  have settles := settles_finish (timingAcked p figures u)
  have own := (finish_coord _ p).trans (timingAcked_coord p figures u)
  rw [good.coord, good.now, good.ctb] at own
  exact ⟨_, run, fun hs => own.trans (if_pos hs), fun hs => own.trans (if_neg hs),
    fun q hq => (finish_coord _ q).trans ((one.others q hq).trans (good.coord q)),
    settles.pt.trans (one.only.pt.trans good.pt), settles.qw.trans (one.only.qw.trans good.qw),
    settles.pm.trans (one.only.pm.trans good.pm), settles.er.trans (one.only.er.trans good.er), stores⟩

theorem timingSet_refused {p : Pos} {x : Exchange} {figures : TimingSet} {route : Option RouteRef} {code : Nat}
    {reason : NakReason} {s : State} (h : awaiting s x p) (hw : x.work = .command (.timingSet figures) route)
    (score : (s.health p).score < 160) (hr : nakReasonOf code = some reason) (hp : reason ≠ .preempting)
    (hl : reason ≠ .localControl) :
    ∃ t, exec (.nak x.address code) s = .next t ∧ (t.coord p).refusals = min 4 ((s.coord p).refusals + 1) ∧
      (3 ≤ (s.coord p).refusals → coordinated (s.coord p).state = true →
        (t.coord p).state = .inLocal .refusing ∧ (runLocalFits s p 1 → runLocalQueued t p)) ∧
      ((s.coord p).refusals < 3 ∨ coordinated (s.coord p).state = false →
        t.coord p = { s.coord p with refusals := min 4 ((s.coord p).refusals + 1) }) ∧
      (∀ q, q ≠ p → t.coord q = s.coord q) ∧ t.pt = s.pt ∧ t.qw = s.qw ∧ t.pm = s.pm ∧ t.er = s.er ∧ LeavesStores s t := by
  obtain ⟨u, good, run, stores⟩ := exec_naked h hw score nofun nofun nofun hr
  have counted : naked p (.timingSet figures) route reason u = timingRefused p reason figures u :=
    timingNak_counted hp hl p figures u
  rw [counted] at run stores
  have passed := Passed.of good (Road.timingRefused (A := (· = p)) (C := (· = .runLocal)) rfl rfl reason figures u)
  have refusals := refused_coord p reason figures u
  have eq := timingRefused_eq p reason figures u
  rw [good.coord] at refusals eq
  refine ⟨_, run, ?_, fun full coordinates => ?_, fun stays => ?_, passed.coord, passed.pt, passed.qw,
    (settles_finish _).pm.trans ((timingRefused_pm p reason figures u).trans good.pm), passed.er, stores⟩
  · rw [finish_coord, eq]
    split
    · rw [leaveToLocal_coord, refusals]
    · rw [refusals]
  · rw [finish_coord, eq, if_pos ⟨full, coordinates⟩, leaveToLocal_coord]
    refine ⟨rfl, fun fits => runLocalQueued_finish (leaveToLocal_runLocal ?_)⟩
    have road := Road.refused (A := (· = p)) (C := (· = .runLocal)) rfl reason figures u
    exact runLocalFits_same (good.fits fits) road.mode road.config rfl
  · have below : ¬ (3 ≤ (s.coord p).refusals ∧ coordinated (s.coord p).state = true) := by
      rintro ⟨full, coordinates⟩
      rcases stays with few | not
      · omega
      · exact Bool.false_ne_true (not.symm.trans coordinates)
    rw [finish_coord, eq, if_neg below, refusals]

theorem timingSet_preempting {p : Pos} {x : Exchange} {figures : TimingSet} {route : Option RouteRef} {s : State}
    (h : awaiting s x p) (hw : x.work = .command (.timingSet figures) route) (score : (s.health p).score < 160) :
    ∃ t, exec (.nak x.address 2) s = .next t ∧
      (s.owner p ≠ .none → t.pm = s.pm ∧ t.oc = s.oc) ∧
      (s.owner p = .none →
        t.pm = { s.pm with owners := s.pm.owners.set p.val (.localCall .none) } ∧
        (steered (s.coord p).state = false → t.oc = s.oc) ∧
        (steered (s.coord p).state = true →
          t.coord p = { s.coord p with
            state := .preempted, measured := none, settle := none, grant := none, commanded := false })) ∧
      (∀ q, q ≠ p → t.coord q = s.coord q) ∧ t.pt = s.pt ∧ t.qw = s.qw ∧ t.er = s.er ∧ LeavesStores s t := by
  obtain ⟨u, good, run, stores⟩ := exec_naked h hw score nofun nofun nofun (code := 2) (reason := .preempting) rfl
  have learned : naked p (.timingSet figures) route .preempting u = callLearned p .nak u := rfl
  rw [learned] at run stores
  have passed := Passed.of good (Road.callLearned (wide := false) (A := (· = p)) (C := fun _ => False) rfl .nak u)
  have same (q : Pos) : (withOwner p (.localCall .none) u).coord q = s.coord q := good.coord q
  refine ⟨_, run, fun owned => ?_, fun none => ?_, passed.coord, passed.pt, passed.qw, passed.er, stores⟩
  · rw [callLearned_owned (by rwa [good.owner])]
    exact ⟨(settles_finish _).pm.trans good.pm, (settles_finish _).oc.trans good.oc⟩
  · have free : u.owner p = .none := (good.owner p).trans none
    refine ⟨?_, fun unsteered => ?_, fun steers => ?_⟩
    · rw [(settles_finish _).pm, callLearned_pm free, good.pm]
    · rw [(settles_finish _).oc, callLearned_free free]
      exact (congrArg State.oc (ownerTaken_unsteered (by rwa [same]))).trans good.oc
    · rw [finish_coord, callLearned_free free, raiseNotice_coord, ownerTaken_coord (by rwa [same]), same]

theorem timingSet_localControl {p : Pos} {x : Exchange} {figures : TimingSet} {route : Option RouteRef} {s : State}
    (h : awaiting s x p) (hw : x.work = .command (.timingSet figures) route) (score : (s.health p).score < 160) :
    ∃ t, exec (.nak x.address 3) s = .next t ∧
      (coordinated (s.coord p).state = true →
        t.coord p = { s.coord p with
          state := .inLocal .fieldLocal, measured := none, settle := none, grant := none, commanded := false,
          fieldLocal := true } ∧ (runLocalFits s p 1 → runLocalQueued t p)) ∧
      (∀ reason, (s.coord p).state = .inLocal reason →
        t.coord p = { s.coord p with
          state := .inLocal (if reason = .awaitingMark ∨ reason = .free ∨ reason = .notInPlan then .fieldLocal else reason),
          fieldLocal := true }) ∧
      ((s.coord p).state = .unseen → t.coord p = { s.coord p with fieldLocal := true }) ∧
      (∀ q, q ≠ p → t.coord q = s.coord q) ∧ t.pt = s.pt ∧ t.qw = s.qw ∧ t.pm = s.pm ∧ t.er = s.er ∧ LeavesStores s t := by
  obtain ⟨u, good, run, stores⟩ := exec_naked h hw score nofun nofun nofun (code := 3) (reason := .localControl) rfl
  have taken : naked p (.timingSet figures) route .localControl u = fieldLocalSet p u := rfl
  rw [taken] at run stores
  have passed := Passed.of good (Road.fieldLocalSet (wide := false) (A := (· = p)) (C := (· = .runLocal)) rfl rfl u)
  have flagged : (u.withCoord p (fun c => { c with fieldLocal := true })).coord p =
      { s.coord p with fieldLocal := true } := by rw [State.withCoord_coord, if_pos rfl, good.coord]
  refine ⟨_, run, fun coordinates => ?_, fun reason hs => ?_, fun hs => ?_, passed.coord, passed.pt, passed.qw,
    (settles_finish _).pm.trans ((fieldLocalSet_pm p u).trans good.pm), passed.er, stores⟩
  · rw [finish_coord, fieldLocalSet_coordinated (by rwa [good.coord]), leaveToLocal_coord, flagged]
    exact ⟨rfl, fun fits => runLocalQueued_finish
      (leaveToLocal_runLocal (runLocalFits_same (good.fits fits) rfl rfl rfl))⟩
  · rw [finish_coord, fieldLocalSet_local (reason := reason) (by rwa [good.coord]), good.coord]
  · rw [finish_coord, fieldLocalSet_unseen (by rwa [good.coord]), flagged]

/-- Settles O19, answer by answer. -/
theorem timingSetAnswered : Obligations.TimingSetAnswered := by
  unfold Obligations.TimingSetAnswered
  refine ⟨fun p x figures route c s => timingSet_acked, fun p x figures route code reason s => timingSet_refused,
    fun p x figures route s => timingSet_preempting, fun p x figures route s => timingSet_localControl,
    fun p s x hs hl => ?_⟩
  have due : expires ((s.coord p).settle.map Settle.lapses) s = true := by
    rw [hs, Option.map_some, hl]
    exact beq_self_eq_true _
  exact ⟨_, congrArg Host.Outcome.next (if_pos due), settles_finish _⟩

end Sys2Proof.Proofs.Answers
end

section
/-! PROOF. What a STATUS tells of a position: its offset (O17) and its flags (O18). -/

open Sys2Proof Sys2Proof.Machine

namespace Sys2Proof.Proofs.StatusReplies

open Answers Roads Coordination

/-! ### Measurements (R23, R25) -/

theorem measure_unsteered {p : Pos} {s : State} (h : steered (s.coord p).state = false) (n c : Nat) : Machine.measure p n c s = s := by
  unfold Machine.measure
  dsimp only
  exact if_pos (by simp [h])

/-- A STATUS whose figures do not fit the cycle takes the measurement away. -/
theorem measure_misfit {p : Pos} {s : State} {n c : Nat} (h : steered (s.coord p).state = true)
    (misfit : c ≠ s.ctb.cycleLength ∨ n ≥ c) :
    (Machine.measure p n c s).coord p = { s.coord p with
      measured := none,
      state := if (s.coord p).state = .inStep then .seeking .lengthen else (s.coord p).state } := by
  have removed : (s.withCoord p (fun c => { c with measured := none })).coord p = { s.coord p with measured := none } := by
    rw [State.withCoord_coord, if_pos rfl]
  unfold Machine.measure
  dsimp only
  rw [if_neg (by simp [h]), if_pos misfit]
  split
  · rw [notePosition_coord, State.withCoord_coord, if_pos rfl, removed]
  · exact removed

theorem measure_unsettled {p : Pos} {s : State} {n c : Nat} (fits : ¬ (c ≠ s.ctb.cycleLength ∨ n ≥ c))
    (stale : settled (s.coord p).settle (earlier s.now n) = false) : Machine.measure p n c s = s := by
  by_cases h : steered (s.coord p).state = true
  · unfold Machine.measure
    dsimp only
    rw [if_neg (by simp [h]), if_neg fits, if_neg (by simp [stale])]
  · exact measure_unsteered (by simpa using h) n c

/-- A position with the measurement of a STATUS received now, before it is judged. -/
def withMeasured (p : Pos) (offset : Nat) (s : State) : State :=
  s.withCoord p (fun c => { c with measured := some { offset := offset, time := s.now }, settle := none })

theorem withMeasured_coord (p : Pos) (offset : Nat) (s : State) :
    (withMeasured p offset s).coord p =
      { s.coord p with measured := some { offset := offset, time := s.now }, settle := none } := by
  unfold withMeasured
  rw [State.withCoord_coord, if_pos rfl]

theorem measure_settled {p : Pos} {s : State} {n c : Nat} (h : steered (s.coord p).state = true)
    (fits : ¬ (c ≠ s.ctb.cycleLength ∨ n ≥ c)) (fresh : settled (s.coord p).settle (earlier s.now n) = true) :
    Machine.measure p n c s =
      judgeMeasurement p (withMeasured p (modC ((s.cyclePosition : Int) - n) s.ctb.cycleLength) s) := by
  unfold Machine.measure
  dsimp only
  rw [if_neg (by simp [h]), if_neg fits, if_pos fresh]
  rfl

theorem judgeMeasurement_seeking {p : Pos} {s : State} {way : SeekDirection} {t : Target} {m : Measured}
    (hs : (s.coord p).state = .seeking way) (ht : (s.coord p).target = some t) (hm : (s.coord p).measured = some m) :
    (judgeMeasurement p s).coord p = { s.coord p with
      state := if (offsetDiff t.offset m.offset s.ctb.cycleLength).natAbs ≤ s.oc.limits.tolerance then .inStep
        else .seeking (freshDirection p t.offset m.offset s) } := by
  unfold judgeMeasurement
  dsimp only
  rw [hs, ht, hm]
  dsimp only
  split
  · rw [notePosition_coord, State.withCoord_coord, if_pos rfl, ht, hm]
  · rw [State.withCoord_coord, if_pos rfl, ht, hm]

theorem testBand_inStep {p : Pos} {s : State} {t : Target} {m : Measured} (hs : (s.coord p).state = .inStep)
    (ht : (s.coord p).target = some t) (hm : (s.coord p).measured = some m) :
    (testBand p s).coord p = { s.coord p with
      state := if (offsetDiff t.offset m.offset s.ctb.cycleLength).natAbs > s.oc.limits.tolerance + 10 then
        .seeking (freshDirection p t.offset m.offset s) else .inStep } := by
  unfold testBand
  dsimp only
  rw [hs, ht, hm]
  dsimp only
  split
  · rw [notePosition_coord, State.withCoord_coord, if_pos rfl, ht, hm]
  · rw [← hs, ← ht, ← hm]

theorem judgeMeasurement_inStep {p : Pos} {s : State} (hs : (s.coord p).state = .inStep) :
    judgeMeasurement p s = testBand p s := by
  unfold judgeMeasurement
  dsimp only
  rw [hs]

theorem CoordAt.judgeMeasurement (p : Pos) (s : State) : CoordAt p s (judgeMeasurement p s) := by
  unfold Machine.judgeMeasurement
  dsimp only
  split
  · split
    · exact (CoordAt.withCoord p s _).noted
    · exact .withCoord p s _
  · exact .testBand p s
  · exact .rfl' p s

theorem CoordAt.measure (p : Pos) (n c : Nat) (s : State) : CoordAt p s (Machine.measure p n c s) := by
  unfold Machine.measure
  dsimp only
  split
  · exact .rfl' p s
  · split
    · split
      · exact ((CoordAt.withCoord p s _).trans (.withCoord p _ _)).noted
      · exact .withCoord p s _
    · split
      · exact (CoordAt.withCoord p s _).trans (CoordAt.judgeMeasurement p _)
      · exact .rfl' p s

/-- What no measurement changes: everything but the measurement, the settle stamp and the state. -/
theorem judgeMeasurement_rest (p : Pos) (s : State) :
    ∃ state, (judgeMeasurement p s).coord p = { s.coord p with state := state } := by
  unfold judgeMeasurement
  dsimp only
  split
  · split
    · exact ⟨_, by rw [notePosition_coord, State.withCoord_coord, if_pos rfl]⟩
    · exact ⟨_, by rw [State.withCoord_coord, if_pos rfl]⟩
  · rcases testBand_cases p s with h | ⟨t, m, -, -, -, -, h⟩
    · exact ⟨_, by rw [h]⟩
    · exact ⟨_, by rw [h, notePosition_coord, State.withCoord_coord, if_pos rfl]⟩
  · exact ⟨_, rfl⟩

theorem measure_rest (p : Pos) (n c : Nat) (s : State) :
    ∃ state measured settle, (Machine.measure p n c s).coord p =
      { s.coord p with state := state, measured := measured, settle := settle } := by
  by_cases h : steered (s.coord p).state = true
  · by_cases misfit : c ≠ s.ctb.cycleLength ∨ n ≥ c
    · exact ⟨_, _, _, measure_misfit h misfit⟩
    · cases fresh : settled (s.coord p).settle (earlier s.now n) with
      | false => exact ⟨_, _, _, by rw [measure_unsettled misfit fresh]⟩
      | true =>
        obtain ⟨state, eq⟩ := judgeMeasurement_rest p (withMeasured p (modC ((s.cyclePosition : Int) - n) s.ctb.cycleLength) s)
        exact ⟨state, _, _, by rw [measure_settled h misfit fresh, eq, withMeasured_coord]⟩
  · exact ⟨_, _, _, by rw [measure_unsteered (by simpa using h)]⟩

/-- A measurement taken: the steered state follows the distance of the measured offset from the target (R25). -/
theorem measure_taken {p : Pos} {s : State} {n c : Nat} {target : Target} (h : steered (s.coord p).state = true)
    (fits : ¬ (c ≠ s.ctb.cycleLength ∨ n ≥ c)) (fresh : settled (s.coord p).settle (earlier s.now n) = true)
    (ht : (s.coord p).target = some target) :
    let offset := modC ((s.cyclePosition : Int) - n) s.ctb.cycleLength
    let diff := (wrapHalf ((target.offset : Int) - offset) s.ctb.cycleLength).natAbs
    ∃ state, (Machine.measure p n c s).coord p =
        { s.coord p with measured := some { offset := offset, time := s.now }, settle := none, state := state } ∧
      (∀ way, (s.coord p).state = .seeking way → (state = .inStep ↔ diff ≤ s.oc.limits.tolerance)) ∧
      ((s.coord p).state = .inStep → (state = .inStep ↔ diff ≤ s.oc.limits.tolerance + 10)) ∧ steered state = true := by
  intro offset diff
  rw [measure_settled h fits fresh]
  have taken := withMeasured_coord p offset s
  have target' : ((withMeasured p offset s).coord p).target = some target := by rw [taken, ← ht]
  have measured : ((withMeasured p offset s).coord p).measured = some { offset := offset, time := s.now } := by rw [taken]
  have state : ((withMeasured p offset s).coord p).state = (s.coord p).state := by rw [taken]
  cases hs : (s.coord p).state with
  | seeking way =>
    refine ⟨_, (judgeMeasurement_seeking (state.trans hs) target' measured).trans (by rw [taken]), fun _ _ => ?_, nofun, ?_⟩
    · change (if diff ≤ s.oc.limits.tolerance then CoordState.inStep else _) = .inStep ↔ _
      split <;> simp_all
    · split <;> rfl
  | inStep =>
    refine ⟨_, (congrArg (fun t : State => t.coord p) (judgeMeasurement_inStep (state.trans hs))).trans
      ((testBand_inStep (state.trans hs) target' measured).trans (by rw [taken])), nofun, fun _ => ?_, ?_⟩
    · change (if diff > s.oc.limits.tolerance + 10 then _ else CoordState.inStep) = .inStep ↔ _
      split <;> simp_all
    · split <;> rfl
  | unseen => exact absurd (show steered (.unseen) = true from hs ▸ h) Bool.false_ne_true
  | inLocal reason => exact absurd (show steered (.inLocal reason) = true from hs ▸ h) Bool.false_ne_true
  | preempted => exact absurd (show steered (.preempted) = true from hs ▸ h) Bool.false_ne_true

/-! ### A STATUS without records -/

theorem beforeStatus_good {p : Pos} (reply : StatusFields) (stage : SignalStage) {s : State} (h : (s.health p).score < 160) :
    Good p s (beforeStatus p reply stage s) := by
  obtain ⟨pending, ctb, oc, pt, qw, pm, pl, ps, er, config, ident, absent, clc, mode, others, health⟩ :=
    afterGood_good (p := p) (s := s) (.inr h)
  exact ⟨pending, ctb, oc, pt, qw, pm, pl, ps, er, config, ident, absent, clc, mode, others, health⟩

/-- The field-local flag of a STATUS is followed (R18). -/
def followField (p : Pos) (flag : Bool) (s : State) : State := if flag then fieldLocalSet p s else fieldLocalClear p s

theorem takeStatus_noRecords {p : Pos} {reply : StatusFields} (h : reply.records = []) (s : State) :
    takeStatus p reply s =
      let v := followField p (bit reply.flags 0) s
      let w := judgePreempting p (bit reply.flags 1) v
      if steered (v.coord p).state then Machine.measure p reply.localPosition reply.localLength w else w := by
  unfold takeStatus followField
  rw [h]
  dsimp only
  rw [takeRecords_nil]

/-- A STATUS without records that answers a poll, from a state `u` in which only the exchange has ended. -/
theorem exec_status_noRecords {p : Pos} {x : Exchange} {reply : StatusFields} {s : State} (polled : Polled s x p)
    (stage : (stageOf reply.stage).isSome = true) (h : reply.records = []) :
    ∃ u, Good p s u ∧ exec (.status x.address reply) s = .next (finish (takeStatus p reply u)) ∧
      LeavesStores s (finish (takeStatus p reply u)) := by
  obtain ⟨known, hk⟩ := Option.isSome_iff_exists.1 stage
  have run := exec_status_polled polled hk (by rw [h]; exact Nat.zero_le 8)
  exact ⟨_, beforeStatus_good reply known polled.score, run,
    Host.Outcome.next.inj run ▸ (status_moves x.address reply s).leavesStores⟩

/-! ### The offset measured (R23, R25) -/

theorem fieldLocalClear_other {p : Pos} {s : State} (h : (s.coord p).state ≠ .inLocal .fieldLocal) :
    fieldLocalClear p s = s.withCoord p (fun c => { c with fieldLocal := false }) := by
  unfold fieldLocalClear
  dsimp only
  rw [State.withCoord_coord, if_pos rfl]
  exact if_neg h

theorem judgePreempting_unowned {p : Pos} {s : State} (h : s.owner p = .none) : judgePreempting p false s = s := by
  have called : locallyCalled s p = false := by
    unfold locallyCalled
    rw [h]
  unfold judgePreempting
  rw [called]
  rfl

/-- Without flags a steered position without an owner is measured. -/
theorem takeStatus_steered {p : Pos} {reply : StatusFields} {s : State} (h : reply.records = []) (flags : reply.flags = 0)
    (owner : s.owner p = .none) (steers : steered (s.coord p).state = true) :
    takeStatus p reply s =
      Machine.measure p reply.localPosition reply.localLength (s.withCoord p (fun c => { c with fieldLocal := false })) := by
  have clear : followField p false s = s.withCoord p (fun c => { c with fieldLocal := false }) :=
    fieldLocalClear_other (fun e => by rw [e] at steers; exact Bool.false_ne_true steers)
  have zero : bit 0 0 = false := rfl
  have one : bit 0 1 = false := rfl
  rw [takeStatus_noRecords h, flags, zero, one]
  dsimp only
  rw [clear, judgePreempting_unowned (s := s.withCoord p (fun c => { c with fieldLocal := false })) owner,
    State.withCoord_coord, if_pos rfl, if_pos steers]

/-- The state in which a steered position without flags is measured. -/
structure Steers (p : Pos) (s v : State) : Prop where
  good : ∃ u, Good p s u ∧ CoordAt p u v
  own : v.coord p = { s.coord p with fieldLocal := false }

namespace Steers

variable {p : Pos} {s v : State}

theorem ctb (h : Steers p s v) : v.ctb = s.ctb := by
  obtain ⟨u, good, one⟩ := h.good
  exact one.only.ctb.trans good.ctb

theorem limits (h : Steers p s v) : v.oc.limits = s.oc.limits := by
  obtain ⟨u, good, one⟩ := h.good
  exact one.only.limits.trans (congrArg Coordinator.limits good.oc)

theorem steers (h : Steers p s v) (steers : steered (s.coord p).state = true) : steered (v.coord p).state = true := by
  rw [h.own]
  exact steers

theorem now (h : Steers p s v) : v.now = s.now := congrArg TimeBase.runningTime h.ctb

theorem cyclePosition (h : Steers p s v) : v.cyclePosition = s.cyclePosition := by
  unfold State.cyclePosition
  rw [h.now, h.ctb]

theorem beside (h : Steers p s v) (n c : Nat) :
    let t := finish (Machine.measure p n c v)
    (∀ q, q ≠ p → t.coord q = s.coord q) ∧ t.pt = s.pt ∧ t.qw = s.qw ∧ t.pm = s.pm ∧ t.er = s.er := by
  obtain ⟨u, good, one⟩ := h.good
  have changed := one.trans (CoordAt.measure p n c v)
  have settles := settles_finish (Machine.measure p n c v)
  exact ⟨fun q hq => (finish_coord _ q).trans ((changed.others q hq).trans (good.coord q)),
    settles.pt.trans (changed.only.pt.trans good.pt), settles.qw.trans (changed.only.qw.trans good.qw),
    settles.pm.trans (changed.only.pm.trans good.pm), settles.er.trans (changed.only.er.trans good.er)⟩

end Steers

/-- A STATUS without records and flags at a steered position without an owner measures it. -/
theorem exec_status_steered {p : Pos} {x : Exchange} {reply : StatusFields} {s : State} (polled : Polled s x p)
    (stage : (stageOf reply.stage).isSome = true) (h : reply.records = []) (flags : reply.flags = 0)
    (owner : s.owner p = .none) (steers : steered (s.coord p).state = true) :
    ∃ v, Steers p s v ∧
      exec (.status x.address reply) s = .next (finish (Machine.measure p reply.localPosition reply.localLength v)) ∧
      LeavesStores s (finish (Machine.measure p reply.localPosition reply.localLength v)) := by
  obtain ⟨u, good, run, stores⟩ := exec_status_noRecords polled stage h
  rw [takeStatus_steered h flags (by rwa [good.owner]) (by rwa [good.coord])] at run stores
  exact ⟨_, ⟨⟨u, good, .withCoord p u _⟩, by rw [State.withCoord_coord, if_pos rfl, good.coord]⟩, run, stores⟩

theorem status_measures {p : Pos} {x : Exchange} {n plan : Nat} {stage : SignalStage} {code : Nat}
    {target : Target} {s : State} (polled : Polled s x p) (known : stageOf code = some stage) (owner : s.owner p = .none)
    (ht : (s.coord p).target = some target) (within : n < s.ctb.cycleLength)
    (fresh : ∀ stamp, (s.coord p).settle = some stamp → before stamp.stamp (earlier s.now n) = true)
    (steers : steered (s.coord p).state = true) :
    let offset := modC ((s.cyclePosition : Int) - n) s.ctb.cycleLength
    let diff := (wrapHalf ((target.offset : Int) - offset) s.ctb.cycleLength).natAbs
    ∃ t, exec (.status x.address { localPosition := n, localLength := s.ctb.cycleLength, stage := code, flags := 0,
                                   planInUse := plan, records := [] }) s = .next t ∧
      (t.coord p).measured = some { offset := offset, time := s.now } ∧ (t.coord p).settle = none ∧
      (t.coord p).target = (s.coord p).target ∧ (t.coord p).trim = (s.coord p).trim ∧
      (∀ way, (s.coord p).state = .seeking way → ((t.coord p).state = .inStep ↔ diff ≤ s.oc.limits.tolerance)) ∧
      ((s.coord p).state = .inStep → ((t.coord p).state = .inStep ↔ diff ≤ s.oc.limits.tolerance + 10)) ∧
      steered (t.coord p).state = true ∧ (∀ q, q ≠ p → t.coord q = s.coord q) ∧ t.pt = s.pt ∧ t.qw = s.qw ∧ t.pm = s.pm ∧
      t.er = s.er ∧ LeavesStores s t := by
  intro offset diff
  obtain ⟨v, hv, run, stores⟩ := exec_status_steered
    (reply := { localPosition := n, localLength := s.ctb.cycleLength, stage := code, flags := 0, planInUse := plan, records := [] })
    polled (by rw [known]; rfl) rfl rfl owner steers
  obtain ⟨others, pt, qw, pm, er⟩ := hv.beside n s.ctb.cycleLength
  have settles : settled (v.coord p).settle (earlier v.now n) = true := by
    rw [hv.now, hv.own]
    change settled (s.coord p).settle _ = true
    cases hs : (s.coord p).settle with
    | none => rfl
    | some stamp => exact fresh stamp hs
  obtain ⟨state, eq, seeking, inStep, still⟩ := measure_taken (c := s.ctb.cycleLength) (target := target)
    (hv.steers steers) (by rw [hv.ctb]; omega) settles (by rw [hv.own]; exact ht)
  have own : (finish (Machine.measure p n s.ctb.cycleLength v)).coord p = _ := (finish_coord _ p).trans eq
  rw [hv.now, hv.cyclePosition, hv.ctb, hv.own] at own
  rw [hv.own, hv.cyclePosition, hv.ctb, hv.limits] at seeking inStep
  refine ⟨_, run, ?_, ?_, ?_, ?_, ?_, ?_, ?_, others, pt, qw, pm, er, stores⟩ <;> rw [own]
  · exact seeking
  · exact inStep
  · exact still

theorem status_unmeasured {p : Pos} {x : Exchange} {reply : StatusFields} {s : State} (polled : Polled s x p)
    (stage : (stageOf reply.stage).isSome = true) (h : reply.records = []) (flags : reply.flags = 0)
    (owner : s.owner p = .none) (steers : steered (s.coord p).state = true) :
    let fits := reply.localLength = s.ctb.cycleLength ∧ reply.localPosition < reply.localLength
    ∃ t, exec (.status x.address reply) s = .next t ∧
      (¬ fits → (t.coord p).measured = none ∧ (t.coord p).settle = (s.coord p).settle ∧
        (t.coord p).state = (if (s.coord p).state = .inStep then .seeking .lengthen else (s.coord p).state)) ∧
      (fits → ∀ stamp, (s.coord p).settle = some stamp →
        before stamp.stamp (earlier s.now reply.localPosition) = false →
        t.coord p = { s.coord p with fieldLocal := false }) ∧
      (∀ q, q ≠ p → t.coord q = s.coord q) ∧ t.pt = s.pt ∧ t.qw = s.qw ∧ t.pm = s.pm ∧ t.er = s.er ∧ LeavesStores s t := by
  intro fits
  obtain ⟨v, hv, run, stores⟩ := exec_status_steered polled stage h flags owner steers
  obtain ⟨others, pt, qw, pm, er⟩ := hv.beside reply.localPosition reply.localLength
  refine ⟨_, run, fun misfit => ?_, fun fit stamp hs old => ?_, others, pt, qw, pm, er, stores⟩
  · have outside : reply.localLength ≠ v.ctb.cycleLength ∨ reply.localPosition ≥ reply.localLength := by
      rw [hv.ctb]
      by_contra inside
      exact misfit ⟨by omega, by omega⟩
    rw [finish_coord, measure_misfit (hv.steers steers) outside, hv.own]
    exact ⟨rfl, rfl, rfl⟩
  · obtain ⟨length, position⟩ := fit
    have stale : settled (v.coord p).settle (earlier v.now reply.localPosition) = false := by
      rw [hv.now, hv.own]
      change settled (s.coord p).settle _ = false
      rw [hs]
      exact old
    rw [finish_coord, measure_unsettled (by rw [hv.ctb]; omega) stale, hv.own]

end Sys2Proof.Proofs.StatusReplies
end

section
/-! PROOF. What the end of a call does to the calling position and to the route table; the flags of a STATUS (O18). -/

open Sys2Proof Sys2Proof.Machine

namespace Sys2Proof.Proofs.StatusReplies

open Answers Roads Coordination

/-! ### The route table at the end of a route (R89) -/

theorem handBack_routes (p origin : Pos) (s : State) : (handBack p origin s).pm.routes = s.pm.routes := by
  unfold handBack
  split
  · exact setOwner_routes p _ s
  · rfl

theorem sendEnd_routes (p : Pos) (ref : RouteRef) (s : State) : (sendEnd p ref s).1.pm.routes = s.pm.routes := by
  have offered : (offerTo .routeEnd p (some ref) (withdrawClear p s)).1.pm = s.pm :=
    ((Offered.withdraw _ s).trans (.offerTo _ _ _ _)).pm
  unfold sendEnd
  dsimp only
  split
  · rw [offered]
  · rw [handBack_routes, offered]

theorem endMember_routes (ref : RouteRef) (acc : State × List Pos) (m : Member) :
    (endMember ref acc m).1.pm.routes = acc.1.pm.routes := by
  unfold endMember
  dsimp only
  split
  · exact setOwner_routes _ _ _
  · exact sendEnd_routes _ ref acc.1

theorem endMembers_routes (ref : RouteRef) (members : List Member) (acc : State × List Pos) :
    (members.foldl (endMember ref) acc).1.pm.routes = acc.1.pm.routes := by
  induction members generalizing acc with
  | nil => rfl
  | cons m members ih => exact (ih _).trans (endMember_routes ref acc m)

theorem endRoute_routes (r : Route) (s : State) :
    (endRoute r s).1.pm.routes = s.pm.routes.filter (fun x => x.ref.origin != r.ref.origin) :=
  endMembers_routes r.ref r.members _

theorem routeFrom_origin {p : Pos} {s : State} {r : Route} (h : s.pm.routeFrom p = some r) : r.ref.origin = p := by
  simpa using List.find?_some h

theorem endRouteFrom_none {p : Pos} {s : State} (h : s.pm.routeFrom p = none) : endRouteFrom p s = (s, []) := by
  unfold endRouteFrom
  rw [h]

theorem endRouteFrom_routes (p : Pos) (s : State) :
    (endRouteFrom p s).1.pm.routes = s.pm.routes.filter (fun x => x.ref.origin != p) := by
  unfold endRouteFrom
  split
  · next none =>
    have others : ∀ r ∈ s.pm.routes, (r.ref.origin != p) = true := fun r hr => by
      simpa using List.find?_eq_none.1 none r hr
    exact (List.filter_eq_self.2 others).symm
  · next r some => rw [endRoute_routes, routeFrom_origin some]

theorem endCall_routes (p : Pos) (cause : EndCause) (s : State) :
    (endCall p cause s).pm.routes = s.pm.routes.filter (fun x => x.ref.origin != p) :=
  (setOwner_routes p .none (endRouteFrom p s).1).trans (endRouteFrom_routes p s)

theorem endCall_owner (p : Pos) (cause : EndCause) (s : State) : (endCall p cause s).owner p = .none :=
  (setOwner_owner p p .none (endRouteFrom p s).1).trans (if_pos rfl)

/-! ### The calling position at the end of its call (R21, R88) -/

/-- From `s`, in which `p` has an owner, to `t`: either that owner stands, or it has gone and the position has been returned. -/
structure Returning (p : Pos) (s t : State) : Prop where
  ctb : t.ctb = s.ctb
  entry : t.imageEntry p = s.imageEntry p
  coord : (t.owner p ≠ .none ∧ t.coord p = s.coord p) ∨ (t.owner p = .none ∧ t.coord p = (ownerReturned p s).coord p)

theorem ownerReturned_congr {p : Pos} {s t : State} (ctb : t.ctb = s.ctb) (entry : t.imageEntry p = s.imageEntry p)
    (coord : t.coord p = s.coord p) : (ownerReturned p t).coord p = (ownerReturned p s).coord p := by
  by_cases h : (s.coord p).state = .preempted
  · have h' : (t.coord p).state = .preempted := by rw [coord, h]
    cases he : s.imageEntry p with
    | none =>
      rw [ownerReturned_noEntry h he, ownerReturned_noEntry h' (entry.trans he), leaveToLocal_coord, leaveToLocal_coord, coord]
    | some e => rw [ownerReturned_entry h he, ownerReturned_entry h' (entry.trans he), coord, ctb]
  · rw [ownerReturned_unpreempted h, ownerReturned_unpreempted (by rwa [coord]), coord]

namespace Returning

variable {p : Pos} {s t u : State}

theorem start (h : s.owner p ≠ .none) : Returning p s s := ⟨rfl, rfl, .inl ⟨h, rfl⟩⟩

theorem same (h : Returning p s t) (ctb : u.ctb = t.ctb) (ps : u.ps = t.ps) (owner : u.owner p = t.owner p)
    (coord : u.coord p = t.coord p) : Returning p s u where
  ctb := ctb.trans h.ctb
  entry := by
    rw [← h.entry]
    unfold State.imageEntry
    rw [ps]
  coord := by rw [owner, coord]; exact h.coord

theorem ofOffered (h : Returning p s t) (offered : Offered t u) : Returning p s u :=
  h.same offered.ctb offered.ps (congrArg (fun pm : Priority => pm.owners.get p) offered.pm)
    (congrArg (fun oc : Coordinator => oc.positions.get p) offered.oc)

theorem setOwner_none (h : Returning p s t) (q : Pos) : Returning p s (setOwner q .none t) := by
  have road : Road false (· = q) (fun _ => True) t (setOwner q .none t) :=
    Road.setOwner (A := (· = q)) rfl (fun _ => trivial) t
  by_cases e : q = p
  · subst e
    refine ⟨road.ctb.trans h.ctb, (road.imageEntry q).trans h.entry, .inr ⟨(setOwner_owner q q .none t).trans (if_pos rfl), ?_⟩⟩
    rcases h.coord with ⟨owned, kept⟩ | ⟨free, done⟩
    · rw [Roads.setOwner_none owned]
      exact ownerReturned_congr h.ctb h.entry kept
    · rw [setOwner_same (by simp [free])]
      exact done
  · exact h.same road.ctb road.ps (road.owner p (Ne.symm e)) (road.coord p (Ne.symm e))

theorem handBack (h : Returning p s t) (q origin : Pos) : Returning p s (handBack q origin t) := by
  unfold Machine.handBack
  split
  · exact h.setOwner_none q
  · exact h

theorem sendEnd (h : Returning p s t) (q : Pos) (ref : RouteRef) : Returning p s (sendEnd q ref t).1 := by
  have sent := h.ofOffered ((Offered.withdraw (fun e => e.position == some q && e.command.isRouteClear) t).trans
    (.offerTo .routeEnd q (some ref) _))
  unfold Machine.sendEnd
  dsimp only
  split
  · exact sent
  · exact sent.handBack q _

theorem endMember {acc : State × List Pos} (h : Returning p s acc.1) (ref : RouteRef) (m : Member) :
    Returning p s (endMember ref acc m).1 := by
  unfold Machine.endMember
  dsimp only
  split
  · exact (h.ofOffered (.withdraw _ _)).setOwner_none _
  · exact h.sendEnd _ ref

theorem endMembers {acc : State × List Pos} (h : Returning p s acc.1) (ref : RouteRef) (members : List Member) :
    Returning p s (members.foldl (Machine.endMember ref) acc).1 := by
  induction members generalizing acc with
  | nil => exact h
  | cons m members ih => exact ih (h.endMember ref m)

theorem endRouteFrom (h : Returning p s t) (q : Pos) : Returning p s (endRouteFrom q t).1 := by
  unfold Machine.endRouteFrom
  split
  · exact h
  · next r _ =>
    exact endMembers (acc := (t.withRoutes (fun rs => rs.filter (fun x => x.ref.origin != r.ref.origin)), []))
      (h.same rfl rfl rfl rfl) r.ref r.members

end Returning

/-- The end of a call returns the calling position, whatever the end of its route did to it. -/
theorem endCall_coord {p : Pos} {s : State} (h : s.owner p ≠ .none) (cause : EndCause) :
    (endCall p cause s).coord p = (ownerReturned p s).coord p := by
  have returned := ((Returning.start h).endRouteFrom p).setOwner_none p
  rcases returned.coord with ⟨owned, -⟩ | ⟨-, done⟩
  · exact absurd ((setOwner_owner p p .none _).trans (if_pos rfl)) owned
  · exact done

/-! ### The PREEMPTING flag (R88, R92) -/

theorem judgePreempting_set (p : Pos) (s : State) : judgePreempting p true s = callLearned p .flag s := rfl

theorem judgePreempting_called {p : Pos} {s : State} {d : EventDirection} (h : s.owner p = .localCall d) :
    judgePreempting p false s = endCall p .flag s := by
  have called : locallyCalled s p = true := by
    unfold locallyCalled
    rw [h]
  unfold judgePreempting
  rw [called]
  rfl

theorem judgePreempting_uncalled {p : Pos} {s : State} (h : ∀ d, s.owner p ≠ .localCall d) : judgePreempting p false s = s := by
  have called : locallyCalled s p = false := by
    unfold locallyCalled
    split
    · next d hd => exact absurd hd (h d)
    · rfl
  unfold judgePreempting
  rw [called]
  rfl

/-- At a position that is not coordinated and has no route, the flag leaves the queue. -/
theorem judgePreempting_queue {p : Pos} {s : State} (h : coordinated (s.coord p).state = false)
    (route : s.pm.routeFrom p = none) (flag : Bool) : (judgePreempting p flag s).clc.queue = s.clc.queue := by
  have unsteered : steered (s.coord p).state = false := by
    cases hs : steered (s.coord p).state with
    | false => rfl
    | true => exact absurd (h.symm.trans (Handled.coordinated_of_steered hs)) Bool.false_ne_true
  have unpreempted : (s.coord p).state ≠ .preempted := fun e => by
    rw [e] at h
    exact absurd h (by decide)
  cases flag with
  | true =>
    rw [judgePreempting_set]
    by_cases owner : s.owner p = .none
    · rw [callLearned_free owner, ownerTaken_unsteered (s := withOwner p (.localCall .none) s) unsteered]
      rfl
    · rw [callLearned_owned owner]
  | false =>
    by_cases call : ∃ d, s.owner p = .localCall d
    · obtain ⟨d, hd⟩ := call
      have returned : setOwner p .none s = withOwner p .none s :=
        (setOwner_none (by rw [hd]; nofun)).trans (ownerReturned_unpreempted (s := withOwner p .none s) unpreempted)
      rw [judgePreempting_called hd]
      unfold endCall
      rw [endRouteFrom_none route, raiseNotice_clc, returned]
      rfl
    · rw [judgePreempting_uncalled (fun d hd => call ⟨d, hd⟩)]

/-! ### The flags of a STATUS (R18, R88, R92) -/

theorem Road.ofCoordAt {wide : Bool} {A : Pos → Prop} {C : LineCommand → Prop} {p : Pos} {s t : State} (hA : A p)
    (h : CoordAt p s t) (trim : (t.coord p).trim = (s.coord p).trim) : Road wide A C s t where
  pending := h.only.pending
  ctb := h.only.ctb
  limits := h.only.limits
  pt _ := h.only.pt
  qw _ := h.only.qw
  pl := h.only.pl
  ps := h.only.ps
  er := h.only.er
  config := h.only.config
  budgets := by rw [h.only.pm]
  policy := by rw [h.only.pm]
  accepted := by rw [h.only.clc]
  outcomes := by
    constructor <;> first | rw [h.only.ih] | rw [h.only.clc] | exact (congrArg Supervisory.draining h.only.sli :)
  sli := h.only.sli
  ident q := by unfold State.ident; rw [h.only.ih]
  retry q := .inl (by unfold State.ident; rw [h.only.ih])
  trim q := by
    by_cases e : q = p
    · rw [e, trim]
    · rw [h.others q e]
  coord q hq := h.others q (fun e => hq (e ▸ hA))
  owner q _ := by unfold State.owner; rw [h.only.pm]
  queue e he := .inl (by rwa [h.only.clc] at he)

/-- The positions that a STATUS of `p` may concern: `p` itself and the members of routes. -/
def onRoutes (p : Pos) (s : State) (q : Pos) : Prop := q = p ∨ ∃ r ∈ s.pm.routes, ∃ m ∈ r.members, m.position = q

/-- The commands that the flags of a STATUS may offer. -/
def releases (c : LineCommand) : Prop := c = .runLocal ∨ c = .routeEnd

theorem Road.followField {wide : Bool} {A : Pos → Prop} {p : Pos} (hA : A p) (flag : Bool) (s : State) :
    Road wide A releases s (followField p flag s) := by
  cases flag with
  | true => exact .fieldLocalSet hA (.inl rfl) s
  | false => exact .fieldLocalClear hA s

theorem followField_pm (p : Pos) (flag : Bool) (s : State) : (followField p flag s).pm = s.pm := by
  cases flag with
  | true => exact fieldLocalSet_pm p s
  | false => exact fieldLocalClear_pm p s

theorem Road.judgePreempting {wide : Bool} {A : Pos → Prop} {p : Pos} {s : State} (hp : A p)
    (hA : ∀ r, s.pm.routeFrom p = some r → ∀ m ∈ r.members, A m.position) (flag : Bool) :
    Road wide A releases s (judgePreempting p flag s) := by
  unfold Machine.judgePreempting
  split
  · exact .callLearned hp _ s
  · split
    · exact .endCall hp hA (.inr rfl) (.inl rfl) _
    · exact .rfl' s

/-- A STATUS without records, from its exchange `u` on: the field-local flag `v`, the PREEMPTING flag `w`, the measurement `t`. -/
structure Followed (p : Pos) (reply : StatusFields) (s u v w t : State) : Prop where
  good : Good p s u
  field : v = followField p (bit reply.flags 0) u
  judged : w = judgePreempting p (bit reply.flags 1) v
  last : CoordAt p w t
  rests : steered (v.coord p).state = false ∨ steered (w.coord p).state = false → t = w
  figures : ∃ state measured settle, t.coord p = { w.coord p with state := state, measured := measured, settle := settle }

theorem exec_status_followed {p : Pos} {x : Exchange} {reply : StatusFields} {s : State} (polled : Polled s x p)
    (stage : (stageOf reply.stage).isSome = true) (h : reply.records = []) :
    ∃ u v w t, Followed p reply s u v w t ∧ exec (.status x.address reply) s = .next (finish t) ∧
      LeavesStores s (finish t) := by
  obtain ⟨u, good, run, stores⟩ := exec_status_noRecords polled stage h
  refine ⟨u, _, _, _, ⟨good, rfl, rfl, ?_, fun rests => ?_, ?_⟩, run, stores⟩
  · rw [takeStatus_noRecords h]
    dsimp only
    split
    · exact CoordAt.measure p _ _ _
    · exact .rfl' p _
  · rw [takeStatus_noRecords h]
    dsimp only
    split
    · next steers =>
      rcases rests with rests | rests
      · exact absurd (rests.symm.trans steers) Bool.false_ne_true
      · exact measure_unsteered rests _ _
    · rfl
  · rw [takeStatus_noRecords h]
    dsimp only
    split
    · exact measure_rest p _ _ _
    · exact ⟨_, _, _, rfl⟩

namespace Followed

variable {p : Pos} {reply : StatusFields} {s u v w t : State}

theorem field_pm (h : Followed p reply s u v w t) : v.pm = s.pm := by
  rw [h.field, followField_pm, h.good.pm]

theorem road (h : Followed p reply s u v w t) : Road false (onRoutes p s) releases u t := by
  have field : Road false (onRoutes p s) releases u v := h.field ▸ Road.followField (.inl rfl) _ u
  have members : ∀ r, v.pm.routeFrom p = some r → ∀ m ∈ r.members, onRoutes p s m.position := fun r hr m hm => by
    rw [h.field_pm] at hr
    exact .inr ⟨r, List.mem_of_find?_eq_some hr, m, hm, rfl⟩
  have judged : Road false (onRoutes p s) releases v w := h.judged ▸ Road.judgePreempting (.inl rfl) members _
  obtain ⟨state, measured, settle, figures⟩ := h.figures
  exact (field.trans judged).trans (Road.ofCoordAt (.inl rfl) h.last (by rw [figures]))

theorem handled (h : Followed p reply s u v w t) : Handled v w := h.judged ▸ Handled.judgePreempting p _ v

/-- A position that the field-local flag leaves uncoordinated keeps the record it then has. -/
theorem coord_rests (h : Followed p reply s u v w t) (rests : coordinated (v.coord p).state = false) :
    t.coord p = v.coord p := by
  have unsteered : steered (v.coord p).state = false := by
    cases hs : steered (v.coord p).state with
    | false => rfl
    | true => exact absurd (rests.symm.trans (Handled.coordinated_of_steered hs)) Bool.false_ne_true
  rw [h.rests (.inl unsteered), h.handled.rests p rests]

theorem fieldLocal (h : Followed p reply s u v w t) : (t.coord p).fieldLocal = (v.coord p).fieldLocal := by
  obtain ⟨state, measured, settle, figures⟩ := h.figures
  rw [figures]
  exact h.handled.fieldLocal p

theorem pm (h : Followed p reply s u v w t) : t.pm = w.pm := h.last.only.pm

theorem queue (h : Followed p reply s u v w t) (rests : coordinated (v.coord p).state = false)
    (route : s.pm.routeFrom p = none) : t.clc.queue = v.clc.queue := by
  rw [h.last.only.clc, h.judged]
  exact judgePreempting_queue rests (by rw [h.field_pm]; exact route) _

theorem noTiming (h : Followed p reply s u v w t) (none : NoTiming p v ∨ NoTiming p w) : NoTiming p t := by
  have fresh : ∀ c, releases c → c.isTimingSet = false := by rintro c (rfl | rfl) <;> rfl
  have judged : Road false (fun _ => True) releases v w := h.judged ▸ Road.judgePreempting trivial (fun _ _ _ _ => trivial) _
  have last : t.clc = w.clc := h.last.only.clc
  have atW : NoTiming p w := none.elim (fun atV => atV.road judged fresh) id
  intro e he
  rw [last] at he
  exact atW e he

end Followed

/-- FIELD-LOCAL set (R18). -/
theorem status_fieldLocal {p : Pos} {reply : StatusFields} {s u v w t : State} (h : Followed p reply s u v w t)
    (flag : bit reply.flags 0 = true) :
    (t.coord p).fieldLocal = true ∧
    (coordinated (s.coord p).state = true →
      t.coord p = { s.coord p with
        state := .inLocal .fieldLocal, measured := none, settle := none, grant := none, commanded := false,
        fieldLocal := true } ∧
      NoTiming p t ∧ (runLocalFits s p 1 → s.pm.routeFrom p = none → runLocalQueued t p)) ∧
    (∀ reason, (s.coord p).state = .inLocal reason →
      (t.coord p).state = .inLocal
        (if reason = .awaitingMark ∨ reason = .free ∨ reason = .notInPlan then .fieldLocal else reason)) := by
  have set : v = fieldLocalSet p u := by rw [h.field, flag]; rfl
  have flagged : (u.withCoord p (fun c => { c with fieldLocal := true })).coord p =
      { s.coord p with fieldLocal := true } := by rw [State.withCoord_coord, if_pos rfl, h.good.coord]
  have atLocal (reason : LocalReason) (hs : (s.coord p).state = .inLocal reason) := by
    have own := fieldLocalSet_local (p := p) (s := u) (reason := reason) (by rwa [h.good.coord])
    rw [← set, h.good.coord] at own
    exact own
  have coordinatedSet (hs : coordinated (s.coord p).state = true) :
      v = leaveToLocal p .fieldLocal true (u.withCoord p (fun c => { c with fieldLocal := true })) :=
    set.trans (fieldLocalSet_coordinated (by rwa [h.good.coord]))
  have left (hs : coordinated (s.coord p).state = true) : v.coord p = { s.coord p with
      state := .inLocal .fieldLocal, measured := none, settle := none, grant := none, commanded := false,
      fieldLocal := true } := by rw [coordinatedSet hs, leaveToLocal_coord, flagged]
  refine ⟨?_, fun hs => ?_, fun reason hs => ?_⟩
  · rw [h.fieldLocal]
    cases hs : (s.coord p).state with
    | unseen => rw [set, fieldLocalSet_unseen (by rwa [h.good.coord]), flagged]
    | inLocal reason => rw [atLocal reason hs]
    | seeking way => rw [left (by rw [hs]; rfl)]
    | inStep => rw [left (by rw [hs]; rfl)]
    | preempted => rw [left (by rw [hs]; rfl)]
  · have rests : coordinated (v.coord p).state = false := by rw [left hs]; rfl
    refine ⟨(h.coord_rests rests).trans (left hs), h.noTiming (.inl ?_), fun fits route => ?_⟩
    · rw [coordinatedSet hs]
      exact noTiming_leaveToLocal p _ _ _
    · have queued : runLocalQueued v p := by
        rw [coordinatedSet hs]
        exact leaveToLocal_runLocal (runLocalFits_same (h.good.fits fits) rfl rfl rfl)
      unfold runLocalQueued
      rw [h.queue rests route]
      exact queued
  · rw [h.coord_rests (by rw [atLocal reason hs]; rfl), atLocal reason hs]

theorem Followed.cleared {p : Pos} {reply : StatusFields} {s u v w t : State} (h : Followed p reply s u v w t)
    (flag : bit reply.flags 0 = false) : v.coord p = { s.coord p with
      state := if (s.coord p).state = .inLocal .fieldLocal then .inLocal .awaitingMark else (s.coord p).state,
      fieldLocal := false } := by
  rw [h.field, flag]
  exact (fieldLocalClear_coord p u).trans (by rw [h.good.coord])

/-- FIELD-LOCAL clear (R18). -/
theorem status_fieldClear {p : Pos} {reply : StatusFields} {s u v w t : State} (h : Followed p reply s u v w t)
    (flag : bit reply.flags 0 = false) :
    (t.coord p).fieldLocal = false ∧
    ∀ reason, (s.coord p).state = .inLocal reason →
      (t.coord p).state = .inLocal (if reason = .fieldLocal then .awaitingMark else reason) := by
  have own := h.cleared flag
  refine ⟨by rw [h.fieldLocal, own], fun reason hs => ?_⟩
  have state : (v.coord p).state = .inLocal (if reason = .fieldLocal then .awaitingMark else reason) := by
    rw [own, hs]
    by_cases e : reason = .fieldLocal
    · rw [if_pos e, e]
      rfl
    · rw [if_neg e]
      exact if_neg (fun k => e (CoordState.inLocal.inj k))
  rw [h.coord_rests (by rw [state]; rfl), state]

/-- PREEMPTING set (R92). -/
theorem status_preempting {p : Pos} {reply : StatusFields} {s u v w t : State} (h : Followed p reply s u v w t)
    (flag : bit reply.flags 1 = true) :
    (s.owner p ≠ .none → t.pm = s.pm) ∧
    (s.owner p = .none →
      t.pm = { s.pm with owners := s.pm.owners.set p.val (.localCall .none) } ∧
      (bit reply.flags 0 = false → steered (s.coord p).state = true →
        t.coord p = { s.coord p with
          state := .preempted, measured := none, settle := none, grant := none, commanded := false,
          fieldLocal := false } ∧ NoTiming p t)) := by
  have judged : w = callLearned p .flag v := by rw [h.judged, flag, judgePreempting_set]
  have owner : v.owner p = s.owner p := congrArg (fun pm : Priority => pm.owners.get p) h.field_pm
  refine ⟨fun owned => ?_, fun free => ⟨?_, fun clear steers => ?_⟩⟩
  · rw [h.pm, judged, callLearned_owned (by rwa [owner]), h.field_pm]
  · rw [h.pm, judged, callLearned_pm (owner.trans free), h.field_pm]
  · have notLocal : (s.coord p).state ≠ .inLocal .fieldLocal := fun e => by
      rw [e] at steers
      exact Bool.false_ne_true steers
    have own : v.coord p = { s.coord p with fieldLocal := false } := by rw [h.cleared clear, if_neg notLocal]
    have steers' : steered (v.coord p).state = true := by rw [own]; exact steers
    have taken : w = raiseNotice (.preemptStart p .none .flag .noneRequested)
        (ownerTaken p (withOwner p (.localCall .none) v)) := judged.trans (callLearned_free (owner.trans free) _)
    have preempted : w.coord p = { v.coord p with
        state := .preempted, measured := none, settle := none, grant := none, commanded := false } := by
      rw [taken, raiseNotice_coord]
      exact ownerTaken_coord (s := withOwner p (.localCall .none) v) steers'
    refine ⟨?_, h.noTiming (.inr ?_)⟩
    · rw [h.rests (.inr (by rw [preempted]; rfl)), preempted, own]
    · rw [taken]
      exact noTiming_ownerTaken (s := withOwner p (.localCall .none) v) steers'

/-- PREEMPTING clear (R88). -/
theorem status_preemptingClear {p : Pos} {reply : StatusFields} {s u v w t : State} (h : Followed p reply s u v w t)
    (flag : bit reply.flags 1 = false) :
    ((∀ d, s.owner p ≠ .localCall d) → t.pm = s.pm) ∧
    (∀ d, s.owner p = .localCall d → t.owner p = .none ∧
      t.pm.routes = s.pm.routes.filter (fun r => r.ref.origin != p) ∧
      (bit reply.flags 0 = false → (s.coord p).state = .preempted →
        (∀ e, s.imageEntry p = some e →
          t.coord p = { s.coord p with
            state := .seeking .lengthen, measured := none, commanded := false, fieldLocal := false,
            target := some (targetOf e (s.coord p).trim s.ctb.cycleLength) }) ∧
        (s.imageEntry p = none → (t.coord p).state = .inLocal .notInPlan ∧ (t.coord p).measured = none ∧
          (runLocalFits s p 1 → s.pm.routeFrom p = none → runLocalQueued t p)))) := by
  have owner : v.owner p = s.owner p := congrArg (fun pm : Priority => pm.owners.get p) h.field_pm
  have field : Road false (onRoutes p s) releases u v := h.field ▸ Road.followField (.inl rfl) _ u
  have entry : v.imageEntry p = s.imageEntry p := (field.imageEntry p).trans (h.good.imageEntry p)
  refine ⟨fun uncalled => ?_, fun d called => ?_⟩
  · rw [h.pm, h.judged, flag, judgePreempting_uncalled (fun d => by rw [owner]; exact uncalled d), h.field_pm]
  · have judged : w = endCall p .flag v := by rw [h.judged, flag, judgePreempting_called (owner.trans called)]
    refine ⟨?_, ?_, fun clear preempted => ?_⟩
    · unfold State.owner
      rw [h.pm, judged]
      exact endCall_owner p .flag v
    · rw [h.pm, judged, endCall_routes, h.field_pm]
    · have own : v.coord p = { s.coord p with fieldLocal := false } := by
        rw [h.cleared clear, if_neg (by rw [preempted]; nofun)]
      have preempted' : (v.coord p).state = .preempted := by rw [own]; exact preempted
      have kept : t = w := h.rests (.inl (by rw [preempted']; rfl))
      have returned : t.coord p = (ownerReturned p v).coord p := by
        rw [kept, judged]
        exact endCall_coord (by rw [owner, called]; nofun) .flag
      refine ⟨fun e he => ?_, fun none => ?_⟩
      · rw [returned, ownerReturned_entry preempted' (entry.trans he), own, field.ctb, h.good.ctb]
      · rw [returned, ownerReturned_noEntry preempted' (entry.trans none), leaveToLocal_coord]
        refine ⟨rfl, rfl, fun fits route => ?_⟩
        have cleared : v = u.withCoord p (fun c => { c with fieldLocal := false }) := by
          rw [h.field, clear]
          exact fieldLocalClear_other (by rw [h.good.coord, preempted]; nofun)
        have fitsV : runLocalFits (withOwner p .none v) p 1 := by
          rw [cleared]
          exact runLocalFits_same (h.good.fits fits) rfl rfl rfl
        have ended : w.clc.queue = (leaveToLocal p .notInPlan true (withOwner p .none v)).clc.queue := by
          rw [judged]
          unfold endCall
          rw [endRouteFrom_none (by rw [h.field_pm]; exact route), raiseNotice_clc,
            Roads.setOwner_none (by rw [owner, called]; nofun),
            ownerReturned_noEntry (s := withOwner p .none v) preempted' (entry.trans none)]
        unfold runLocalQueued
        rw [kept, ended]
        exact leaveToLocal_runLocal fitsV

/-- Settles O18, flag by flag. -/
theorem statusFlagsActed : Obligations.StatusFlagsActed := by
  unfold Obligations.StatusFlagsActed
  intro p x reply s polled stage h
  obtain ⟨u, v, w, t, followed, run, stores⟩ := exec_status_followed polled stage h
  have road := followed.road
  have settles := settles_finish t
  have owner (q : Pos) : (finish t).owner q = t.owner q := finish_owner t q
  refine ⟨finish t, run, fun q hq off => ?_, fun flag => ?_, fun flag => ?_, fun flag => ?_, fun flag => ?_,
    settles.pt.trans ((road.pt rfl).trans followed.good.pt), settles.qw.trans ((road.qw rfl).trans followed.good.qw),
    settles.er.trans (road.er.trans followed.good.er), settles.ps.trans (road.ps.trans followed.good.ps), stores⟩
  · have outside : ¬ onRoutes p s q := by
      rintro (e | ⟨r, hr, m, hm, e⟩)
      · exact hq e
      · exact off r hr m hm e
    exact ⟨(finish_coord t q).trans ((road.coord q outside).trans (followed.good.coord q)),
      (owner q).trans ((road.owner q outside).trans (followed.good.owner q))⟩
  · obtain ⟨field, left, inLocal⟩ := status_fieldLocal followed flag
    rw [finish_coord]
    refine ⟨field, fun hs => ?_, inLocal⟩
    obtain ⟨own, timing, queued⟩ := left hs
    exact ⟨own, timing.finish, fun fits route => runLocalQueued_finish (queued fits route)⟩
  · rw [finish_coord]
    exact status_fieldClear followed flag
  · obtain ⟨owned, free⟩ := status_preempting followed flag
    rw [settles.pm, finish_coord]
    refine ⟨owned, fun none => ?_⟩
    obtain ⟨pm, taken⟩ := free none
    refine ⟨pm, fun clear steers => ?_⟩
    obtain ⟨own, timing⟩ := taken clear steers
    exact ⟨own, timing.finish⟩
  · obtain ⟨uncalled, called⟩ := status_preemptingClear followed flag
    rw [settles.pm, finish_coord, owner]
    refine ⟨uncalled, fun d hd => ?_⟩
    obtain ⟨ended, routes, returned⟩ := called d hd
    refine ⟨ended, routes, fun clear preempted => ?_⟩
    obtain ⟨some, none⟩ := returned clear preempted
    refine ⟨some, fun absent => ?_⟩
    obtain ⟨state, measured, queued⟩ := none absent
    exact ⟨state, measured, fun fits route => runLocalQueued_finish (queued fits route)⟩

theorem ownerReturned_unmeasured {p : Pos} {s : State} (absent : (s.coord p).measured = none) :
    ((ownerReturned p s).coord p).measured = none := by
  by_cases h : (s.coord p).state = .preempted
  · cases he : s.imageEntry p with
    | none => rw [ownerReturned_noEntry h he, leaveToLocal_coord]
    | some e => rw [ownerReturned_entry h he]
  · rw [ownerReturned_unpreempted h, absent]

theorem judgePreempting_unmeasured {p : Pos} {s : State} (unsteered : steered (s.coord p).state = false)
    (absent : (s.coord p).measured = none) (flag : Bool) : ((judgePreempting p flag s).coord p).measured = none := by
  cases flag with
  | true =>
    rw [judgePreempting_set]
    by_cases owner : s.owner p = .none
    · rw [callLearned_free owner, ownerTaken_unsteered (s := withOwner p (.localCall .none) s) unsteered]
      exact absent
    · rw [callLearned_owned owner, absent]
  | false =>
    by_cases call : ∃ d, s.owner p = .localCall d
    · obtain ⟨d, hd⟩ := call
      rw [judgePreempting_called hd, endCall_coord (by rw [hd]; nofun)]
      exact ownerReturned_unmeasured absent
    · rw [judgePreempting_uncalled (fun d hd => call ⟨d, hd⟩), absent]

theorem followField_unsteered {p : Pos} {s : State} (unsteered : steered (s.coord p).state = false)
    (absent : (s.coord p).measured = none) (flag : Bool) :
    steered ((followField p flag s).coord p).state = false ∧ ((followField p flag s).coord p).measured = none := by
  cases flag with
  | true =>
    change steered ((fieldLocalSet p s).coord p).state = false ∧ ((fieldLocalSet p s).coord p).measured = none
    cases hs : (s.coord p).state with
    | unseen =>
      rw [fieldLocalSet_unseen hs, State.withCoord_coord, if_pos rfl]
      exact ⟨unsteered, absent⟩
    | inLocal reason =>
      rw [fieldLocalSet_local hs]
      exact ⟨rfl, absent⟩
    | preempted =>
      rw [fieldLocalSet_coordinated (by rw [hs]; rfl), leaveToLocal_coord]
      exact ⟨rfl, rfl⟩
    | seeking way => exact absurd ((congrArg steered hs).symm.trans unsteered) (by simp [steered])
    | inStep => exact absurd ((congrArg steered hs).symm.trans unsteered) (by simp [steered])
  | false =>
    change steered ((fieldLocalClear p s).coord p).state = false ∧ ((fieldLocalClear p s).coord p).measured = none
    rw [fieldLocalClear_coord]
    refine ⟨?_, absent⟩
    dsimp only
    split
    · rfl
    · exact unsteered

/-- At a position out of the steered states, a measurement that is absent stays absent. -/
theorem status_unsteered {p : Pos} {reply : StatusFields} {s u v w t : State} (h : Followed p reply s u v w t)
    (unsteered : steered (s.coord p).state = false) (absent : (s.coord p).measured = none) : (t.coord p).measured = none := by
  obtain ⟨field, measured⟩ := followField_unsteered (p := p) (s := u) (by rwa [h.good.coord]) (by rwa [h.good.coord])
    (bit reply.flags 0)
  rw [← h.field] at field measured
  rw [h.rests (.inl field), h.judged]
  exact judgePreempting_unmeasured field measured _

/-- Settles O17: measured, unmeasured and unsteered. -/
theorem statusMeasuresTheOffset : Obligations.StatusMeasuresTheOffset := by
  unfold Obligations.StatusMeasuresTheOffset
  refine ⟨fun p x address n plan stage code target s awaits poll ha known eligible owner score ht within fresh steers => ?_,
    fun p x reply s polled stage h flags owner steers => status_unmeasured polled stage h flags owner steers,
    fun p x reply s polled stage h unsteered => ?_⟩
  · subst ha
    exact status_measures ⟨awaits, poll, eligible, score⟩ known owner ht within fresh steers
  · obtain ⟨u, v, w, t, followed, run, stores⟩ := exec_status_followed polled stage h
    refine ⟨finish t, run, fun absent => ?_, stores⟩
    rw [finish_coord]
    exact status_unsteered followed unsteered absent

end Sys2Proof.Proofs.StatusReplies
end

section
/-! PROOF. The end of a route and the answers to ROUTE-CLEAR and ROUTE-END (O22). -/

open Sys2Proof Sys2Proof.Machine

namespace Sys2Proof.Proofs.RouteEnds

open Answers Roads Coordination StatusReplies Offers Exchanges

/-! ### The entries of a route's commands -/

/-- A ROUTE-CLEAR or ROUTE-END of a position. -/
def routeEntry (q : Pos) (e : QueueEntry) : Prop :=
  e.position = some q ∧ (e.command.isRouteClear = true ∨ e.command = .routeEnd)

theorem routeEntry_untimed {q : Pos} {e : QueueEntry} (h : routeEntry q e) : e.command.isTimingSet = false := by
  obtain ⟨-, h⟩ := h
  cases hc : e.command <;> simp_all [LineCommand.isTimingSet, LineCommand.isRouteClear]

theorem routeEntry_stands {q p : Pos} {e : QueueEntry} (h : routeEntry q e) : replaces .runLocal (some p) e = false := by
  obtain ⟨-, h⟩ := h
  cases hc : e.command <;> simp_all [replaces, LineCommand.isRouteClear]

theorem offerEntry_refused {e : QueueEntry} {s : State} (h : (offerEntry e s).2 = false) : (offerEntry e s).1 = s := by
  unfold offerEntry at h ⊢
  dsimp only at h ⊢
  split_ifs at h ⊢
  · rfl
  · rfl
  · split at h
    · rfl
    · exact absurd h (by simp)
  · rfl

theorem offerTo_refused {c : LineCommand} {p : Pos} {route : Option RouteRef} {s : State}
    (h : (offerTo c p route s).2 = false) : (offerTo c p route s).1 = s := by
  unfold offerTo at h ⊢
  split at h
  · rfl
  · exact offerEntry_refused h

theorem sendEnd_refused {p : Pos} {ref : RouteRef} {s : State}
    (h : (offerTo .routeEnd p (some ref) (withdrawClear p s)).2 = false) :
    (sendEnd p ref s).1 = handBack p ref.origin (withdrawClear p s) := by
  unfold sendEnd
  dsimp only
  rw [if_neg (by simp [h]), offerTo_refused h]

theorem sendEnd_taken {p : Pos} {ref : RouteRef} {s : State}
    (h : (offerTo .routeEnd p (some ref) (withdrawClear p s)).2 = true) :
    sendEnd p ref s = offerTo .routeEnd p (some ref) (withdrawClear p s) := if_pos h

theorem keeps_withdrawClear {q p : Pos} (h : q ≠ p) (s : State) : Keeps (routeEntry q) 0 s (withdrawClear p s) :=
  .withdraw s (fun e he => by
    obtain ⟨hp, -⟩ := he
    simp [hp, h])

theorem keeps_sendEnd {q p : Pos} (h : q ≠ p) (ref : RouteRef) (s : State) : Keeps (routeEntry q) 1 s (sendEnd p ref s).1 := by
  cases taken : (offerTo .routeEnd p (some ref) (withdrawClear p s)).2 with
  | true =>
    rw [sendEnd_taken taken]
    exact (keeps_withdrawClear h s).trans (m := 0) (.offerTo (some ref) _ (fun _ _ => rfl))
  | false =>
    rw [sendEnd_refused taken]
    unfold handBack
    split
    · exact (keeps_withdrawClear h s).trans (m := 0)
        (.setOwner p _ _ (fun _ => routeEntry_untimed) (fun _ => routeEntry_stands))
    · exact (keeps_withdrawClear h s).le (by omega)

theorem keeps_endMember {q : Pos} {m : Member} (h : q ≠ m.position) (ref : RouteRef) (acc : State × List Pos) :
    Keeps (routeEntry q) 1 acc.1 (endMember ref acc m).1 := by
  unfold endMember
  dsimp only
  split
  · exact (keeps_withdrawClear h acc.1).trans (m := 0)
      (.setOwner _ _ _ (fun _ => routeEntry_untimed) (fun _ => routeEntry_stands))
  · exact keeps_sendEnd h ref acc.1

theorem keeps_endMembers {q : Pos} (ref : RouteRef) {members : List Member} (h : ∀ m ∈ members, q ≠ m.position)
    (acc : State × List Pos) : Keeps (routeEntry q) members.length acc.1 (members.foldl (endMember ref) acc).1 := by
  induction members generalizing acc with
  | nil => exact .rfl' _
  | cons m members ih =>
    rw [List.forall_mem_cons] at h
    have rest := ih h.2 (endMember ref acc m)
    rw [List.length_cons, Nat.add_comm]
    exact (keeps_endMember h.1 ref acc).trans rest

/-! ### One member (R89) -/

/-- From `s` to `t` a member of an ended route is handled: its ROUTE-CLEARs are gone; released where one stood unsent, sent a
ROUTE-END otherwise. -/
structure MemberEnded (ref : RouteRef) (q : Pos) (s t : State) : Prop where
  cleared : ∀ e ∈ t.clc.queue, e.position = some q → e.command.isRouteClear = false
  released : clearUnsent s q = true → t.owner q = .none
  pending : clearUnsent s q = false → t.owner q = .route ref.origin ∧
    ∃ e ∈ t.clc.queue, e.command = .routeEnd ∧ e.position = some q ∧ e.route = some ref

theorem withdrawClear_cleared (q : Pos) (s : State) :
    ∀ e ∈ (withdrawClear q s).clc.queue, e.position = some q → e.command.isRouteClear = false := fun e he hp => by
  have kept := (List.mem_filter.1 he).2
  simpa [hp] using kept

theorem cleared_road {wide : Bool} {A : Pos → Prop} {s t : State} {q : Pos}
    (h : ∀ e ∈ s.clc.queue, e.position = some q → e.command.isRouteClear = false) (road : Road wide A releases s t) :
    ∀ e ∈ t.clc.queue, e.position = some q → e.command.isRouteClear = false := fun e he hp => by
  rcases road.queue e he with old | ⟨new, -⟩
  · exact h e old hp
  · rcases new with new | new <;> rw [new] <;> rfl

theorem endMember_ended {ref : RouteRef} {m : Member} {acc : State × List Pos} (room : acc.1.clc.queue.length < 24)
    (opens : offerOpen acc.1 .routeEnd = true) (owner : acc.1.owner m.position = .route ref.origin)
    (config : acc.1.config.get m.position ≠ none) :
    MemberEnded ref m.position acc.1 (endMember ref acc m).1 := by
  have gone := withdrawClear_cleared m.position acc.1
  cases unsent : clearUnsent acc.1 m.position with
  | true =>
    have eq : (endMember ref acc m).1 = setOwner m.position .none (withdrawClear m.position acc.1) := by
      unfold endMember
      exact congrArg Prod.fst (if_pos unsent)
    rw [eq]
    exact ⟨cleared_road gone (Road.setOwner (wide := false) (A := fun _ => True) trivial (fun _ => .inl rfl) _),
      fun _ => (setOwner_owner _ _ _ _).trans (if_pos rfl), fun not => absurd (not.symm.trans unsent) Bool.false_ne_true⟩
  | false =>
    obtain ⟨cfg, hc⟩ := Option.ne_none_iff_exists'.1 config
    have joined := offerTo_joins (c := .routeEnd) (r := some ref) (s := withdrawClear m.position acc.1) hc opens nofun
      (List.any_eq_false.2 (fun e _ => by simp [replaces]))
      (Nat.lt_of_le_of_lt (List.length_filter_le _ _) room)
    have eq : (endMember ref acc m).1 = (offerTo .routeEnd m.position (some ref) (withdrawClear m.position acc.1)).1 := by
      unfold endMember
      rw [if_neg (by simp [unsent]), sendEnd_taken (by rw [joined])]
    rw [eq]
    refine ⟨cleared_road gone (Road.offerTo (wide := false) (A := fun _ => True) trivial (.inr rfl) _ _),
      fun sent => absurd (unsent.symm.trans sent) Bool.false_ne_true, fun _ => ?_⟩
    rw [joined]
    exact ⟨owner, _, mem_joinQueue.2 (.inl rfl), rfl, rfl, rfl⟩

theorem MemberEnded.stays {ref : RouteRef} {q : Pos} {wide : Bool} {A : Pos → Prop} {n : Nat} {s t u : State}
    (h : MemberEnded ref q s t) (hq : ¬ A q) (road : Road wide A releases t u) (keeps : Keeps (routeEntry q) n t u)
    (room : t.clc.queue.length + n ≤ 24) : MemberEnded ref q s u where
  cleared := cleared_road h.cleared road
  released sent := (road.owner q hq).trans (h.released sent)
  pending not := by
    obtain ⟨owner, e, he, hc, hp, hr⟩ := h.pending not
    exact ⟨(road.owner q hq).trans owner, e, keeps.kept room e he ⟨hp, .inr hc⟩, hc, hp, hr⟩

/-- What is unsent for one position stands while others are handled. -/
theorem clearUnsent_stays {q : Pos} {wide : Bool} {A : Pos → Prop} {n : Nat} {s t : State} (road : Road wide A releases s t)
    (keeps : Keeps (routeEntry q) n s t) (room : s.clc.queue.length + n ≤ 24) : clearUnsent t q = clearUnsent s q := by
  unfold clearUnsent
  rw [Bool.eq_iff_iff]
  simp only [List.any_eq_true, Bool.and_eq_true, beq_iff_eq]
  constructor
  · rintro ⟨e, he, ⟨hp, hc⟩, ha⟩
    rcases road.queue e he with old | ⟨new, -⟩
    · exact ⟨e, old, ⟨hp, hc⟩, ha⟩
    · rcases new with new | new <;> rw [new] at hc <;> exact absurd hc Bool.false_ne_true
  · rintro ⟨e, he, ⟨hp, hc⟩, ha⟩
    exact ⟨e, keeps.kept room e he ⟨hp, .inl hc⟩, ⟨hp, hc⟩, ha⟩

theorem MemberEnded.congr {ref : RouteRef} {q : Pos} {s s' t : State} (h : MemberEnded ref q s' t)
    (same : clearUnsent s' q = clearUnsent s q) : MemberEnded ref q s t :=
  ⟨h.cleared, by rw [← same]; exact h.released, by rw [← same]; exact h.pending⟩

theorem endMembers_ended {ref : RouteRef} {members : List Member} {acc : State × List Pos}
    (distinct : (members.map Member.position).Nodup) (room : acc.1.clc.queue.length + members.length ≤ 24)
    (opens : offerOpen acc.1 .routeEnd = true)
    (each : ∀ m ∈ members, acc.1.owner m.position = .route ref.origin ∧ acc.1.config.get m.position ≠ none) :
    ∀ m ∈ members, MemberEnded ref m.position acc.1 (members.foldl (endMember ref) acc).1 := by
  induction members generalizing acc with
  | nil => nofun
  | cons m members ih =>
    rw [List.map_cons, List.nodup_cons] at distinct
    rw [List.length_cons] at room
    obtain ⟨fresh, distinct⟩ := distinct
    obtain ⟨⟨owner, config⟩, others⟩ := List.forall_mem_cons.1 each
    have apart (x : Member) (hx : x ∈ members) : x.position ≠ m.position := fun e => fresh (List.mem_map.2 ⟨x, hx, e⟩)
    have first : Road false (· = m.position) releases acc.1 (endMember ref acc m).1 :=
      Road.endMember (A := (· = m.position)) rfl (.inr rfl) (.inl rfl) ref acc
    have rest : Road false (· ≠ m.position) releases (endMember ref acc m).1 (members.foldl (endMember ref) (endMember ref acc m)).1 :=
      Road.endMembers (A := (· ≠ m.position)) (.inr rfl) (.inl rfl) ref members _ apart
    have grown : (endMember ref acc m).1.clc.queue.length ≤ acc.1.clc.queue.length + 1 := by
      obtain ⟨q, hq⟩ : ∃ q, q ≠ m.position := exists_ne m.position
      exact (keeps_endMember hq ref acc).length
    rw [List.forall_mem_cons, List.foldl_cons]
    refine ⟨?_, fun x hx => ?_⟩
    · exact (endMember_ended (by omega) opens owner config).stays (fun ne => ne rfl) rest
        (keeps_endMembers ref (fun x hx => (apart x hx).symm) _) (by omega)
    · have ended := ih (acc := endMember ref acc m) distinct (by omega) (by rw [first.offerOpen]; exact opens)
        (fun y hy => by
          rw [first.owner y.position (apart y hy), first.config]
          exact others y hy) x hx
      exact ended.congr (clearUnsent_stays first (keeps_endMember (apart x hx) ref acc) (by omega))

/-! ### The end of a route (R89, R91) -/

theorem clearUnsent_iff (s : State) (q : Pos) :
    clearUnsent s q = true ↔
      ∃ e ∈ s.clc.queue, e.position = some q ∧ e.command.isRouteClear = true ∧ e.attempts = 0 := by
  simp only [clearUnsent, List.any_eq_true, Bool.and_eq_true, beq_iff_eq, and_assoc]

/-- What the end of a route leaves: `route` is the road of its members. -/
theorem dropRoute_road (r : Route) (cause : EndCause) (s : State) :
    Road false (fun q => ∃ m ∈ r.members, m.position = q) releases s (dropRoute r cause s) :=
  (Road.endRoute (fun m hm => ⟨m, hm, rfl⟩) (.inr rfl) (.inl rfl) s).trans (.raiseNotice _ _)

theorem dropRoute_routes {p : Pos} {r : Route} {s : State} (h : s.pm.routeFrom p = some r) (cause : EndCause) :
    (dropRoute r cause s).pm.routes = s.pm.routes.filter (fun x => x.ref.origin != p) :=
  (endRoute_routes r s).trans (by rw [routeFrom_origin h])

theorem dropRoute_ended {r : Route} {s : State} (cause : EndCause) (distinct : (r.members.map Member.position).Nodup)
    (room : s.clc.queue.length + r.members.length ≤ 24) (opens : offerOpen s .routeEnd = true)
    (each : ∀ m ∈ r.members, s.owner m.position = .route r.ref.origin ∧ s.config.get m.position ≠ none) :
    ∀ m ∈ r.members, MemberEnded r.ref m.position s (dropRoute r cause s) := fun m hm => by
  have ended := endMembers_ended (acc := (s.withRoutes (fun rs => rs.filter (fun x => x.ref.origin != r.ref.origin)), []))
    distinct room opens each m hm
  exact ⟨ended.cleared, ended.released, ended.pending⟩

theorem finish_clc (s : State) : (finish s).clc = (settleLine s).clc := rfl

theorem MemberEnded.settled {ref : RouteRef} {q : Pos} {s u t : State} (h : MemberEnded ref q s u)
    (queue : t.clc.queue = (finish u).clc.queue) (pm : t.pm = u.pm) : MemberEnded ref q s t where
  cleared e he hp := by
    rw [queue] at he
    obtain ⟨x, hx, same⟩ := mem_finish he
    rw [core_command same]
    exact h.cleared x hx ((core_position same).symm.trans hp)
  released sent := (congrArg (fun pm : Priority => pm.owners.get q) pm).trans (h.released sent)
  pending not := by
    obtain ⟨owner, e, he, hc, hp, hr⟩ := h.pending not
    obtain ⟨x, hx, same⟩ := stays_finish he (by rw [hc]; nofun)
    rw [← queue] at hx
    exact ⟨(congrArg (fun pm : Priority => pm.owners.get q) pm).trans owner, x, hx, (core_command same).trans hc,
      (core_position same).trans hp, (core_route same).trans hr⟩

/-- The members of an ended route as the statement of O22 gives them. -/
theorem membersEnded_of {p : Pos} {r : Route} {s t : State} (origin : r.ref.origin = p)
    (ended : (r.members.map Member.position).Nodup → s.clc.queue.length + r.members.length ≤ 24 →
      offerOpen s .routeEnd = true →
      (∀ m ∈ r.members, s.owner m.position = .route r.ref.origin ∧ s.config.get m.position ≠ none) →
      ∀ m ∈ r.members, MemberEnded r.ref m.position s t)
    (distinct : (r.members.map Member.position).Nodup) (room : s.clc.queue.length + r.members.length ≤ 24)
    (opens : s.sli.mode = .live ∨ s.clc.drainFlag = true)
    (each : ∀ m ∈ r.members, s.owner m.position = .route p ∧ s.config.get m.position ≠ none) :
    ∀ m ∈ r.members,
      (∀ e ∈ t.clc.queue, e.position = some m.position → e.command.isRouteClear = false) ∧
      ((∃ e ∈ s.clc.queue, e.position = some m.position ∧ e.command.isRouteClear = true ∧ e.attempts = 0) →
        t.owner m.position = .none) ∧
      (¬ (∃ e ∈ s.clc.queue, e.position = some m.position ∧ e.command.isRouteClear = true ∧ e.attempts = 0) →
        t.owner m.position = .route p ∧
          ∃ e ∈ t.clc.queue, e.command = .routeEnd ∧ e.position = some m.position ∧ e.route = some r.ref) := by
  subst origin
  intro m hm
  have one := ended distinct room
    ((offerOpen_iff s .routeEnd).2 (opens.imp_right (fun drains => ⟨drains, .inl rfl⟩))) each m hm
  refine ⟨one.cleared, fun sent => one.released ((clearUnsent_iff s m.position).2 sent), fun not => one.pending ?_⟩
  rw [← clearUnsent_iff] at not
  simpa using not

theorem routeTimeout_ends {p : Pos} {r : Route} {s : State} (h : s.pm.routeFrom p = some r) (due : r.deadline = s.now) :
    exec (.routeTimeout p) s = .next (finish (dropRoute r .timeout s)) := by
  refine congrArg Host.Outcome.next (?_ : routeEvent p s = _)
  unfold routeEvent
  rw [h]
  exact if_pos due

theorem cancelRoute_ends {p : Pos} {r : Route} {s : State} (h : s.pm.routeFrom p = some r) :
    cancelRoute (p.val + 1) s = (settleLine (dropRoute r .cancelled s), .done .none) := by
  unfold cancelRoute
  rw [posOf_number]
  dsimp only
  rw [h]

theorem cancelRoute_none {p : Pos} {s : State} (h : s.pm.routeFrom p = none) : cancelRoute (p.val + 1) s = (s, .noSuch) := by
  unfold cancelRoute
  rw [posOf_number]
  dsimp only
  rw [h]

theorem cancelRoute_outside {n : Nat} (hn : n = 0 ∨ 12 < n) (s : State) : cancelRoute n s = (s, .badValue 0 1) := by
  unfold cancelRoute
  rw [posOf_outside hn]

/-! ### The answers (R87, R90) -/

theorem stillMember_iff (s : State) (ref : RouteRef) (p : Pos) :
    stillMember s ref p = true ↔ ∃ r ∈ s.pm.routes, r.ref = ref ∧ ∃ m ∈ r.members, m.position = p := by
  simp only [stillMember, List.any_eq_true, Bool.and_eq_true, beq_iff_eq]

theorem isMember_iff (pm : Priority) (p : Pos) :
    pm.isMember p = false ↔ ∀ r ∈ pm.routes, ∀ m ∈ r.members, m.position ≠ p := by
  simp only [Priority.isMember, List.any_eq_false, Bool.not_eq_true, beq_eq_false_iff_ne]

theorem clearFailed_pm {p : Pos} {ref : RouteRef} {s : State} (h : stillMember s ref p = true) :
    (clearFailed p ref s).pm = { s.pm with
      owners := s.pm.owners.set p.val .none,
      routes := s.pm.routes.map (fun r => { r with members := r.members.filter (fun m => m.position != p) }) } := by
  unfold clearFailed
  rw [if_pos h]
  exact setOwner_pm p .none (leaveRoute p s)

theorem clearFailed_left {p : Pos} {ref : RouteRef} {s : State} (h : ¬ stillMember s ref p = true) : clearFailed p ref s = s :=
  if_neg h

/-- What the answers to the commands of a route pass by. -/
theorem answered_beside {p : Pos} {s u v : State} (good : Good p s u) (road : Road false (· = p) releases u v) :
    (∀ q, q ≠ p → (finish v).coord q = s.coord q) ∧ (finish v).pt = s.pt ∧ (finish v).qw = s.qw ∧ (finish v).er = s.er := by
  have passed := Passed.of good road
  exact ⟨passed.coord, passed.pt, passed.qw, passed.er⟩

theorem routeClear_acked {p : Pos} {x : Exchange} {d : Direction} {hold : Nat} {ref : RouteRef} {s : State}
    (h : awaiting s x p) (hw : x.work = .command (.routeClear d hold) (some ref)) (score : (s.health p).score < 160)
    {c : Instr} (hc : c = .ack x.address ∨ c = .heartbeat x.address) :
    ∃ t, exec c s = .next t ∧ t.oc = s.oc ∧ t.pt = s.pt ∧ t.qw = s.qw ∧ t.er = s.er ∧ LeavesStores s t ∧
      t.pm = { s.pm with routes := s.pm.routes.map (fun r =>
        if r.ref = ref then
          { r with members := r.members.map (fun m => if m.position = p then { m with held := true } else m) }
        else r) } := by
  obtain ⟨u, good, run, stores⟩ := exec_acked h hw score nofun nofun nofun hc
  have held : acked p (.routeClear d hold) (some ref) u = clearAcked p ref u := rfl
  rw [held] at run stores
  have settles := settles_finish (clearAcked p ref u)
  have pm : (clearAcked p ref u).pm = { u.pm with routes := u.pm.routes.map (fun r =>
      if r.ref = ref then
        { r with members := r.members.map (fun m => if m.position = p then { m with held := true } else m) }
      else r) } := rfl
  rw [good.pm] at pm
  exact ⟨_, run, settles.oc.trans good.oc, settles.pt.trans good.pt, settles.qw.trans good.qw, settles.er.trans good.er,
    stores, settles.pm.trans pm⟩

theorem routeClear_naked {p : Pos} {x : Exchange} {d : Direction} {hold : Nat} {ref : RouteRef} {s : State}
    (h : awaiting s x p) (hw : x.work = .command (.routeClear d hold) (some ref)) (score : (s.health p).score < 160)
    {code : Nat} (hc : code ≤ 4) :
    let member := ∃ r ∈ s.pm.routes, r.ref = ref ∧ ∃ m ∈ r.members, m.position = p
    ∃ t, exec (.nak x.address code) s = .next t ∧ (∀ q, q ≠ p → t.coord q = s.coord q) ∧ t.pt = s.pt ∧ t.qw = s.qw ∧
      t.er = s.er ∧ LeavesStores s t ∧ (¬ member → t.pm = s.pm ∧ t.oc = s.oc) ∧
      (member → t.pm = { s.pm with
        owners := s.pm.owners.set p.val .none,
        routes := s.pm.routes.map (fun r => { r with members := r.members.filter (fun m => m.position != p) }) }) := by
  intro member
  obtain ⟨reason, hr⟩ := nakReasonOf_inside hc
  obtain ⟨u, good, run, stores⟩ := exec_naked h hw score nofun nofun nofun hr
  have failed : naked p (.routeClear d hold) (some ref) reason u = clearFailed p ref u := rfl
  rw [failed] at run stores
  have settles := settles_finish (clearFailed p ref u)
  have still : stillMember u ref p = true ↔ member := by
    rw [stillMember_iff, good.pm]
  obtain ⟨coord, pt, qw, er⟩ := answered_beside good (Road.clearFailed (A := (· = p)) rfl (.inl rfl) ref u)
  refine ⟨_, run, coord, pt, qw, er, stores, fun not => ?_, fun is => ?_⟩
  · rw [settles.pm, settles.oc, clearFailed_left (fun k => not (still.1 k))]
    exact ⟨good.pm, good.oc⟩
  · rw [settles.pm, clearFailed_pm (still.2 is), good.pm]

theorem handBack_left {p origin : Pos} {s : State} (h : ¬ (s.owner p = .route origin ∧ s.pm.isMember p = false)) :
    handBack p origin s = s := if_neg h

theorem handBack_taken {p origin : Pos} {s : State} (h : s.owner p = .route origin ∧ s.pm.isMember p = false) :
    handBack p origin s = setOwner p .none s := if_pos h

/-- The end of a ROUTE-END's exchange, however it was answered. -/
theorem routeEnd_handsBack {p : Pos} {ref : RouteRef} {s u : State} (good : Good p s u) :
    let t := finish (handBack p ref.origin u)
    (∀ q, q ≠ p → t.coord q = s.coord q) ∧ t.pt = s.pt ∧ t.qw = s.qw ∧ t.er = s.er ∧
      let pending := s.owner p = .route ref.origin ∧ ∀ r ∈ s.pm.routes, ∀ m ∈ r.members, m.position ≠ p
      (¬ pending → t.pm = s.pm ∧ t.oc = s.oc) ∧
      (pending → t.pm = { s.pm with owners := s.pm.owners.set p.val .none } ∧
        ((s.coord p).state = .preempted → ∀ e, s.imageEntry p = some e →
          t.coord p = { s.coord p with
            state := .seeking .lengthen, measured := none, commanded := false,
            target := some (targetOf e (s.coord p).trim s.ctb.cycleLength) })) := by
  have settles := settles_finish (handBack p ref.origin u)
  obtain ⟨coord, pt, qw, er⟩ := answered_beside good (Road.handBack (A := (· = p)) rfl (.inl rfl) ref.origin u)
  have is : (u.owner p = .route ref.origin ∧ u.pm.isMember p = false) ↔
      s.owner p = .route ref.origin ∧ ∀ r ∈ s.pm.routes, ∀ m ∈ r.members, m.position ≠ p := by
    rw [good.owner, isMember_iff, good.pm]
  refine ⟨coord, pt, qw, er, fun not => ?_, fun pending => ⟨?_, fun preempted e he => ?_⟩⟩
  · rw [settles.pm, settles.oc, handBack_left (fun k => not (is.1 k))]
    exact ⟨good.pm, good.oc⟩
  · rw [settles.pm, handBack_taken (is.2 pending), setOwner_pm, good.pm]
  · have owned : u.owner p ≠ .none := by rw [(is.2 pending).1]; nofun
    rw [finish_coord, handBack_taken (is.2 pending), setOwner_none owned,
      ownerReturned_entry (s := withOwner p .none u) (e := e) ((congrArg Coord.state (good.coord p)).trans preempted)
        ((good.imageEntry p).trans he)]
    have same : (withOwner p .none u).coord p = s.coord p := good.coord p
    have ctb : (withOwner p .none u).ctb = s.ctb := good.ctb
    rw [same, ctb]

theorem routeEnd_answered {p : Pos} {x : Exchange} {ref : RouteRef} {s : State} (h : awaiting s x p)
    (hw : x.work = .command .routeEnd (some ref)) (score : (s.health p).score < 160) {c : Instr}
    (hc : c = .ack x.address ∨ c = .heartbeat x.address ∨ (∃ code, code ≤ 4 ∧ c = .nak x.address code)) :
    ∃ u, Good p s u ∧ exec c s = .next (finish (handBack p ref.origin u)) ∧
      LeavesStores s (finish (handBack p ref.origin u)) := by
  rcases hc with ack | heartbeat | ⟨code, within, rfl⟩
  · obtain ⟨u, good, run, stores⟩ := exec_acked h hw score nofun nofun nofun (.inl ack)
    have back : acked p .routeEnd (some ref) u = handBack p ref.origin u := rfl
    rw [back] at run stores
    exact ⟨u, good, run, stores⟩
  · obtain ⟨u, good, run, stores⟩ := exec_acked h hw score nofun nofun nofun (.inr heartbeat)
    have back : acked p .routeEnd (some ref) u = handBack p ref.origin u := rfl
    rw [back] at run stores
    exact ⟨u, good, run, stores⟩
  · obtain ⟨reason, hr⟩ := nakReasonOf_inside within
    obtain ⟨u, good, run, stores⟩ := exec_naked h hw score nofun nofun nofun hr
    have back : naked p .routeEnd (some ref) reason u = handBack p ref.origin u := rfl
    rw [back] at run stores
    exact ⟨u, good, run, stores⟩

/-- Settles O22: the two ends, the refusals of CANCEL-ROUTE, and the answers. -/
theorem routeEndsAndItsAnswers : Obligations.RouteEndsAndItsAnswers := by
  unfold Obligations.RouteEndsAndItsAnswers
  refine ⟨fun p r s h off => ?_, fun n s ready => ⟨fun hn => ?_, fun p hp none => ?_⟩,
    fun p x d hold ref s h hw score => ⟨fun c hc => routeClear_acked h hw score hc, fun code hc => routeClear_naked h hw score hc⟩,
    fun p x ref s h hw score c hc => ?_⟩
  · have origin := routeFrom_origin h
    have outside : ¬ ∃ m ∈ r.members, m.position = p := fun ⟨m, hm, e⟩ => off m hm e
    refine ⟨fun due => ?_, fun ready => ?_⟩
    · have road := dropRoute_road r .timeout s
      have settles := settles_finish (dropRoute r .timeout s)
      have run := routeTimeout_ends h due
      refine ⟨_, run, ?_, ?_, ?_, ?_, settles.pt.trans (road.pt rfl), settles.qw.trans (road.qw rfl), settles.ps.trans road.ps,
        settles.er.trans road.er, ?_⟩
      · rw [settles.pm, dropRoute_routes h]
      · exact (finish_owner _ p).trans (road.owner p outside)
      · exact membersEnded_of origin (fun distinct room opens each m hm =>
          (dropRoute_ended .timeout distinct room opens each m hm).settled rfl settles.pm)
      · exact fun q => (finish_budget _ q).trans (road.budget q)
      · exact Host.Outcome.next.inj run ▸ (Moves.routeEvent (rt := true) p (.refl s)).leavesStores
    · have road := dropRoute_road r .cancelled (frameTaken s)
      have settles := settles_finish (dropRoute r .cancelled (frameTaken s))
      have routes := dropRoute_routes (s := frameTaken s) h .cancelled
      have ended := dropRoute_ended (r := r) (s := frameTaken s) .cancelled
      have run := onRequest_result (k := .cancelRoute) ready (cancelRoute_ends (s := frameTaken s) h)
      generalize dropRoute r .cancelled (frameTaken s) = d at *
      have pm : (settleLine d).pm = d.pm := settles.pm
      refine ⟨_, congrArg Host.Outcome.next run, ?_, ?_, ?_, ?_, rfl, settles.ctb.trans road.ctb, settles.pt.trans (road.pt rfl),
        settles.qw.trans (road.qw rfl), settles.pl.trans road.pl, settles.ps.trans road.ps, settles.er.trans road.er,
        settles.config.trans road.config⟩
      · exact (congrArg Priority.routes pm).trans routes
      · exact (congrArg (fun pm : Priority => pm.owners.get p) pm).trans (road.owner p outside)
      · exact membersEnded_of origin (fun distinct room opens each m hm =>
          ((ended distinct room opens each m hm).congr (s := s) rfl).settled rfl pm)
      · exact fun q => (congrArg (fun pm : Priority => pm.budgets.get q) pm).trans (road.budget q)
  · exact congrArg Host.Outcome.next (onRequest_refused ready (cancelRoute_outside hn (frameTaken s)))
  · subst hp
    exact congrArg Host.Outcome.next (onRequest_refused ready (cancelRoute_none (s := frameTaken s) none))
  · obtain ⟨u, good, run, stores⟩ := routeEnd_answered h hw score hc
    obtain ⟨coord, pt, qw, er, pending⟩ := routeEnd_handsBack (ref := ref) good
    exact ⟨_, run, coord, pt, qw, er, stores, pending⟩

end Sys2Proof.Proofs.RouteEnds
end

section
/-! PROOF. Failed exchanges: the entries tried again or dropped (O34). -/

open Sys2Proof Sys2Proof.Machine

namespace Sys2Proof.Proofs.Failures

open Answers Roads Coordination StatusReplies RouteEnds Exchanges

/-! ### The failed outcome (R152) -/

theorem saturate_eq_min (limit n : Nat) : saturate limit n = min limit n := by
  unfold saturate
  split <;> omega

/-- The figures of a position after a failed exchange, before its health state follows. -/
def failedFigures (h : Health) : Health := { h with score := min 255 (h.score + 8), failures := min 3 (h.failures + 1) }

theorem scored_failed (h : Health) : h.scored false = failedFigures h := by
  unfold Health.scored failedFigures
  rw [if_neg Bool.false_ne_true, saturate_eq_min, saturate_eq_min]

/-- The state in which the health state of a position follows its failed exchange. -/
def afterScore (p : Pos) (s : State) : State := s.withHealth p (fun h => h.scored false)

theorem afterScore_health (p : Pos) (s : State) : (afterScore p s).health p = failedFigures (s.health p) := by
  unfold afterScore
  rw [health_withHealth, if_pos rfl, scored_failed]

theorem takeOutcome_failed (p : Pos) (s : State) : takeOutcome p false s = followScore p (afterScore p s) := rfl

/-- The outcome of an exchange that fails, the line being released. -/
def failedOutcome (p : Pos) (s : State) : State := takeOutcome p false { s with clc := s.clc.released }

/-- From `s` to `u` a failed exchange that cuts nothing off, its entry still to be settled. -/
structure Failed (p : Pos) (s u : State) : Prop where
  scored : Scored p { s with clc := s.clc.released } u
  health : ∃ probes, u.health p = { failedFigures (s.health p) with
    state := followedState (failedFigures (s.health p)), probes := probes }

namespace Failed

variable {p : Pos} {s u : State}

theorem queue (h : Failed p s u) : u.clc.queue = s.clc.queue := (congrArg LineController.queue h.scored.clc :)

theorem imageEntry (h : Failed p s u) (q : Pos) : u.imageEntry q = s.imageEntry q := by
  unfold State.imageEntry
  rw [h.scored.ps]

theorem owner (h : Failed p s u) (q : Pos) : u.owner q = s.owner q :=
  congrArg (fun pm : Priority => pm.owners.get q) h.scored.pm

theorem now (h : Failed p s u) : u.now = s.now := congrArg TimeBase.runningTime h.scored.ctb

end Failed

/-- The outcome of a probe that failed takes its successes away. -/
theorem probeOutcome_failed (p : Pos) (u : State) :
    probeOutcome p false u = u ∨ probeOutcome p false u = u.withHealth p (fun h => { h with probes := 0 }) := by
  unfold probeOutcome
  split
  · exact .inl rfl
  · exact .inr (if_pos rfl)

theorem endBad_eq {x : Exchange} {p : Pos} (hx : x.position = some p) (s : State) :
    ∃ u, endBad x s = afterFailure p u ∧ (u = failedOutcome p s ∨
      u = (failedOutcome p s).withHealth p (fun h => { h with probes := 0 })) := by
  unfold endBad
  rw [hx]
  dsimp only
  split
  · exact ⟨_, rfl, probeOutcome_failed p _⟩
  · exact ⟨_, rfl, .inl rfl⟩

/-- A failed exchange passes the test for CUT-OFF. -/
def withstands (p : Pos) (s : State) : Prop :=
  (s.health p).state = .cutOff ∨ (s.ident p).state ≠ .identified ∨ ((s.health p).failures < 2 ∧ (s.health p).score < 152)

theorem failed_withstands {p : Pos} {s : State} (h : withstands p s) :
    cutOffCause (afterScore p { s with clc := s.clc.released }) p = none := by
  refine cutOffCause_none.2 ?_
  rw [afterScore_health]
  refine h.imp id (Or.imp id (fun ⟨few, low⟩ => ?_))
  change min 3 ((s.health p).failures + 1) ≠ 3 ∧ min 255 ((s.health p).score + 8) < 160
  omega

theorem endBad_withstood {x : Exchange} {p : Pos} {s : State} (hx : x.position = some p) (h : withstands p s) :
    ∃ u, Failed p s u ∧ endBad x s = afterFailure p u := by
  obtain ⟨u, eq, hu⟩ := endBad_eq hx s
  obtain ⟨follows, figures, -⟩ := followScore_scored (failed_withstands h)
  have outcome : Scored p { s with clc := s.clc.released } (failedOutcome p s) := (Scored.withHealth _ p _).trans follows
  have health : (failedOutcome p s).health p =
      { failedFigures (s.health p) with state := followedState (failedFigures (s.health p)) } := by
    refine figures.trans ?_
    rw [afterScore_health]
    rfl
  rcases hu with rfl | rfl
  · exact ⟨_, ⟨outcome, _, health⟩, eq⟩
  · refine ⟨_, ⟨outcome.trans (.withHealth _ p _), 0, ?_⟩, eq⟩
    rw [health_withHealth, if_pos rfl, health]

/-! ### The entry of a failed exchange (R139, R141) -/

theorem onLineEntry_none {s : State} (h : ∀ y ∈ s.clc.queue, y.onLine = false) : onLineEntry s = none :=
  List.find?_eq_none.2 (fun y hy => by simp [h y hy])

theorem onLineEntry_some {s : State} {before after : List QueueEntry} {e : QueueEntry}
    (h : s.clc.queue = before ++ e :: after) (on : e.onLine = true) (off : ∀ y ∈ before ++ after, y.onLine = false) :
    onLineEntry s = some e := by
  have none : before.find? QueueEntry.onLine = none :=
    List.find?_eq_none.2 (fun y hy => by simp [off y (List.mem_append_left _ hy)])
  unfold onLineEntry
  rw [h, List.find?_append, none, List.find?_cons_of_pos on]
  rfl

theorem takeOffLine_queue {s : State} {before after : List QueueEntry} {e : QueueEntry}
    (h : s.clc.queue = before ++ e :: after) (on : e.onLine = true) (off : ∀ y ∈ before ++ after, y.onLine = false) :
    (takeOffLine s).clc.queue = before ++ after := by
  change s.clc.queue.filter (fun e => !e.onLine) = _
  rw [h, List.filter_append, List.filter_cons_of_neg (by simp [on])]
  rw [List.forall_mem_append] at off
  rw [List.filter_eq_self.2 (fun y hy => by simp [off.1 y hy]), List.filter_eq_self.2 (fun y hy => by simp [off.2 y hy])]

theorem afterFailure_none {p : Pos} {s : State} (h : onLineEntry s = none) : afterFailure p s = s := by
  unfold afterFailure
  rw [h]

/-- The entry that stays, off the line. -/
def offLine (s : State) : State := s.withQueue (s.clc.queue.map (fun x => { x with onLine := false }))

theorem afterFailure_again {p : Pos} {s : State} {e : QueueEntry} (h : onLineEntry s = some e)
    (left : e.attempts < e.command.attemptLimit) : afterFailure p s = offLine s := by
  unfold afterFailure
  rw [h]
  exact if_pos left

theorem afterFailure_drop {p : Pos} {s : State} {e : QueueEntry} (h : onLineEntry s = some e)
    (spent : e.command.attemptLimit ≤ e.attempts) :
    afterFailure p s = dropped p e.command e.route (takeOffLine s) := by
  unfold afterFailure
  rw [h]
  exact if_neg (by omega)

theorem attemptLimit_eq {c : LineCommand} (h : c ≠ .beacon) : c.attemptLimit = if c = .probePoll then 1 else 3 := by
  cases c <;> first | rfl | contradiction

theorem dropped_silent {p : Pos} {c : LineCommand} (h : c.isTimingSet = true ∨ c = .runLocal ∨ c.isPriorityAnswer = true ∨
    c = .probePoll) (route : Option RouteRef) (s : State) : dropped p c route s = s := by
  cases c <;> simp_all [LineCommand.isTimingSet, LineCommand.isPriorityAnswer, dropped]

/-! ### Entries over the end of a handling -/

theorem dropBeacon_queue {s : State} (h : ∀ y ∈ s.clc.queue, y.command ≠ .beacon) :
    (dropBeacon s).clc.queue = s.clc.queue := by
  unfold dropBeacon
  split
  · rfl
  · exact List.filter_eq_self.2 (fun y hy => by simp [h y hy])

theorem finish_entries {s : State} (h : ∀ y ∈ s.clc.queue, y.command ≠ .beacon) :
    (finish s).clc.queue.map QueueEntry.core = s.clc.queue.map QueueEntry.core := by
  rw [finish_core, dropBeacon_queue h]

/-- When no entry was on the line, the end of a handling puts no other than the head there. -/
theorem finish_onLine {s : State} (off : ∀ y ∈ s.clc.queue, y.onLine = false) :
    ∀ y ∈ (finish s).clc.queue, y.onLine = true → (finish s).clc.queue.head? = some y := by
  have dropped : ∀ y ∈ (dropBeacon s).clc.queue, y.onLine = false := fun y hy => by
    unfold dropBeacon at hy
    split at hy
    · exact off y hy
    · exact off y (List.mem_of_mem_filter hy)
  intro y hy on
  rcases settleLine_queue s with same | ⟨e, rest, split, -, marked⟩
  · rw [finish_clc, same] at hy
    exact absurd ((dropped y hy).symm.trans on) Bool.false_ne_true
  · rw [finish_clc, marked] at hy ⊢
    rcases List.mem_cons.1 hy with rfl | later
    · rfl
    · rw [split, List.forall_mem_cons] at dropped
      exact absurd ((dropped.2 y later).symm.trans on) Bool.false_ne_true

/-! ### The two events that end a failed exchange -/

/-- The event that ends the failed exchange `x`: the expiry of its window, or the quiet that follows a GARBLED reply. -/
def endsFailed (x : Exchange) (c : Instr) : Prop :=
  (x.phase = .window ∧ c = .responseWindowExpiry) ∨ (x.phase = .quieting ∧ c = .lineQuietExpiry)

theorem exec_fails {x : Exchange} {s : State} {c : Instr} (hl : s.clc.line = .exchange x) (h : endsFailed x c) :
    exec c s = .next (finish (endBad x s)) := by
  rcases h with ⟨hp, rfl⟩ | ⟨hp, rfl⟩ <;> exact congrArg Host.Outcome.next (inPhase_of hl hp)

theorem endBad_leaves (x : Exchange) (s : State) : LeavesStores s (finish (endBad x s)) :=
  (Moves.finish (Moves.endBad x (.refl s)) : Moves false true s _).leavesStores

theorem endBad_er (x : Exchange) (s : State) : (finish (endBad x s)).er = s.er :=
  (Moves.finish (Moves.endBad x (.refl s)) : Moves false true s _).router

/-! ### O34 -/

/-- What a failed exchange leaves when no other rule acts. -/
def Undisturbed (s t : State) : Prop :=
  t.oc = s.oc ∧ t.pt = s.pt ∧ t.qw = s.qw ∧ t.pm = s.pm ∧ t.ih.ident = s.ih.ident

theorem Failed.undisturbed {p : Pos} {s u v : State} (h : Failed p s u) (queue : v = u.withQueue v.clc.queue) :
    Undisturbed s (finish v) := by
  have settles := settles_finish v
  have ident : v.ih.ident = u.ih.ident := by rw [queue]; rfl
  have oc : v.oc = u.oc := by rw [queue]; rfl
  have pt : v.pt = u.pt := by rw [queue]; rfl
  have qw : v.qw = u.qw := by rw [queue]; rfl
  have pm : v.pm = u.pm := by rw [queue]; rfl
  exact ⟨settles.oc.trans (oc.trans h.scored.oc), settles.pt.trans (pt.trans h.scored.pt),
    settles.qw.trans (qw.trans h.scored.qw), settles.pm.trans (pm.trans h.scored.pm),
    settles.ident.trans (ident.trans h.scored.ident)⟩

/-- The entry of a failed exchange with attempts left. -/
theorem fails_again {p : Pos} {s u : State} {before after : List QueueEntry} {e : QueueEntry} (h : Failed p s u)
    (free : ∀ y ∈ s.clc.queue, y.command ≠ .beacon) (queue : s.clc.queue = before ++ e :: after) (on : e.onLine = true)
    (off : ∀ y ∈ before ++ after, y.onLine = false) (left : e.attempts < e.command.attemptLimit) :
    let t := finish (afterFailure p u)
    t.clc.queue.map QueueEntry.core = s.clc.queue.map QueueEntry.core ∧ Undisturbed s t ∧
      ∀ y ∈ t.clc.queue, y.onLine = true → t.clc.queue.head? = some y := by
  rw [afterFailure_again (onLineEntry_some (h.queue.trans queue) on off) left]
  have entries : (offLine u).clc.queue = s.clc.queue.map (fun x => { x with onLine := false }) := by
    rw [← h.queue]
    rfl
  refine ⟨?_, h.undisturbed rfl, finish_onLine (fun y hy => ?_)⟩
  · rw [finish_entries, entries, List.map_map]
    · rfl
    · rw [entries]
      intro y hy
      obtain ⟨x, hx, rfl⟩ := List.mem_map.1 hy
      exact free x hx
  · rw [entries] at hy
    obtain ⟨x, -, rfl⟩ := List.mem_map.1 hy
    rfl

theorem isMember_without (p : Pos) (s : State) : (leaveRoute p s).pm.isMember p = false := by
  rw [isMember_iff]
  intro r hr m hm
  obtain ⟨x, -, rfl⟩ := List.mem_map.1 hr
  simpa using (List.mem_filter.1 hm).2

/-- The entry of a failed exchange whose attempts are spent. -/
theorem fails_dropped {p : Pos} {s u : State} {before after : List QueueEntry} {e : QueueEntry} (h : Failed p s u)
    (free : ∀ y ∈ s.clc.queue, y.command ≠ .beacon) (queue : s.clc.queue = before ++ e :: after) (on : e.onLine = true)
    (off : ∀ y ∈ before ++ after, y.onLine = false) (spent : e.command.attemptLimit ≤ e.attempts) :
    let t := finish (afterFailure p u)
    (e.command.isTimingSet = true ∨ e.command = .runLocal ∨ e.command.isPriorityAnswer = true ∨ e.command = .probePoll →
      t.clc.queue.map QueueEntry.core = (before ++ after).map QueueEntry.core ∧ Undisturbed s t) ∧
    (∀ d hold ref, e.command = .routeClear d hold → e.route = some ref →
      let member := ∃ r ∈ s.pm.routes, r.ref = ref ∧ ∃ m ∈ r.members, m.position = p
      (¬ member → Undisturbed s t) ∧
      (member → t.owner p = .none ∧ t.pm.isMember p = false ∧ ∀ q, q ≠ p → t.owner q = s.owner q)) ∧
    ∀ ref, e.command = .routeEnd → e.route = some ref →
      let pending := s.owner p = .route ref.origin ∧ s.pm.isMember p = false
      (¬ pending → Undisturbed s t) ∧ (pending → t.pm = { s.pm with owners := s.pm.owners.set p.val .none }) := by
  have queueU := h.queue.trans queue
  have taken := takeOffLine_queue queueU on off
  rw [afterFailure_drop (onLineEntry_some queueU on off) spent]
  refine ⟨fun silent => ?_, fun d hold ref hc hr => ⟨fun out => ?_, fun member => ?_⟩,
    fun ref hc hr => ⟨fun out => ?_, fun pending => ?_⟩⟩
  · rw [dropped_silent silent]
    refine ⟨?_, h.undisturbed rfl⟩
    rw [finish_entries, taken]
    rw [taken]
    intro y hy
    refine free y ?_
    rw [queue]
    rcases List.mem_append.1 hy with hb | ha
    · exact List.mem_append_left _ hb
    · exact List.mem_append_right _ (List.mem_cons_of_mem _ ha)
  · have still : ¬ stillMember (takeOffLine u) ref p = true := by
      rw [stillMember_iff]
      change ¬ ∃ r ∈ u.pm.routes, _
      rwa [h.scored.pm]
    have left : dropped p e.command e.route (takeOffLine u) = takeOffLine u := by
      rw [hc, hr]
      exact clearFailed_left still
    rw [left]
    exact h.undisturbed rfl
  · have still : stillMember (takeOffLine u) ref p = true := by
      rw [stillMember_iff]
      change ∃ r ∈ u.pm.routes, _
      rwa [h.scored.pm]
    have left : dropped p e.command e.route (takeOffLine u) = setOwner p .none (leaveRoute p (takeOffLine u)) := by
      rw [hc, hr]
      exact if_pos still
    rw [left]
    refine ⟨(finish_owner _ p).trans ((setOwner_owner p p .none _).trans (if_pos rfl)), ?_, fun q hq => ?_⟩
    · rw [(settles_finish _).pm, setOwner_pm]
      exact isMember_without p (takeOffLine u)
    · exact (finish_owner _ q).trans ((setOwner_owner p q .none _).trans ((if_neg hq.symm).trans (h.owner q)))
  · have left : dropped p e.command e.route (takeOffLine u) = takeOffLine u := by
      rw [hc, hr]
      refine handBack_left ?_
      change ¬ (u.owner p = .route ref.origin ∧ u.pm.isMember p = false)
      rwa [h.owner, h.scored.pm]
    rw [left]
    exact h.undisturbed rfl
  · have left : dropped p e.command e.route (takeOffLine u) = setOwner p .none (takeOffLine u) := by
      rw [hc, hr]
      refine handBack_taken ?_
      change u.owner p = .route ref.origin ∧ u.pm.isMember p = false
      rwa [h.owner, h.scored.pm]
    rw [left, (settles_finish _).pm, setOwner_pm]
    have pm : (takeOffLine u).pm = s.pm := h.scored.pm
    rw [pm]

/-- An ACK to a TIMING-SET takes its entry out. -/
theorem timingSet_ack_takesOut {p : Pos} {x : Exchange} {s : State} {before after : List QueueEntry} {e : QueueEntry}
    {figures : TimingSet} {route : Option RouteRef} (h : awaiting s x p) (hw : x.work = .command (.timingSet figures) route)
    (score : (s.health p).score < 160) (free : ∀ y ∈ s.clc.queue, y.command ≠ .beacon)
    (queue : s.clc.queue = before ++ e :: after) (on : e.onLine = true) (off : ∀ y ∈ before ++ after, y.onLine = false) :
    ∃ t, exec (.ack x.address) s = .next t ∧ t.clc.queue.map QueueEntry.core = (before ++ after).map QueueEntry.core := by
  obtain ⟨u, good, run, -⟩ := exec_acked (i := .ack x.address) h hw score nofun nofun nofun (.inl rfl)
  have out : (takeOffLine s).clc.queue = before ++ after := takeOffLine_queue queue on off
  have entries : (acked p (.timingSet figures) route u).clc.queue = before ++ after :=
    (congrArg LineController.queue (CoordAt.timingAcked p figures u).only.clc).trans (good.queue.trans out)
  refine ⟨_, run, ?_⟩
  rw [finish_entries, entries]
  rw [entries, ← out]
  exact fun y hy => free y (List.mem_of_mem_filter hy)

/-- A failed exchange that cuts nothing off, entry by entry. -/
theorem fails_settlesEntry {p : Pos} {x : Exchange} {s : State} (hl : s.clc.line = .exchange x) (hx : x.position = some p)
    (few : (s.health p).failures < 2) (low : (s.health p).score < 152) (free : ∀ y ∈ s.clc.queue, y.command ≠ .beacon)
    {c : Instr} (hc : endsFailed x c) :
    ∃ t, exec c s = .next t ∧ LeavesStores s t ∧ t.er = s.er ∧
      ((∀ y ∈ s.clc.queue, y.onLine = false) →
        t.clc.queue.map QueueEntry.core = s.clc.queue.map QueueEntry.core ∧ Undisturbed s t) ∧
      ∀ before e after, s.clc.queue = before ++ e :: after → e.onLine = true → (∀ y ∈ before ++ after, y.onLine = false) →
        let limit := if e.command = .probePoll then 1 else 3
        (e.attempts < limit → t.clc.queue.map QueueEntry.core = s.clc.queue.map QueueEntry.core ∧ Undisturbed s t ∧
          ∀ y ∈ t.clc.queue, y.onLine = true → t.clc.queue.head? = some y) ∧
        (limit ≤ e.attempts →
          (e.command.isTimingSet = true ∨ e.command = .runLocal ∨ e.command.isPriorityAnswer = true ∨
            e.command = .probePoll → t.clc.queue.map QueueEntry.core = (before ++ after).map QueueEntry.core ∧
              Undisturbed s t) ∧
          (∀ d hold ref, e.command = .routeClear d hold → e.route = some ref →
            let member := ∃ r ∈ s.pm.routes, r.ref = ref ∧ ∃ m ∈ r.members, m.position = p
            (¬ member → Undisturbed s t) ∧
            (member → t.owner p = .none ∧ t.pm.isMember p = false ∧ ∀ q, q ≠ p → t.owner q = s.owner q)) ∧
          ∀ ref, e.command = .routeEnd → e.route = some ref →
            let pending := s.owner p = .route ref.origin ∧ s.pm.isMember p = false
            (¬ pending → Undisturbed s t) ∧ (pending → t.pm = { s.pm with owners := s.pm.owners.set p.val .none })) := by
  obtain ⟨u, failed, eq⟩ := endBad_withstood hx (.inr (.inr ⟨few, low⟩))
  refine ⟨_, exec_fails hl hc, endBad_leaves x s, endBad_er x s, fun off => ?_, fun before e after queue on off => ?_⟩
  · rw [eq, afterFailure_none (onLineEntry_none (by rwa [failed.queue]))]
    refine ⟨?_, failed.undisturbed rfl⟩
    rw [finish_entries (by rwa [failed.queue]), failed.queue]
  · have limit := attemptLimit_eq (free e (by rw [queue]; exact List.mem_append_right _ List.mem_cons_self))
    intro bound
    rw [eq]
    exact ⟨fun left => fails_again failed free queue on off (by rw [limit]; exact left),
      fun spent => fails_dropped failed free queue on off (by rw [limit]; exact spent)⟩

/-- Settles O34: tried again, dropped, or taken out. -/
theorem failedEntriesTriedAgainOrDropped : Obligations.FailedEntriesTriedAgainOrDropped := by
  unfold Obligations.FailedEntriesTriedAgainOrDropped
  intro p x s hl hx few low free
  exact ⟨fun hp => fails_settlesEntry hl hx few low free (.inl ⟨hp, rfl⟩),
    fun hp => fails_settlesEntry hl hx few low free (.inr ⟨hp, rfl⟩),
    fun before e after figures route hp hw queue on off =>
      timingSet_ack_takesOut ⟨hl, hp, hx⟩ hw (by omega) free queue on off⟩

end Sys2Proof.Proofs.Failures
end

section
/-! PROOF. The reports that take a position out of service, and the failed exchange that cuts it off (O31). -/

open Sys2Proof Sys2Proof.Machine

namespace Sys2Proof.Proofs.Reports

open Answers Roads Coordination StatusReplies RouteEnds Exchanges Failures

/-! ### Platoons and approach records -/

/-- From `s` to `t` nothing but platoons, approach records and notices differs. -/
structure Beside (s t : State) : Prop where
  pending : t.pending = s.pending
  ctb : t.ctb = s.ctb
  oc : t.oc = s.oc
  pm : t.pm = s.pm
  pl : t.pl = s.pl
  ps : t.ps = s.ps
  clc : t.clc = s.clc
  ih : t.ih = s.ih
  er : t.er = s.er
  config : t.config = s.config
  sli : { t.sli with notices := [], overrun := 0 } = { s.sli with notices := [], overrun := 0 }

namespace Beside

theorem rfl' (s : State) : Beside s s := by constructor <;> rfl

theorem trans {a b c : State} (h : Beside a b) (g : Beside b c) : Beside a c :=
  ⟨g.pending.trans h.pending, g.ctb.trans h.ctb, g.oc.trans h.oc, g.pm.trans h.pm, g.pl.trans h.pl, g.ps.trans h.ps,
    g.clc.trans h.clc, g.ih.trans h.ih, g.er.trans h.er, g.config.trans h.config, g.sli.trans h.sli⟩

theorem ofTracker {s t : State} (h : Links.TrackerOnly s t) : Beside s t :=
  ⟨h.pending, h.ctb, h.oc, h.pm, h.pl, h.ps, h.clc, h.ih, h.er, h.config, h.sli⟩

theorem raiseNotice (body : NoticeBody) (s : State) : Beside s (raiseNotice body s) :=
  .ofTracker (.raiseNotice body s)

theorem watch (s : State) (qw : Watch) : Beside s { s with qw := qw } := by constructor <;> rfl

theorem foldl {α : Type} {f : State → α → State} (h : ∀ s x, Beside s (f s x)) (l : List α) (s : State) :
    Beside s (l.foldl f s) := by
  induction l generalizing s with
  | nil => exact rfl' s
  | cons x l ih => exact (h s x).trans (ih _)

theorem emptyLink (l : Link) (s : State) : Beside s (emptyLink l s) :=
  .ofTracker ((Links.TrackerOnly.withLink s l _).trans (.freeRecords _ _))

theorem linksDown (p : Pos) (s : State) : Beside s (linksDown p s) := foldl (fun s l => emptyLink l s) _ s

theorem emptyAccumulator (p : Pos) (s : State) : Beside s (emptyAccumulator p s) := by constructor <;> rfl

theorem noteGridlock (condition : GridlockCondition) (active : Gridlock → Bool) (old : Vector Gridlock 12) (s : State) :
    Beside s (noteGridlock condition active old s) := by
  unfold Machine.noteGridlock forPositions
  refine foldl (fun s p => ?_) positions s
  dsimp only
  split
  · exact rfl' s
  · exact raiseNotice _ s

theorem settleGridlock (s : State) : Beside s (settleGridlock s) :=
  (((watch s s.qw.settleGridlock).trans (noteGridlock _ _ _ _)).trans (noteGridlock _ _ _ _)).trans (noteGridlock _ _ _ _)

theorem approachesLost (p : Pos) (s : State) : Beside s (approachesLost p s) :=
  (watch s _).trans (settleGridlock _)

theorem road {A : Pos → Prop} {C : LineCommand → Prop} {s t : State} (h : Beside s t) : Road true A C s t where
  pending := h.pending
  ctb := h.ctb
  limits := by rw [h.oc]
  pt := nofun
  qw := nofun
  pl := h.pl
  ps := h.ps
  er := h.er
  config := h.config
  budgets := by rw [h.pm]
  policy := by rw [h.pm]
  accepted := by rw [h.clc]
  outcomes := by
    constructor <;> first | rw [h.ih] | rw [h.clc] | exact (congrArg Supervisory.draining h.sli :)
  sli := h.sli
  ident q := by unfold State.ident; rw [h.ih]
  retry q := .inl (by unfold State.ident; rw [h.ih])
  trim q := by unfold State.coord; rw [h.oc]
  coord q _ := by unfold State.coord; rw [h.oc]
  owner q _ := by unfold State.owner; rw [h.pm]
  queue e he := .inl (by rwa [h.clc] at he)

end Beside

/-! ### A position out of service -/

/-- Of the entries addressed to a position, only those of Identification and Health stand. -/
def OutOfQueue (p : Pos) (s : State) : Prop := ∀ e ∈ s.clc.queue, e.position = some p → e.command.isAdministrative = true

/-- A position without an owner that is not coordinated. -/
structure Resting (p : Pos) (s : State) : Prop where
  state : coordinated (s.coord p).state = false
  owner : s.owner p = .none

theorem OutOfQueue.subset {p : Pos} {s t : State} (h : OutOfQueue p s) (sub : ∀ e ∈ t.clc.queue, e ∈ s.clc.queue) :
    OutOfQueue p t := fun e he => h e (sub e he)

theorem OutOfQueue.road {p : Pos} {wide : Bool} {A : Pos → Prop} {C : LineCommand → Prop} {s t : State}
    (h : OutOfQueue p s) (road : Road wide A C s t) (apart : A p → ∀ c, ¬ C c) : OutOfQueue p t := fun e he hp => by
  rcases road.queue e he with old | ⟨hc, -, -, -, q, hq, hp'⟩
  · exact h e old hp
  · cases hp.symm.trans hp'
    exact absurd hc (apart hq _)

theorem outOfQueue_withdrawServiced (p : Pos) (s : State) : OutOfQueue p (withdrawServiced p s) := fun e he hp => by
  have kept := (List.mem_filter.1 he).2
  simpa [hp] using kept

theorem setOwner_none_resting {p : Pos} {s : State} (h : coordinated (s.coord p).state = false) :
    setOwner p .none s = withOwner p .none s := by
  by_cases owner : s.owner p = .none
  · exact setOwner_same (by simp [owner])
  · rw [setOwner_none owner]
    refine ownerReturned_unpreempted (s := withOwner p .none s) (fun e => ?_)
    have same : ((withOwner p .none s).coord p).state = (s.coord p).state := rfl
    rw [← same, e] at h
    exact absurd h (by decide)

theorem coordOutOfService_rests (p : Pos) (reason : LocalReason) (s : State) :
    coordinated ((coordOutOfService p reason s).coord p).state = false := by
  unfold coordOutOfService
  split
  · next h => rw [h]; rfl
  · next h => rw [takeReason_coord]; rfl
  · rw [leaveToLocal_coord]; rfl

theorem endRouteFrom_apart {wide : Bool} {p : Pos} {s : State}
    (off : ∀ r, s.pm.routeFrom p = some r → ∀ m ∈ r.members, m.position ≠ p) :
    Road wide (· ≠ p) releases s (endRouteFrom p s).1 := .endRouteFrom off (.inr rfl) (.inl rfl)

/-- The end of a call of a position that is not coordinated: its route ends, and the owner goes without more. -/
theorem endCall_resting {p : Pos} {s : State} (rest : coordinated (s.coord p).state = false) (cause : EndCause) :
    endCall p cause s =
      raiseNotice (.preemptEnd p cause (endRouteFrom p s).2) (withOwner p .none (endRouteFrom p s).1) := by
  have kept : (endRouteFrom p s).1.coord p = s.coord p := (Handled.endRouteFrom p s).rests p rest
  unfold endCall
  dsimp only
  rw [setOwner_none_resting (by rwa [kept])]

/-- A position that is not coordinated loses its standing. -/
theorem standingLost_resting {p : Pos} {s : State} (rest : coordinated (s.coord p).state = false) :
    Resting p (standingLost p s) := by
  have kept : (standingLost p s).coord p = s.coord p := (Handled.standingLost p s).rests p rest
  refine ⟨by rwa [kept], ?_⟩
  unfold standingLost
  split
  · next h => exact h
  · exact endCall_owner p _ s
  · exact (setOwner_owner p p _ _).trans (if_pos rfl)

theorem standingLost_none {p : Pos} {s : State} (h : s.owner p = .none) : standingLost p s = s := by
  unfold standingLost
  rw [h]

theorem OutOfQueue.standingLost {p : Pos} {s : State} (h : OutOfQueue p s) (rest : coordinated (s.coord p).state = false)
    (off : ∀ r, s.pm.routeFrom p = some r → ∀ m ∈ r.members, m.position ≠ p) : OutOfQueue p (standingLost p s) := by
  unfold Machine.standingLost
  split
  · exact h
  · rw [endCall_resting rest]
    exact (h.road (wide := false) (endRouteFrom_apart off) (fun ne => absurd rfl ne)).subset (fun _ he => he)
  · rw [setOwner_none_resting (s := withdrawEnd p (withdrawClear p (leaveRoute p s))) rest]
    exact h.subset (fun e he => List.mem_of_mem_filter (List.mem_of_mem_filter he))

/-- What the reports do to the queue and the routes first: the entries go, and the position leaves the coordinated states. -/
structure Left (p : Pos) (s t : State) : Prop where
  outOfQueue : OutOfQueue p t
  rests : coordinated (t.coord p).state = false
  pm : t.pm = s.pm

theorem coordOutOfService_pm (p : Pos) (reason : LocalReason) (s : State) : (coordOutOfService p reason s).pm = s.pm := by
  unfold coordOutOfService
  split
  · rfl
  · exact takeReason_pm p _ s
  · exact leaveToLocal_pm p _ _ s

theorem left_coordOutOfService (p : Pos) (reason : LocalReason) (s : State) :
    Left p s (coordOutOfService p reason (withdrawServiced p s)) :=
  ⟨(outOfQueue_withdrawServiced p s).road
      (Road.coordOutOfService (wide := false) (A := (· = p)) (C := fun _ => False) rfl reason _) (fun _ _ h => h),
    coordOutOfService_rests p reason _, coordOutOfService_pm p reason _⟩

/-- A position is out of service. -/
structure OutOfService (p : Pos) (s : State) : Prop where
  queue : OutOfQueue p s
  rests : Resting p s

theorem OutOfService.beside {p : Pos} {s t : State} (h : OutOfService p s) (beside : Beside s t) : OutOfService p t :=
  ⟨h.queue.subset (fun e he => by rwa [beside.clc] at he), ⟨by
    unfold State.coord
    rw [beside.oc]
    exact h.rests.state, by
    unfold State.owner
    rw [beside.pm]
    exact h.rests.owner⟩⟩

theorem Left.standingLost {p : Pos} {s t : State} (h : Left p s t)
    (off : ∀ r, s.pm.routeFrom p = some r → ∀ m ∈ r.members, m.position ≠ p) : OutOfService p (standingLost p t) :=
  ⟨h.outOfQueue.standingLost h.rests (by rw [h.pm]; exact off), standingLost_resting h.rests⟩

theorem cutOffReport_outOfService {p : Pos} {s : State}
    (off : ∀ r, s.pm.routeFrom p = some r → ∀ m ∈ r.members, m.position ≠ p) : OutOfService p (cutOffReport p s) :=
  (((left_coordOutOfService p .cutOff s).standingLost off).beside (.linksDown p _)).beside (.approachesLost p _)

/-- A position out of service stays so when a quiet period begins for it. -/
theorem OutOfService.quietReport {p : Pos} {s : State} (h : OutOfService p s) : OutOfService p (quietReport p s) := by
  have left := left_coordOutOfService p .quiet s
  have owner : (coordOutOfService p .quiet (withdrawServiced p s)).owner p = .none :=
    (congrArg (fun pm : Priority => pm.owners.get p) left.pm).trans h.rests.owner
  unfold Machine.quietReport
  dsimp only
  rw [standingLost_none owner]
  exact (OutOfService.mk left.outOfQueue ⟨left.rests, owner⟩).beside (.linksDown p _)

/-- A change that leaves queue, record and owner of a position leaves it out of service. -/
theorem OutOfService.same {p : Pos} {s t : State} (h : OutOfService p s) (queue : ∀ e ∈ t.clc.queue, e ∈ s.clc.queue)
    (coord : t.coord p = s.coord p) (owner : t.owner p = s.owner p) : OutOfService p t :=
  ⟨h.queue.subset queue, ⟨by rw [coord]; exact h.rests.state, by rw [owner]; exact h.rests.owner⟩⟩

theorem OutOfService.withHealth {p : Pos} {s : State} (h : OutOfService p s) (f : Health → Health) :
    OutOfService p (s.withHealth p f) := ⟨h.queue, ⟨h.rests.state, h.rests.owner⟩⟩

theorem OutOfService.setOwner_none {p : Pos} {s : State} (h : OutOfService p s) : OutOfService p (setOwner p .none s) := by
  rw [setOwner_none_resting h.rests.state]
  exact ⟨h.queue, ⟨h.rests.state, (withOwner_owner p p .none s).trans (if_pos rfl)⟩⟩

theorem identifyDropped_same (p : Pos) (s : State) :
    (identifyDropped p s).clc = s.clc ∧ (identifyDropped p s).oc = s.oc ∧ (identifyDropped p s).pm = s.pm := by
  unfold identifyDropped
  dsimp only
  split <;> exact ⟨rfl, rfl, rfl⟩

theorem OutOfService.dropped {p : Pos} {s : State} (h : OutOfService p s) (c : LineCommand) (route : Option RouteRef) :
    OutOfService p (dropped p c route s) := by
  unfold Machine.dropped
  split
  · obtain ⟨clc, oc, pm⟩ := identifyDropped_same p s
    exact h.same (fun e he => by rwa [clc] at he) (congrArg (fun oc : Coordinator => oc.positions.get p) oc)
      (congrArg (fun pm : Priority => pm.owners.get p) pm)
  · unfold startQuiet
    split
    · exact OutOfService.quietReport (h.same (fun _ he => he) rfl rfl)
    · exact h
  · unfold clearFailed
    split
    · exact OutOfService.setOwner_none (h.same (t := leaveRoute p s) (fun _ he => he) rfl rfl)
    · exact h
  · unfold handBack
    split
    · exact h.setOwner_none
    · exact h
  · exact h

theorem OutOfService.afterFailure {p : Pos} {s : State} (h : OutOfService p s) : OutOfQueue p (afterFailure p s) := by
  unfold Machine.afterFailure
  split
  · exact h.queue
  · split
    · intro e he hp
      obtain ⟨x, hx, rfl⟩ := List.mem_map.1 he
      exact h.queue x hx hp
    · exact (OutOfService.dropped (h.same (t := takeOffLine s) (fun _ he => List.mem_of_mem_filter he) rfl rfl) _ _).queue

theorem OutOfQueue.finish {p : Pos} {s : State} (h : OutOfQueue p s) : OutOfQueue p (finish s) := fun e he hp => by
  obtain ⟨x, hx, same⟩ := mem_finish he
  rw [core_command same]
  exact h x hx ((core_position same).symm.trans hp)

theorem isAdministrative_iff (c : LineCommand) : c.isAdministrative = true ↔ c = .identify ∨ c = .quiet ∨ c = .probePoll := by
  cases c <;> simp [LineCommand.isAdministrative, LineCommand.originator]

/-! ### The failed exchange (R152, R153) -/

theorem dropped_figures (p : Pos) (c : LineCommand) (route : Option RouteRef) (s : State) :
    FiguresKept p s (dropped p c route s) := by
  unfold dropped
  split
  · exact .ofMoves p (rt := true) (Moves.identifyDropped p (.refl s))
  · exact startQuiet_figures p s
  · exact .ofMoves p (rt := true) (Moves.clearFailed p _ (.refl s))
  · exact .ofMoves p (rt := true) (Moves.handBack p _ (.refl s))
  · exact .rfl' p s

theorem afterFailure_figures (p : Pos) (s : State) : FiguresKept p s (afterFailure p s) := by
  unfold afterFailure
  split
  · exact .rfl' p s
  · split
    · exact .ofTables p rfl rfl
    · have off : FiguresKept p s (takeOffLine s) := .ofTables p rfl rfl
      exact off.trans (dropped_figures p _ _ _)

/-- The figures at the end of a failed exchange are those it left before its entry was settled. -/
theorem fails_figures (p : Pos) (u : State) : FiguresKept p u (finish (afterFailure p u)) :=
  (afterFailure_figures p u).trans (.settles p (settles_finish _))

theorem followedState_failed {h : Health} (open' : h.state ≠ .cutOff) (low : h.score < 152) :
    followedState (failedFigures h) =
      if 56 ≤ h.score ∨ (h.state = .degraded ∧ 40 ≤ h.score) then .degraded else .sound := by
  have score : (failedFigures h).score = min 255 (h.score + 8) := rfl
  have state : (failedFigures h).state = h.state := rfl
  unfold followedState
  rw [state, score]
  split
  · next e =>
    rw [e]
    simp only [reduceCtorEq, false_and, or_false]
    split_ifs <;> first | rfl | omega
  · next e =>
    rw [e]
    simp only [true_and]
    split_ifs <;> first | rfl | omega
  · next e => exact absurd e open'

theorem followedState_open {h : Health} (open' : h.state ≠ .cutOff) : followedState h ≠ .cutOff := by
  unfold followedState
  split
  · split <;> nofun
  · split <;> nofun
  · next e => exact absurd e open'

/-- From `s` to `u` a failed exchange that cuts its position off, its entry still to be settled. -/
structure CutOffBy (p : Pos) (s u : State) : Prop where
  health : ∃ probes, u.health p = { failedFigures (s.health p) with
    state := .cutOff, probes := probes,
    probeDeadline := if recoversAlone s p = true ∧ (s.health p).stage = .none then some (later s.now 50)
      else (s.health p).probeDeadline }
  outOfService : (∀ r, s.pm.routeFrom p = some r → ∀ m ∈ r.members, m.position ≠ p) → OutOfService p u

theorem cutOff_of {p : Pos} {cause : HealthCause} {s : State} :
    (cutOff p cause s).health p = { s.health p with
        state := .cutOff,
        probeDeadline := if recoversAlone s p = true ∧ (s.health p).stage = .none then some (later s.now 50)
          else (s.health p).probeDeadline } ∧
      ((∀ r, s.pm.routeFrom p = some r → ∀ m ∈ r.members, m.position ≠ p) → OutOfService p (cutOff p cause s)) := by
  have moves : Moves false false (setHealth p .cutOff cause s) (cutOffReport p (setHealth p .cutOff cause s)) :=
    Moves.cutOffReport p (.refl _)
  have health : (cutOffReport p (setHealth p .cutOff cause s)).health p = { s.health p with state := .cutOff } :=
    (congrArg (fun v : Vector Health 12 => v.get p) moves.leavesOutcomes.health).trans (setHealth_health p _ cause s)
  have alone : recoversAlone (cutOffReport p (setHealth p .cutOff cause s)) p = recoversAlone s p := by
    unfold recoversAlone
    rw [moves.leavesStores.config]
    rfl
  have now : (cutOffReport p (setHealth p .cutOff cause s)).now = s.now :=
    congrArg TimeBase.runningTime moves.leavesStores.ctb
  have report : (∀ r, s.pm.routeFrom p = some r → ∀ m ∈ r.members, m.position ≠ p) →
      OutOfService p (cutOffReport p (setHealth p .cutOff cause s)) := fun off => cutOffReport_outOfService off
  unfold cutOff
  dsimp only
  rw [alone, health, now]
  dsimp only
  split
  · next alone =>
    refine ⟨?_, fun off => (report off).withHealth _⟩
    rw [health_withHealth, if_pos rfl, health]
  · exact ⟨health, report⟩

theorem endBad_cutOff {x : Exchange} {p : Pos} {s : State} (hx : x.position = some p) (h : ¬ withstands p s) :
    ∃ u, CutOffBy p s u ∧ endBad x s = afterFailure p u := by
  obtain ⟨u, eq, hu⟩ := endBad_eq hx s
  have notNone : cutOffCause (afterScore p { s with clc := s.clc.released }) p ≠ none := fun none => by
    refine h (Or.imp ?_ (Or.imp ?_ ?_) (cutOffCause_none.1 none))
    · rw [afterScore_health]; exact id
    · exact id
    · rw [afterScore_health]
      rintro ⟨few, low⟩
      change min 3 ((s.health p).failures + 1) ≠ 3 at few
      change min 255 ((s.health p).score + 8) < 160 at low
      exact ⟨by omega, by omega⟩
  obtain ⟨cause, hc⟩ := Option.ne_none_iff_exists'.1 notNone
  have outcome : failedOutcome p s = cutOff p cause (afterScore p { s with clc := s.clc.released }) := by
    unfold failedOutcome
    rw [takeOutcome_failed]
    unfold followScore
    rw [hc]
  obtain ⟨health, outOfService⟩ := cutOff_of (p := p) (cause := cause) (s := afterScore p { s with clc := s.clc.released })
  rw [← outcome] at health outOfService
  rw [afterScore_health] at health
  have cut : CutOffBy p s (failedOutcome p s) := ⟨⟨_, health⟩, outOfService⟩
  rcases hu with rfl | rfl
  · exact ⟨_, cut, eq⟩
  · refine ⟨(failedOutcome p s).withHealth p _, ⟨⟨0, ?_⟩, fun off => (cut.outOfService off).withHealth _⟩, eq⟩
    rw [health_withHealth, if_pos rfl, health]
    rfl

/-- A failed exchange, case by case. -/
theorem fails_scores {p : Pos} {x : Exchange} {s : State} (hl : s.clc.line = .exchange x) (hx : x.position = some p)
    {c : Instr} (hc : endsFailed x c) :
    ∃ t, exec c s = .next t ∧ (t.health p).score = min 255 ((s.health p).score + 8) ∧
      (t.health p).failures = min 3 ((s.health p).failures + 1) ∧ LeavesStores s t ∧
      ((s.health p).state = .cutOff → (t.health p).state = .cutOff) ∧
      ((s.health p).state ≠ .cutOff → (s.ident p).state = .identified →
        (2 ≤ (s.health p).failures ∨ 152 ≤ (s.health p).score →
          (t.health p).state = .cutOff ∧
            ((s.health p).stage = .none → (s.config.get p).map PositionConfig.recovery = some .auto →
              (t.health p).probeDeadline = some (later s.now 50))) ∧
        (2 ≤ (s.health p).failures ∨ 152 ≤ (s.health p).score →
          (∀ r ∈ s.pm.routes, r.ref.origin = p → ∀ m ∈ r.members, m.position ≠ p) →
          ∀ e ∈ t.clc.queue, e.position = some p →
            e.command = .identify ∨ e.command = .quiet ∨ e.command = .probePoll) ∧
        ((s.health p).failures < 2 → (s.health p).score < 152 →
          (t.health p).state = (if 56 ≤ (s.health p).score ∨
            ((s.health p).state = .degraded ∧ 40 ≤ (s.health p).score) then .degraded else .sound))) ∧
      ((s.health p).state ≠ .cutOff → (s.ident p).state ≠ .identified → (t.health p).state ≠ .cutOff) := by
  by_cases stands : withstands p s
  · obtain ⟨u, failed, eq⟩ := endBad_withstood hx stands
    obtain ⟨probes, health⟩ := failed.health
    have kept := fails_figures p u
    rw [← eq] at kept
    refine ⟨_, exec_fails hl hc, kept.score.trans (by rw [health]; rfl), kept.failures.trans (by rw [health]; rfl),
      endBad_leaves x s, fun cut => ?_, fun open' known => ?_, fun open' _ => ?_⟩ <;> rw [kept.state, health]
    · change followedState (failedFigures (s.health p)) = .cutOff
      unfold followedState
      rw [show (failedFigures (s.health p)).state = .cutOff from cut]
    · rcases stands with cut | unknown | ⟨few, low⟩
      · exact absurd cut open'
      · exact absurd known unknown
      · exact ⟨fun many => by omega, fun many => by omega, fun _ _ => followedState_failed open' low⟩
    · exact followedState_open open'
  · obtain ⟨u, cut, eq⟩ := endBad_cutOff hx stands
    obtain ⟨probes, health⟩ := cut.health
    have kept := fails_figures p u
    rw [← eq] at kept
    have state : ((finish (endBad x s)).health p).state = .cutOff := kept.state.trans (by rw [health])
    refine ⟨_, exec_fails hl hc, kept.score.trans (by rw [health]; rfl), kept.failures.trans (by rw [health]; rfl),
      endBad_leaves x s, fun _ => state, fun open' known => ⟨fun _ => ⟨state, fun none auto => ?_⟩, fun _ off => ?_,
        fun few low => absurd (.inr (.inr ⟨few, low⟩)) stands⟩, fun open' unknown => absurd (.inr (.inl unknown)) stands⟩
    · have alone : recoversAlone s p = true := by
        obtain ⟨cfg, hcfg, recovery⟩ := Option.map_eq_some_iff.1 auto
        unfold recoversAlone
        rw [hcfg]
        exact beq_iff_eq.2 recovery
      rw [kept.probeDeadline, health]
      exact if_pos ⟨alone, none⟩
    · have out := cut.outOfService (fun r hr => off r (List.mem_of_find?_eq_some hr) (routeFrom_origin hr))
      intro e he hp
      rw [eq] at he
      exact (isAdministrative_iff e.command).1 (OutOfQueue.finish out.afterFailure e he hp)

/-- Settles O31: the same for the two events that end a failed exchange. -/
theorem failedExchangeScores : Obligations.FailedExchangeScores := by
  unfold Obligations.FailedExchangeScores
  intro p x s hl hx
  exact ⟨fun hp => fails_scores hl hx (.inl ⟨hp, rfl⟩), fun hp => fails_scores hl hx (.inr ⟨hp, rfl⟩)⟩

end Sys2Proof.Proofs.Reports
end

section
/-! PROOF. Identifications: begun, tried again, completed; probes and re-identifications (O38, O37, O39, O40). -/

open Sys2Proof Sys2Proof.Machine

namespace Sys2Proof.Proofs.Identifications

open Answers Roads Coordination StatusReplies RouteEnds Exchanges Failures Reports

/-! ### Offers that find room -/

/-- A fresh entry for a configured position. -/
def freshEntry (c : LineCommand) (p : Pos) (cfg : PositionConfig) (s : State) : QueueEntry :=
  { command := c, address := cfg.address, position := some p, route := none, joined := s.now, attempts := 0, onLine := false }

/-- An offer for a configured position in LIVE finds a place in a queue with room. -/
theorem offerTo_room {c : LineCommand} {p : Pos} {cfg : PositionConfig} {s : State} (hc : s.config.get p = some cfg)
    (live : s.isLive = true) (room : s.clc.queue.length < 24) (hr : c ≠ .runLocal) :
    ∃ q, offerTo c p none s = (s.withQueue q, true) ∧
      (s.clc.queue.any (replaces c (some p)) = false → q = joinQueue (freshEntry c p cfg s) s.clc.queue) := by
  cases h : s.clc.queue.any (replaces c (some p)) with
  | false => exact ⟨_, offerTo_joins hc (offerOpen_live live c) hr h room, fun _ => rfl⟩
  | true =>
    have replaced : offerTo c p none s = (s.withQueue (joinQueue (freshEntry c p cfg s)
        (s.clc.queue.filter (fun x => !replaces c (some p) x))), true) := by
      unfold offerTo
      rw [hc]
      exact Offers.offerEntry_replaces (offerOpen_live live c) (fun barred => hr barred.1) (List.any_eq_true.1 h)
    exact ⟨_, replaced, nofun⟩

theorem offerIdentify_room {p : Pos} {cfg : PositionConfig} {s : State} (hc : s.config.get p = some cfg)
    (live : s.isLive = true) (room : s.clc.queue.length < 24) :
    offerIdentify p s = s.withQueue (joinQueue (freshEntry .identify p cfg s) s.clc.queue) := by
  obtain ⟨q, eq, joins⟩ := offerTo_room (c := .identify) hc live room nofun
  unfold offerIdentify
  rw [eq, joins (any_replaces_none (.inl rfl))]
  rfl

theorem offerQuiet_room {p : Pos} {cfg : PositionConfig} {s : State} (hc : s.config.get p = some cfg)
    (live : s.isLive = true) (room : s.clc.queue.length < 24) :
    ∃ q, offerQuiet p s = s.withQueue q ∧
      (s.clc.queue.any (replaces .quiet (some p)) = false → q = joinQueue (freshEntry .quiet p cfg s) s.clc.queue) := by
  obtain ⟨q, eq, joins⟩ := offerTo_room (c := .quiet) hc live room nofun
  refine ⟨q, ?_, joins⟩
  unfold offerQuiet
  rw [eq]
  rfl

theorem whenDue_due {due : State → Bool} {handle : State → State} {s : State} (h : due s = true) :
    whenDue due handle s = finish (handle s) := if_pos h

theorem expires_now (s : State) : expires (some s.now) s = true := beq_self_eq_true _

theorem finish_lineTaken_queue {s : State} (taken : lineTaken s) (beacon : beaconCondition s = true) :
    (finish s).clc.queue = s.clc.queue := by
  obtain ⟨-, -, -, queue, -⟩ := finish_lineTaken taken
  rw [queue]
  unfold dropBeacon
  rw [if_pos beacon]

theorem finish_lineTaken_line {s : State} (taken : lineTaken s) : (finish s).clc.line = s.clc.line :=
  (finish_lineTaken taken).1

/-! ### An identification begins (R149) -/

/-- From `s` to `t` nothing but the identification and the health of `p` and notices differ. -/
structure OnlyAt (p : Pos) (s t : State) : Prop where
  pending : t.pending = s.pending
  ctb : t.ctb = s.ctb
  oc : t.oc = s.oc
  pt : t.pt = s.pt
  qw : t.qw = s.qw
  pm : t.pm = s.pm
  pl : t.pl = s.pl
  ps : t.ps = s.ps
  clc : t.clc = s.clc
  er : t.er = s.er
  config : t.config = s.config
  mode : t.sli.mode = s.sli.mode
  ident : ∀ q, q ≠ p → t.ident q = s.ident q
  health : ∀ q, q ≠ p → t.health q = s.health q

namespace OnlyAt

variable {p : Pos}

theorem rfl' (s : State) : OnlyAt p s s := by constructor <;> first | rfl | exact fun _ _ => rfl

theorem trans {a b c : State} (h : OnlyAt p a b) (g : OnlyAt p b c) : OnlyAt p a c :=
  ⟨g.pending.trans h.pending, g.ctb.trans h.ctb, g.oc.trans h.oc, g.pt.trans h.pt, g.qw.trans h.qw, g.pm.trans h.pm,
    g.pl.trans h.pl, g.ps.trans h.ps, g.clc.trans h.clc, g.er.trans h.er, g.config.trans h.config, g.mode.trans h.mode,
    fun q hq => (g.ident q hq).trans (h.ident q hq), fun q hq => (g.health q hq).trans (h.health q hq)⟩

theorem withIdent (s : State) (f : Ident → Ident) : OnlyAt p s (s.withIdent p f) := by
  constructor <;> first | rfl | exact fun _ _ => rfl | exact fun q hq => by rw [ident_withIdent, if_neg (Ne.symm hq)]

theorem withHealth (s : State) (f : Health → Health) : OnlyAt p s (s.withHealth p f) := by
  constructor <;> first | rfl | exact fun _ _ => rfl | exact fun q hq => by rw [health_withHealth, if_neg (Ne.symm hq)]

theorem ofScored {s t : State} (h : Scored p s t) : OnlyAt p s t :=
  ⟨h.pending, h.ctb, h.oc, h.pt, h.qw, h.pm, h.pl, h.ps, h.clc, h.er, h.config, h.mode,
    fun q _ => by unfold State.ident; rw [h.ident], h.others⟩

theorem now {s t : State} (h : OnlyAt p s t) : t.now = s.now := congrArg TimeBase.runningTime h.ctb

theorem isLive {s t : State} (h : OnlyAt p s t) : t.isLive = s.isLive := by
  unfold State.isLive
  rw [h.mode]

theorem beaconCondition {s t : State} (h : OnlyAt p s t) : beaconCondition t = beaconCondition s := by
  unfold Machine.beaconCondition
  rw [h.isLive, h.ps]

theorem lineTaken {s t : State} (h : OnlyAt p s t) (taken : lineTaken s) : lineTaken t := by
  unfold Machine.lineTaken
  rw [h.clc]
  exact taken

end OnlyAt

/-- The position as it is called, before a unit that was identified leaves and the IDENTIFY is offered. -/
def recalled (p : Pos) (s : State) : State :=
  let was := (s.ident p).state
  let s : State := { s with ih := { s.ih with wasAbsent := s.ih.wasAbsent.set p.val (was == IdState.absent) } }
  let s := s.withIdent p Ident.probing
  let s := s.withHealth p (fun h => { h with failures := 0 })
  (liftCutOff p s).withHealth p (fun h => { h with probeDeadline := none, probes := 0 })

/-- The position as it is called, the unit that was identified gone. -/
def called (p : Pos) (s : State) : State :=
  if (s.ident p).state = .identified then leftIdentified p (recalled p s) else recalled p s

theorem beginIdentification_eq {p : Pos} {s : State} (h : s.config.get p ≠ none) :
    beginIdentification p s = offerIdentify p (called p s) := by
  unfold beginIdentification
  rw [if_neg (by simpa [Option.isNone_iff_eq_none] using h)]
  rfl

/-- The health with which an identification begins. -/
def calledHealth (h : Health) : Health :=
  { h with failures := 0, probeDeadline := none, probes := 0,
           state := if h.state = .cutOff then (if 64 ≤ h.score then .degraded else .sound) else h.state }

theorem liftCutOff_scored (p : Pos) (s : State) :
    Scored p s (liftCutOff p s) ∧ (liftCutOff p s).health p = { s.health p with
      state := if (s.health p).state = .cutOff then (if 64 ≤ (s.health p).score then .degraded else .sound)
        else (s.health p).state } := by
  unfold liftCutOff
  dsimp only
  split
  · next cut => exact ⟨.setHealth p _ _ s, (setHealth_health p _ _ s).trans rfl⟩
  · exact ⟨by constructor <;> first | rfl | exact fun _ _ => rfl, rfl⟩

theorem recalled_onlyAt (p : Pos) (s : State) : OnlyAt p s (recalled p s) := by
  have absent : OnlyAt p s { s with ih := { s.ih with
      wasAbsent := s.ih.wasAbsent.set p.val ((s.ident p).state == IdState.absent) } } := by
    constructor <;> first | rfl | exact fun _ _ => rfl
  exact (((absent.trans (.withIdent _ _)).trans (.withHealth _ _)).trans (.ofScored (liftCutOff_scored p _).1)).trans
    (.withHealth _ _)

theorem recalled_health (p : Pos) (s : State) : (recalled p s).health p = calledHealth (s.health p) := by
  unfold recalled
  dsimp only
  rw [health_withHealth, if_pos rfl, (liftCutOff_scored p _).2, health_withHealth, if_pos rfl]
  rfl

theorem recalled_ident (p : Pos) (s : State) : (recalled p s).ident p = (s.ident p).probing := by
  have lifted (u : State) : ((liftCutOff p u).withHealth p (fun h => { h with probeDeadline := none, probes := 0 })).ident p =
      u.ident p := congrArg (fun v : Vector Ident 12 => v.get p) (liftCutOff_scored p u).1.ident
  unfold recalled
  dsimp only
  rw [lifted]
  exact (ident_withIdent _ p p _).trans (if_pos rfl)

/-- An identification that finds room, at a position not IDENTIFIED before. -/
theorem called_waiting {p : Pos} {s : State} (h : (s.ident p).state ≠ .identified) : called p s = recalled p s := if_neg h

theorem offerIdentify_health (p q : Pos) (s : State) : (offerIdentify p s).health q = s.health q :=
  congrArg (fun v : Vector Health 12 => v.get q) (Offered.offerIdentify p s).outcomes.health

/-- Offers change no more than the retry deadline of an identification. -/
theorem offerIdentify_ident (p q : Pos) (s : State) :
    { (offerIdentify p s).ident q with retry := none } = { s.ident q with retry := none } := by
  have offered : Road false (fun _ => True) (fun _ => True) s (offerTo .identify p none s).1 := .offerTo trivial trivial _ s
  unfold offerIdentify
  dsimp only
  split
  · exact offered.ident q
  · exact (offered.trans (.setRetry p _)).ident q

/-! ### Reports as roads -/

theorem coordUnseen_pm (p : Pos) (s : State) : (coordUnseen p s).pm = s.pm := by
  unfold coordUnseen
  dsimp only
  split <;> rfl

theorem road_leftIdentified {A : Pos → Prop} {p : Pos} {s : State} (hp : A p)
    (hA : ∀ r, s.pm.routeFrom p = some r → ∀ m ∈ r.members, A m.position) : Road true A releases s (leftIdentified p s) := by
  have unseen : Road true A releases s (coordUnseen p (withdrawServiced p s)) :=
    (Road.withdraw _ s).trans (.coordUnseen hp _)
  have lost : Road true A releases (coordUnseen p (withdrawServiced p s)) (standingLost p (coordUnseen p (withdrawServiced p s))) :=
    .standingLost hp (fun r hr => hA r (by rw [coordUnseen_pm] at hr; exact hr)) (.inr rfl) (.inl rfl)
  exact (unseen.trans lost).trans
    (((Beside.linksDown p _).trans (.emptyAccumulator p _)).trans (.approachesLost p _)).road

theorem road_cutOffReport {A : Pos → Prop} {p : Pos} {s : State} (hp : A p)
    (hA : ∀ r, s.pm.routeFrom p = some r → ∀ m ∈ r.members, A m.position) : Road true A releases s (cutOffReport p s) := by
  have out : Road true A releases s (coordOutOfService p .cutOff (withdrawServiced p s)) :=
    (Road.withdraw _ s).trans (.coordOutOfService hp _ _)
  have lost : Road true A releases (coordOutOfService p .cutOff (withdrawServiced p s)) _ :=
    .standingLost hp (fun r hr => hA r (by rw [coordOutOfService_pm] at hr; exact hr)) (.inr rfl) (.inl rfl)
  exact (out.trans lost).trans ((Beside.linksDown p _).trans (.approachesLost p _)).road

theorem called_ident (p : Pos) (s : State) : { (called p s).ident p with retry := none } = (s.ident p).probing := by
  have probing : { (recalled p s).ident p with retry := none } = (s.ident p).probing := by
    rw [recalled_ident]
    rfl
  unfold called
  split
  · exact ((road_leftIdentified (A := fun _ => True) trivial (fun _ _ _ _ => trivial)).ident p).trans probing
  · exact probing

theorem called_health (p : Pos) (s : State) : (called p s).health p = calledHealth (s.health p) := by
  unfold called
  split
  · exact ((road_leftIdentified (A := fun _ => True) trivial (fun _ _ _ _ => trivial)).health p).trans (recalled_health p s)
  · exact recalled_health p s

/-- What an identification that begins leaves of its position. -/
theorem beginIdentification_begun {p : Pos} {s : State} (h : s.config.get p ≠ none) :
    { (beginIdentification p s).ident p with retry := none } = (s.ident p).probing ∧
      (beginIdentification p s).health p = calledHealth (s.health p) := by
  rw [beginIdentification_eq h]
  exact ⟨(offerIdentify_ident p p _).trans (called_ident p s), (offerIdentify_health p p _).trans (called_health p s)⟩

/-! ### O38 -/

theorem identifyDropped_ident (p q : Pos) (s : State) :
    (identifyDropped p s).ident q = if p = q then
      { s.ident p with state := .absent, reprobe := some (later s.now 300), retry := none, byRequest := false }
      else s.ident q := by
  have set : (s.withIdent p (fun i =>
      { i with state := .absent, reprobe := some (later s.now 300), retry := none, byRequest := false })).ident q = _ :=
    ident_withIdent s p q _
  unfold identifyDropped
  dsimp only
  split <;> exact set

theorem identify_dropped {p : Pos} {x : Exchange} {e : QueueEntry} {rest : List QueueEntry} {s : State} (h : awaiting s x p)
    (queue : s.clc.queue = e :: rest) (on : e.onLine = true) (hc : e.command = .identify) (spent : e.attempts = 3)
    (probing : (s.ident p).state = .probing) :
    ∃ t, exec .responseWindowExpiry s = .next t ∧ (t.ident p).state = .absent ∧
      (t.ident p).reprobe = some (later s.now 300) ∧ (t.ident p).retry = none ∧ (t.ident p).byRequest = false ∧
      (∀ q, q ≠ p → t.ident q = s.ident q) ∧ LeavesStores s t := by
  obtain ⟨hl, hp, hx⟩ := h
  obtain ⟨u, failed, eq⟩ := endBad_withstood hx (.inr (.inl (by rw [probing]; nofun)))
  have head : onLineEntry u = some e := by
    unfold onLineEntry
    rw [failed.queue, queue]
    exact List.find?_cons_of_pos on
  have drop : endBad x s = identifyDropped p (takeOffLine u) := by
    rw [eq, afterFailure_drop head (by rw [hc, spent]; exact Nat.le_refl 3), hc]
    rfl
  have ident (q : Pos) : (finish (endBad x s)).ident q = _ :=
    (finish_ident _ q).trans ((congrArg (fun t : State => t.ident q) drop).trans (identifyDropped_ident p q (takeOffLine u)))
  have own := (ident p).trans (if_pos rfl)
  have now : (takeOffLine u).now = s.now := failed.now
  rw [now] at own
  refine ⟨_, exec_fails hl (.inl ⟨hp, rfl⟩), ?_, ?_, ?_, ?_, fun q hq => ?_, endBad_leaves x s⟩
  · rw [own]
  · rw [own]
  · rw [own]
  · rw [own]
  · exact (ident q).trans ((if_neg (Ne.symm hq)).trans (congrArg (fun v : Vector Ident 12 => v.get q) failed.scored.ident))

theorem reprobe_begins {p : Pos} {cfg : PositionConfig} {s : State} (absent : (s.ident p).state = .absent)
    (due : (s.ident p).reprobe = some s.now) (hc : s.config.get p = some cfg) (live : s.isLive = true) (taken : lineTaken s)
    (room : s.clc.queue.length < 24) (open' : (s.health p).state ≠ .cutOff) :
    ∃ t, exec (.reprobeDeadlineExpiry p) s = .next t ∧
      t.ident p = { state := .probing, site := none, abilities := none, detectors := none, mode := none, basic := none,
                    retry := none, reprobe := none, byRequest := (s.ident p).byRequest } ∧
      t.health p = { s.health p with failures := 0, probeDeadline := none, probes := 0 } ∧
      (∀ q, q ≠ p → t.ident q = s.ident q ∧ t.health q = s.health q) ∧
      (beaconCondition s = true → t.clc.queue = joinQueue (freshEntry .identify p cfg s) s.clc.queue) ∧
      t.oc = s.oc ∧ t.pt = s.pt ∧ t.qw = s.qw ∧ t.pm = s.pm ∧ t.ps = s.ps ∧ t.er = s.er ∧ LeavesStores s t := by
  have only := recalled_onlyAt p s
  have run : exec (.reprobeDeadlineExpiry p) s =
      .next (finish ((recalled p s).withQueue (joinQueue (freshEntry .identify p cfg s) s.clc.queue))) := by
    refine congrArg Host.Outcome.next ((whenDue_due (by rw [due]; exact expires_now s)).trans (congrArg finish ?_))
    rw [beginIdentification_eq (by rw [hc]; nofun), called_waiting (by rw [absent]; nofun),
      offerIdentify_room (cfg := cfg) (by rw [only.config]; exact hc) (by rw [only.isLive]; exact live)
        (by rw [only.clc]; exact room), only.clc]
    unfold freshEntry
    rw [only.now]
  have ident := recalled_ident p s
  have health := recalled_health p s
  have leaves : LeavesStores s _ := Host.Outcome.next.inj run ▸ (Moves.reprobeEvent (rt := true) p (.refl s)).leavesStores
  generalize recalled p s = u at *
  have settles := settles_finish (u.withQueue (joinQueue (freshEntry .identify p cfg s) s.clc.queue))
  refine ⟨_, run, (finish_ident _ p).trans (ident.trans ?_), (finish_health _ p).trans (health.trans ?_),
    fun q hq => ⟨(finish_ident _ q).trans (only.ident q hq), (finish_health _ q).trans (only.health q hq)⟩,
    fun beacon => ?_, settles.oc.trans only.oc, settles.pt.trans only.pt, settles.qw.trans only.qw,
    settles.pm.trans only.pm, settles.ps.trans only.ps, settles.er.trans only.er, leaves⟩
  · rfl
  · unfold calledHealth
    rw [if_neg open']
  · have taken' : lineTaken (u.withQueue (joinQueue (freshEntry .identify p cfg s) s.clc.queue)) := only.lineTaken taken
    exact finish_lineTaken_queue taken' (only.beaconCondition.trans beacon)

theorem retry_offersAgain {p : Pos} {cfg : PositionConfig} {s : State} (due : (s.ident p).retry = some s.now)
    (hc : s.config.get p = some cfg) (live : s.isLive = true) (beacon : beaconCondition s = true) (taken : lineTaken s)
    (room : s.clc.queue.length < 24) :
    let s' := s.withIdent p (fun i => { i with retry := none })
    ∃ t, exec (.retryDeadlineExpiry p) s = .next t ∧ Settles s' t ∧ t.clc.line = s.clc.line ∧
      ((s.health p).stage = .quieting →
        s.clc.queue.any (fun e => (e.command == .quiet || e.command == .runLocal) && e.position == some p) = false →
        t.clc.queue = joinQueue (freshEntry .quiet p cfg s) s.clc.queue) ∧
      ((s.health p).stage ≠ .quieting → (s.ident p).state = .probing →
        t.clc.queue = joinQueue (freshEntry .identify p cfg s) s.clc.queue) ∧
      ((s.health p).stage ≠ .quieting → (s.ident p).state ≠ .probing → t.clc.queue = s.clc.queue) := by
  intro s'
  have run : exec (.retryDeadlineExpiry p) s = .next (finish (offerAgain p s)) :=
    congrArg Host.Outcome.next (whenDue_due (by rw [due]; exact expires_now s))
  have state : (s'.ident p).state = (s.ident p).state := by
    rw [ident_withIdent, if_pos rfl]
  have settled (q : List QueueEntry) (eq : offerAgain p s = s'.withQueue q) :
      Settles s' (finish (offerAgain p s)) ∧ (finish (offerAgain p s)).clc.line = s.clc.line ∧
        (finish (offerAgain p s)).clc.queue = q := by
    have same : Settles s' (s'.withQueue q) := by constructor <;> rfl
    have taken' : lineTaken (s'.withQueue q) := taken
    rw [eq]
    exact ⟨same.trans (settles_finish _), finish_lineTaken_line taken', finish_lineTaken_queue taken' beacon⟩
  by_cases quieting : (s.health p).stage = .quieting
  · obtain ⟨q, offered, joins⟩ := offerQuiet_room (s := s') hc live room
    have eq : offerAgain p s = s'.withQueue q := (if_pos quieting).trans offered
    obtain ⟨settles, line, queue⟩ := settled q eq
    exact ⟨_, run, settles, line, fun _ free => queue.trans (joins free), fun not => absurd quieting not,
      fun not => absurd quieting not⟩
  · by_cases probing : (s.ident p).state = .probing
    · have eq : offerAgain p s = s'.withQueue (joinQueue (freshEntry .identify p cfg s) s.clc.queue) :=
        (if_neg quieting).trans ((if_pos (state.trans probing)).trans (offerIdentify_room (s := s') hc live room))
      obtain ⟨settles, line, queue⟩ := settled _ eq
      exact ⟨_, run, settles, line, fun is => absurd is quieting, fun _ _ => queue, fun _ not => absurd probing not⟩
    · have eq : offerAgain p s = s'.withQueue s.clc.queue :=
        (if_neg quieting).trans (if_neg (fun h => probing (state.symm.trans h)))
      obtain ⟨settles, line, queue⟩ := settled _ eq
      exact ⟨_, run, settles, line, fun is => absurd is quieting, fun _ is => absurd is probing, fun _ _ => queue⟩

/-- Settles O38: dropped, begun anew, offered again. -/
theorem identificationTriedAgain : Obligations.IdentificationTriedAgain := by
  unfold Obligations.IdentificationTriedAgain
  exact ⟨fun p x e rest s => identify_dropped, fun p cfg s => reprobe_begins, fun p cfg s => retry_offersAgain⟩

end Sys2Proof.Proofs.Identifications
end

section
/-! PROOF. Probes and re-identifications (O39, O40). -/

open Sys2Proof Sys2Proof.Machine

namespace Sys2Proof.Proofs.Identifications

open Answers Roads Coordination StatusReplies RouteEnds Exchanges Failures Reports RuleTable

/-! ### Probes (R154) -/

theorem probe_offered {p : Pos} {cfg : PositionConfig} {s : State} (due : (s.health p).probeDeadline = some s.now)
    (hc : s.config.get p = some cfg) (live : s.isLive = true) (beacon : beaconCondition s = true) (taken : lineTaken s)
    (room : s.clc.queue.length < 24) :
    let s' := s.withHealth p (fun h => { h with probeDeadline := some (later s.now 50) })
    ∃ t, exec (.probeDeadlineExpiry p) s = .next t ∧ Settles s' t ∧ t.clc.line = s.clc.line ∧
      t.clc.queue = (if probeQueued s p = true then s.clc.queue else joinQueue (freshEntry .probePoll p cfg s) s.clc.queue) := by
  intro s'
  have run : exec (.probeDeadlineExpiry p) s = .next (finish (offerProbe p s)) :=
    congrArg Host.Outcome.next (whenDue_due (by rw [due]; exact expires_now s))
  have offered : offerProbe p s =
      s'.withQueue (if probeQueued s p = true then s.clc.queue else joinQueue (freshEntry .probePoll p cfg s) s.clc.queue) := by
    obtain ⟨q, eq, joins⟩ := offerTo_room (c := .probePoll) (s := s') hc live room nofun
    have queued : probeQueued s' p = probeQueued s p := rfl
    change (if probeQueued s' p = true then s' else (offerTo .probePoll p none s').1) = _
    rw [queued, eq, joins (any_replaces_none (.inr rfl))]
    split <;> rfl
  have same (q : List QueueEntry) : Settles s' (s'.withQueue q) := by constructor <;> rfl
  have taken' (q : List QueueEntry) : lineTaken (s'.withQueue q) := taken
  refine ⟨_, run, ?_, ?_, ?_⟩ <;> rw [offered]
  · exact (same _).trans (settles_finish _)
  · exact finish_lineTaken_line (taken' _)
  · exact finish_lineTaken_queue (taken' _) beacon

/-- The state in which a GOOD probe is counted. -/
def afterProbe (p : Pos) (s : State) : State := takeOutcome p true (takeOffLine { s with clc := s.clc.released })

theorem probe_answered {p : Pos} {x : Exchange} {route : Option RouteRef} {e : QueueEntry} {rest : List QueueEntry} {s : State}
    (h : awaiting s x p) (hw : x.work = .command .probePoll route) (queue : s.clc.queue = e :: rest) (on : e.onLine = true) :
    exec (.heartbeat x.address) s = .next (finish (setSummary p none (probeOutcome p true (afterProbe p s)))) := by
  have stands : standingProbe x s = true := by
    unfold standingProbe onLineEntry
    rw [hw, queue, List.find?_cons_of_pos on]
    rfl
  refine congrArg Host.Outcome.next ((onReply_good h rfl (expects_heartbeat _)).trans (congrArg finish ?_))
  unfold endGood
  dsimp only
  rw [stands, hw]
  rfl

theorem probeOutcome_counted {p : Pos} {s : State} (cut : (s.health p).state = .cutOff) (few : (s.health p).probes < 2) :
    probeOutcome p true s = s.withHealth p (fun h => { h with probes := h.probes + 1 }) := by
  unfold probeOutcome
  rw [if_neg (not_not_intro cut), if_neg (by decide), if_pos few]

/-- A position back from CUT-OFF, before it is called. -/
def probedBack (p : Pos) (s : State) : State :=
  (setHealth p .sound .probes (s.withHealth p Health.probed)).withHealth p (fun h => { h with probeDeadline := none, probes := 0 })

theorem probedBack_config (p : Pos) (s : State) : (probedBack p s).config = s.config := rfl

theorem setSummary_ident (p q : Pos) (figures : Option StatusFigures) (s : State) :
    (setSummary p figures s).ident q = s.ident q := rfl

theorem setSummary_health (p q : Pos) (figures : Option StatusFigures) (s : State) :
    (setSummary p figures s).health q = s.health q := rfl

theorem probedBack_health (p : Pos) (s : State) : (probedBack p s).health p =
    { s.health p with score := 0, failures := 0, state := .sound, probeDeadline := none, probes := 0 } := by
  unfold probedBack
  rw [health_withHealth, if_pos rfl, setHealth_health, health_withHealth, if_pos rfl]
  rfl

theorem probeOutcome_back {p : Pos} {s : State} (cut : (s.health p).state = .cutOff) (third : 2 ≤ (s.health p).probes) :
    probeOutcome p true s = beginIdentification p (probedBack p s) := by
  unfold probeOutcome
  rw [if_neg (not_not_intro cut), if_neg (by decide), if_neg (by omega)]
  rfl

theorem probe_good {p : Pos} {x : Exchange} {route : Option RouteRef} {e : QueueEntry} {rest : List QueueEntry} {s : State}
    (h : awaiting s x p) (hw : x.work = .command .probePoll route) (queue : s.clc.queue = e :: rest) (on : e.onLine = true)
    (cut : (s.health p).state = .cutOff) :
    ∃ t, exec (.heartbeat x.address) s = .next t ∧ LeavesStores s t ∧
      ((s.health p).probes < 2 →
        t.health p = { s.health p with
          score := (s.health p).score - 1, failures := 0, probes := (s.health p).probes + 1 } ∧
        (t.ident p) = (s.ident p)) ∧
      (2 ≤ (s.health p).probes → s.config.get p ≠ none →
        (t.ident p).state = .probing ∧
          t.health p = { s.health p with
            score := 0, failures := 0, state := .sound, probes := 0, probeDeadline := none }) := by
  have run := probe_answered h hw queue on
  obtain ⟨scored, health, -⟩ := takeOutcome_good (p := p) (s := takeOffLine { s with clc := s.clc.released }) (.inl cut)
  have health : (afterProbe p s).health p = { s.health p with score := (s.health p).score - 1, failures := 0 } := by
    refine health.trans ?_
    have followed : followedState { s.health p with score := (s.health p).score - 1 } = .cutOff := by
      unfold followedState
      dsimp only
      rw [cut]
    change
      { s.health p with
        score := (s.health p).score - 1, failures := 0,
        state := followedState { s.health p with score := (s.health p).score - 1 } } = _
    rw [followed, ← cut]
  have cut' : ((afterProbe p s).health p).state = .cutOff := by rw [health]; exact cut
  have probes : ((afterProbe p s).health p).probes = (s.health p).probes := by rw [health]
  have ident : (afterProbe p s).ident p = s.ident p := congrArg (fun v : Vector Ident 12 => v.get p) scored.ident
  have config : (afterProbe p s).config = s.config := scored.config
  refine ⟨_, run, heartbeat_leaves run, fun few => ?_, fun third hc => ?_⟩
  · rw [probeOutcome_counted cut' (by rwa [probes]), finish_health, finish_ident]
    rw [setSummary_ident, setSummary_health, health_withHealth, if_pos rfl, State.withHealth_ident, health]
    exact ⟨rfl, ident⟩
  · rw [probeOutcome_back cut' (by rwa [probes]), finish_health, finish_ident]
    have back : (probedBack p (afterProbe p s)).config.get p ≠ none := by rwa [probedBack_config, config]
    obtain ⟨begun, figures⟩ := beginIdentification_begun back
    rw [setSummary_ident, setSummary_health, figures, probedBack_health, health]
    exact ⟨(congrArg Ident.state begun :), rfl⟩

/-- Settles O39: a probe offered, and its GOOD outcomes counted. -/
theorem probesBringBack : Obligations.ProbesBringBack := by
  unfold Obligations.ProbesBringBack
  exact ⟨fun p cfg s => probe_offered, fun p x route e rest s => probe_good⟩

/-! ### RE-IDENTIFY (R155) -/

theorem reIdentify_outside {n : Nat} {s : State} (live : s.sli.mode = .live) (hn : n = 0 ∨ 12 < n) :
    reIdentify n s = (s, .badValue 0 1) := by
  unfold reIdentify
  rw [inMode_taken live, posOf_outside hn]

theorem reIdentify_position {p : Pos} {s : State} (live : s.sli.mode = .live) :
    reIdentify (p.val + 1) s =
      if (s.config.get p).isNone then (s, .noSuch)
      else if (s.ident p).state = .probing ∨ (s.health p).stage ≠ .none then (s, .inProgress)
      else (reIdentifyNow p s, .accepted) := by
  unfold reIdentify
  rw [inMode_taken live, posOf_number]

/-- The position as RE-IDENTIFY leaves it, before the QUIET is offered. -/
def quieted (p : Pos) (s : State) : State :=
  (s.withIdent p (fun i => { i with byRequest := true, reprobe := none })).withHealth p
    (fun h => { h with probeDeadline := none, probes := 0, stage := .quieting })

theorem quieted_onlyAt (p : Pos) (s : State) : OnlyAt p s (quieted p s) := (OnlyAt.withIdent s _).trans (.withHealth _ _)

theorem quieted_ident (p : Pos) (s : State) : (quieted p s).ident p = { s.ident p with byRequest := true, reprobe := none } :=
  (ident_withIdent s p p _).trans (if_pos rfl)

theorem quieted_health (p : Pos) (s : State) :
    (quieted p s).health p = { s.health p with probeDeadline := none, probes := 0, stage := .quieting } :=
  (health_withHealth _ p p _).trans (if_pos rfl)

theorem reIdentify_quiets {p : Pos} {cfg : PositionConfig} {s : State} (ready : Ready s) (live : s.sli.mode = .live)
    (hc : s.config.get p = some cfg) (still : (s.ident p).state ≠ .probing) (stage : (s.health p).stage = .none)
    (taken : lineTaken s) (beacon : beaconCondition s = true) (room : s.clc.queue.length < 24)
    (free : s.clc.queue.any (fun e => (e.command == .quiet || e.command == .runLocal) && e.position == some p) = false) :
    ∃ t, exec (.reIdentify (.fields (p.val + 1))) s = .next t ∧
      t.ident p = { s.ident p with byRequest := true, reprobe := none } ∧
      t.health p = { s.health p with probeDeadline := none, probes := 0, stage := .quieting } ∧
      t.clc.queue = joinQueue (freshEntry .quiet p cfg s) s.clc.queue ∧
      t.sli.replySlot = some (.request .reIdentify .accepted) ∧ (∀ q, q ≠ p → t.ident q = s.ident q) ∧
      (∀ q, q ≠ p → t.health q = s.health q) ∧ t.ctb = s.ctb ∧ t.oc = s.oc ∧ t.pt = s.pt ∧ t.qw = s.qw ∧
      t.pm = s.pm ∧ t.pl = s.pl ∧ t.ps = s.ps ∧ t.er = s.er ∧ t.config = s.config := by
  have only : OnlyAt p s (quieted p (frameTaken s)) := by
    have framed : OnlyAt p s (frameTaken s) := by constructor <;> first | rfl | exact fun _ _ => rfl
    exact framed.trans (quieted_onlyAt p _)
  have ident := quieted_ident p (frameTaken s)
  have health := quieted_health p (frameTaken s)
  obtain ⟨q, offered, joins⟩ := offerQuiet_room (p := p) (cfg := cfg) (s := quieted p (frameTaken s))
    (by rw [only.config]; exact hc) (by rw [only.isLive]; exact (Offers.isLive_iff s).2 live) (by rw [only.clc]; exact room)
  have queue : q = joinQueue (freshEntry .quiet p cfg s) s.clc.queue := by
    rw [joins (by rw [only.clc]; exact free), only.clc]
    unfold freshEntry
    rw [only.now]
  have calm : ¬ (((frameTaken s).ident p).state = .probing ∨ ((frameTaken s).health p).stage ≠ .none) :=
    not_or.2 ⟨still, not_not_intro stage⟩
  have now : reIdentify (p.val + 1) (frameTaken s) =
      (settleLine ((quieted p (frameTaken s)).withQueue q), .accepted) := by
    rw [reIdentify_position (s := frameTaken s) live, if_neg (show ¬ ((frameTaken s).config.get p).isNone from by
      change ¬ (s.config.get p).isNone = true
      rw [hc]
      exact Bool.false_ne_true), if_neg calm]
    exact congrArg (fun t => (settleLine t, Answer.accepted)) offered
  have run := onRequest_result (k := .reIdentify) ready now
  generalize quieted p (frameTaken s) = u at *
  have settles := settles_finish (u.withQueue q)
  have taken' : lineTaken (u.withQueue q) := only.lineTaken taken
  have beacon' : beaconCondition (u.withQueue q) = true := only.beaconCondition.trans beacon
  exact ⟨_, congrArg Host.Outcome.next run, (finish_ident _ p).trans ident, (finish_health _ p).trans health,
    (finish_lineTaken_queue taken' beacon').trans queue, rfl, fun q hq => (finish_ident _ q).trans (only.ident q hq),
    fun q hq => (finish_health _ q).trans (only.health q hq), settles.ctb.trans only.ctb, settles.oc.trans only.oc,
    settles.pt.trans only.pt, settles.qw.trans only.qw, settles.pm.trans only.pm, settles.pl.trans only.pl,
    settles.ps.trans only.ps, settles.er.trans only.er, settles.config.trans only.config⟩

theorem quiet_acked {p : Pos} {x : Exchange} {route : Option RouteRef} {s : State} (h : awaiting s x p)
    (hw : x.work = .command .quiet route) (stage : (s.health p).stage = .quieting) (score : (s.health p).score < 160) :
    ∃ t, exec (.ack x.address) s = .next t ∧ (t.health p).stage = .quiet ∧
      (t.health p).quietTimer = some (later s.now 30) ∧ pollEligible t p = false ∧ LeavesStores s t := by
  obtain ⟨u, good, run, stores⟩ := exec_acked (i := .ack x.address) h hw score nofun nofun nofun (.inl rfl)
  have stage' : (u.health p).stage = .quieting := by rw [good.health]; exact stage
  have quiets : acked p .quiet route u =
      quietReport p (u.withHealth p (fun h => { h with stage := .quiet, quietTimer := some (later u.now 30) })) :=
    if_pos stage'
  rw [quiets] at run stores
  have moves : Moves false false _
      (quietReport p (u.withHealth p (fun h => { h with stage := .quiet, quietTimer := some (later u.now 30) }))) :=
    Moves.quietReport p (.refl _)
  have health := (finish_health _ p).trans ((congrArg (fun v : Vector Health 12 => v.get p) moves.leavesOutcomes.health).trans
    ((health_withHealth u p p _).trans (if_pos rfl)))
  have timer : ((finish (quietReport p (u.withHealth p (fun h =>
      { h with stage := .quiet, quietTimer := some (later u.now 30) })))).health p).quietTimer = some (later s.now 30) := by
    rw [health, good.now]
  refine ⟨_, run, by rw [health], timer, ?_, stores⟩
  unfold pollEligible
  rw [timer, Option.isNone_some, Bool.and_false]

theorem calledHealth_open (h : Health) : (calledHealth h).state ≠ .cutOff := by
  unfold calledHealth
  dsimp only
  split
  · split <;> nofun
  · next open' => exact open'

theorem quietTimer_ends {p : Pos} {s : State} (due : (s.health p).quietTimer = some s.now) (hc : s.config.get p ≠ none) :
    ∃ t, exec (.quietTimerExpiry p) s = .next t ∧ (t.health p).stage = .none ∧ (t.health p).quietTimer = none ∧
      (t.ident p).state = .probing ∧ (t.ident p).site = none ∧ (t.ident p).mode = none ∧
      (t.ident p).byRequest = (s.ident p).byRequest ∧ (t.health p).failures = 0 ∧
      (t.health p).score = (s.health p).score ∧ (t.health p).state ≠ .cutOff ∧ LeavesStores s t := by
  have run : exec (.quietTimerExpiry p) s = .next (finish (endQuiet p s)) :=
    congrArg Host.Outcome.next (whenDue_due (by rw [due]; exact expires_now s))
  obtain ⟨ident, health⟩ := beginIdentification_begun (p := p)
    (s := s.withHealth p (fun h => { h with stage := .none, quietTimer := none })) hc
  rw [health_withHealth, if_pos rfl] at health
  have ident : { (finish (endQuiet p s)).ident p with retry := none } = (s.ident p).probing := by
    rw [finish_ident]
    exact ident
  have health := (finish_health (endQuiet p s) p).trans health
  refine ⟨_, run, by rw [health]; rfl, by rw [health]; rfl, (congrArg Ident.state ident :), (congrArg Ident.site ident :),
    (congrArg Ident.mode ident :), (congrArg Ident.byRequest ident :), by rw [health]; rfl, by rw [health]; rfl, ?_, ?_⟩
  · rw [health]
    exact calledHealth_open _
  · exact Host.Outcome.next.inj run ▸ (Moves.quietEvent (rt := true) p (.refl s)).leavesStores

/-- Settles O40: the request, the quiet period, its end. -/
theorem reIdentificationRuns : Obligations.ReIdentificationRuns := by
  unfold Obligations.ReIdentificationRuns
  refine ⟨fun p s ready live => ⟨fun n hn => ?_, fun none => ?_, fun some busy => ?_,
      fun cfg hc still stage taken beacon room free => reIdentify_quiets ready live hc still stage taken beacon room free⟩,
    fun p x route s => quiet_acked, fun p s => quietTimer_ends⟩
  · exact congrArg Host.Outcome.next (onRequest_refused ready (reIdentify_outside (s := frameTaken s) live hn))
  · refine congrArg Host.Outcome.next (onRequest_refused ready ?_)
    rw [reIdentify_position (s := frameTaken s) live]
    exact if_pos (Option.isNone_iff_eq_none.2 none)
  · refine congrArg Host.Outcome.next (onRequest_refused ready ?_)
    rw [reIdentify_position (s := frameTaken s) live]
    exact (if_neg (fun h => some (Option.isNone_iff_eq_none.1 h))).trans (if_pos busy)

end Sys2Proof.Proofs.Identifications
end

section
/-! PROOF. Identifications completed (O37). -/

open Sys2Proof Sys2Proof.Machine

namespace Sys2Proof.Proofs.Identifications

open Answers Roads Coordination StatusReplies RouteEnds Exchanges Failures Reports

/-! ### A GOOD outcome of a position that is not IDENTIFIED -/

/-- A GOOD outcome never cuts off a position that is not IDENTIFIED, whatever its score. -/
theorem takeOutcome_unidentified {p : Pos} {s : State} (h : (s.ident p).state ≠ .identified) :
    Scored p s (takeOutcome p true s) ∧
      (takeOutcome p true s).health p =
        { s.health p with
          score := (s.health p).score - 1, failures := 0,
          state := followedState { s.health p with score := (s.health p).score - 1 } } := by
  have noted : Scored p s (noteGood s) := by constructor <;> first | rfl | exact fun _ _ => rfl
  have scored := noted.trans (.withHealth (noteGood s) p (fun h => h.scored true))
  have figures : ((noteGood s).withHealth p (fun h => h.scored true)).health p =
      { s.health p with score := (s.health p).score - 1, failures := 0 } := (health_withHealth _ p p _).trans (if_pos rfl)
  have none : cutOffCause ((noteGood s).withHealth p (fun h => h.scored true)) p = none := cutOffCause_none.2 (.inr (.inl h))
  obtain ⟨follows, followed, -⟩ := followScore_scored none
  exact ⟨scored.trans follows, followed.trans (by rw [figures]; rfl)⟩

/-! ### The record of a completed identification (R151) -/

theorem identified_ident (p q : Pos) (mode : ResolvedMode) (f : Ident → Ident) (s : State) :
    (identified p mode f s).ident q = if p = q then
      { f (s.ident p) with state := .identified, mode := some mode, retry := none, byRequest := false } else s.ident q := by
  have set : (s.withIdent p (fun i =>
      { f i with state := .identified, mode := some mode, retry := none, byRequest := false })).ident q = _ :=
    ident_withIdent s p q _
  unfold identified coordIdentified
  dsimp only
  split <;> exact set

/-- The reason with which a position goes from UNSEEN to LOCAL (R14). -/
def identifiedReason : ResolvedMode → LocalReason
  | .relay => .relay
  | .none => .noCommonMode
  | _ => .awaitingMark

theorem coordIdentified_unseen {p : Pos} {s : State} (h : (s.coord p).state = .unseen) (mode : ResolvedMode) :
    (coordIdentified p mode s).coord p =
      { s.coord p with state := .inLocal (identifiedReason mode), refusals := 0, fieldLocal := false } := by
  unfold coordIdentified
  rw [if_pos h, notePosition_coord, State.withCoord_coord, if_pos rfl]
  cases mode <;> rfl

theorem coordIdentified_seen {p : Pos} {s : State} (h : (s.coord p).state ≠ .unseen) (mode : ResolvedMode) :
    coordIdentified p mode s = s := if_neg h

theorem coordIdentified_seen_coord {p : Pos} {s : State} (h : (s.coord p).state ≠ .unseen) (mode : ResolvedMode) :
    (coordIdentified p mode s).coord p = s.coord p := by rw [coordIdentified_seen h]

theorem identified_unseen {p : Pos} {s : State} (h : (s.coord p).state = .unseen) (mode : ResolvedMode) (f : Ident → Ident) :
    (identified p mode f s).coord p =
      { s.coord p with state := .inLocal (identifiedReason mode), refusals := 0, fieldLocal := false } :=
  coordIdentified_unseen (s := { s.withIdent p (fun i =>
    { f i with state := .identified, mode := some mode, retry := none, byRequest := false }) with
      clc := { s.clc with accepted := s.clc.accepted.set p.val none } }) h mode

theorem identified_seen {p : Pos} {s : State} (h : (s.coord p).state ≠ .unseen) (mode : ResolvedMode) (f : Ident → Ident) :
    (identified p mode f s).coord p = s.coord p := by
  unfold identified
  dsimp only
  exact (coordIdentified_seen_coord (by exact h) mode).trans rfl

theorem identified_accepted (p : Pos) (mode : ResolvedMode) (f : Ident → Ident) (s : State) :
    (identified p mode f s).clc.accepted.get p = none := by
  have set : (s.clc.accepted.set p.val none).get p = none := (get_set _ _ _ _).trans (if_pos rfl)
  unfold identified coordIdentified
  dsimp only
  split <;> exact set

/-- At a sound position, completion is the record and its notice. -/
theorem completeIdentified_sound {p : Pos} {s : State} (h : Sound p s) (mode : ResolvedMode) (f : Ident → Ident) :
    ∃ body, completeIdentified p mode f s = raiseNotice body (identified p mode f s) := by
  have kept := identified_figures p mode f s
  have sound : Sound p (identified p mode f s) := ⟨kept.failures.trans h.1, kept.score ▸ h.2⟩
  exact ⟨_, by rw [completeIdentified_eq, testCutOff_sound sound]⟩

/-- The end of a handling that completes an identification. -/
structure Completed (p : Pos) (mode : ResolvedMode) (f : Ident → Ident) (s t : State) : Prop where
  ident : t.ident p = { f (s.ident p) with state := .identified, mode := some mode, retry := none, byRequest := false }
  others : ∀ q, q ≠ p → t.ident q = s.ident q
  accepted : t.clc.accepted.get p = none
  unseen : (s.coord p).state = .unseen → t.coord p =
    { s.coord p with state := .inLocal (identifiedReason mode), refusals := 0, fieldLocal := false }
  seen : (s.coord p).state ≠ .unseen → t.coord p = s.coord p

theorem finish_completed {p : Pos} {s : State} (h : Sound p s) (mode : ResolvedMode) (f : Ident → Ident) :
    Completed p mode f s (finish (completeIdentified p mode f s)) := by
  obtain ⟨body, eq⟩ := completeIdentified_sound h mode f
  have settles := settles_finish (completeIdentified p mode f s)
  have accepted := congrArg (fun v : Vector (Option Nat) 12 => v.get p) settles.accepted
  constructor
  · rw [finish_ident, eq]
    exact (identified_ident p p mode f s).trans (if_pos rfl)
  · intro q hq
    rw [finish_ident, eq]
    exact (identified_ident p q mode f s).trans (if_neg (Ne.symm hq))
  · rw [accepted, eq]
    exact identified_accepted p mode f s
  · intro unseen
    rw [finish_coord, eq]
    exact identified_unseen unseen mode f
  · intro seen
    rw [finish_coord, eq]
    exact identified_seen seen mode f

/-- The end of a handling that ends an identification in MISMATCH. -/
structure Mismatched (p : Pos) (site : Option Nat) (s t : State) : Prop where
  ident : t.ident p = { s.ident p with state := .mismatch, site := site, retry := none, byRequest := false }
  others : ∀ q, q ≠ p → t.ident q = s.ident q
  accepted : t.clc.accepted = s.clc.accepted
  oc : t.oc = s.oc

theorem finish_mismatched (p : Pos) (configured : Nat) (site : Option Nat) (reason : MismatchReason) (s : State) :
    Mismatched p site s (finish (completeMismatch p configured site reason s)) := by
  have settles := settles_finish (completeMismatch p configured site reason s)
  have set (q : Pos) : (completeMismatch p configured site reason s).ident q = if p = q then
      { s.ident p with state := .mismatch, site := site, retry := none, byRequest := false } else s.ident q :=
    ident_withIdent s p q _
  exact ⟨(finish_ident _ p).trans ((set p).trans (if_pos rfl)),
    fun q hq => (finish_ident _ q).trans ((set q).trans (if_neg (Ne.symm hq))), settles.accepted, settles.oc⟩

/-! ### The resolved mode (R151) -/

theorem resolveMode_full (permitted : Nat) (a : Abilities) :
    resolveMode permitted a = .full ↔
      bit permitted 0 = true ∧ a.offset = true ∧ a.split = true ∧ a.platoon = true := by
  unfold resolveMode
  split_ifs <;> simp_all

theorem resolveMode_cases (permitted : Nat) (a : Abilities) :
    let full := bit permitted 0 = true ∧ a.offset = true ∧ a.split = true ∧ a.platoon = true
    let timed := bit permitted 1 = true ∧ a.offset = true ∧ a.split = true
    let paced := bit permitted 2 = true ∧ a.offset = true
    (some (resolveMode permitted a) = some .full ↔ full) ∧ (some (resolveMode permitted a) = some .timed ↔ ¬ full ∧ timed) ∧
      (some (resolveMode permitted a) = some .paced ↔ ¬ full ∧ ¬ timed ∧ paced) ∧
      (some (resolveMode permitted a) = some .none ↔ ¬ full ∧ ¬ timed ∧ ¬ paced) := by
  intro full timed paced
  have first : (bit permitted 0 && a.offset && a.split && a.platoon) = true ↔ full := by
    simp only [Bool.and_eq_true, and_assoc, full]
  have second : (bit permitted 1 && a.offset && a.split) = true ↔ timed := by
    simp only [Bool.and_eq_true, and_assoc, timed]
  have third : (bit permitted 2 && a.offset) = true ↔ paced := by
    simp only [Bool.and_eq_true, paced]
  unfold resolveMode
  by_cases hf : full
  · rw [if_pos (first.2 hf)]
    simp [hf]
  · rw [if_neg (fun h => hf (first.1 h))]
    by_cases ht : timed
    · rw [if_pos (second.2 ht)]
      simp [hf, ht]
    · rw [if_neg (fun h => ht (second.1 h))]
      by_cases hp : paced
      · rw [if_pos (third.2 hp)]
        simp [hf, ht, hp]
      · rw [if_neg (fun h => hp (third.1 h))]
        simp [hf, ht, hp]

theorem identifiedReason_resolved (permitted : Nat) (a : Abilities) :
    identifiedReason (resolveMode permitted a) =
      if some (resolveMode permitted a) = some .none then .noCommonMode else .awaitingMark := by
  unfold resolveMode
  split_ifs <;> simp_all [identifiedReason]

/-! ### The answers to an IDENTIFY (R150, R151) -/

theorem identity_leaves {n : Nat} {reply : IdentityFields} {s t : State} (run : exec (.identity n reply) s = .next t) :
    LeavesStores s t := Host.Outcome.next.inj run ▸ (identity_moves n reply s).leavesStores

theorem onLineEntry_head {s : State} {e : QueueEntry} {rest : List QueueEntry} (queue : s.clc.queue = e :: rest)
    (on : e.onLine = true) : onLineEntry s = some e := by
  unfold onLineEntry
  rw [queue]
  exact List.find?_cons_of_pos on

theorem exec_identity {p : Pos} {x : Exchange} {e : QueueEntry} {rest : List QueueEntry} {route : Option RouteRef} {s : State}
    (h : awaiting s x p) (hw : x.work = .command .identify route) (queue : s.clc.queue = e :: rest) (on : e.onLine = true)
    (reply : IdentityFields) :
    exec (.identity x.address reply) s = .next (finish (identityReply p reply (afterGood p s))) := by
  refine congrArg Host.Outcome.next ((onReply_good h rfl (by rw [hw]; rfl)).trans (congrArg finish ?_))
  rw [endGood_plain (by rw [hw]; exact fun r e => by cases e), onLineEntry_head queue on]
  rfl

theorem exec_heartbeatIdentify {p : Pos} {x : Exchange} {e : QueueEntry} {rest : List QueueEntry} {route : Option RouteRef}
    {s : State} (h : awaiting s x p) (hw : x.work = .command .identify route) (queue : s.clc.queue = e :: rest)
    (on : e.onLine = true) :
    exec (.heartbeat x.address) s = .next (finish (heartbeatIdentify p (afterGood p s))) := by
  refine congrArg Host.Outcome.next ((onReply_good h rfl (expects_heartbeat _)).trans (congrArg finish ?_))
  rw [endGood_plain (by rw [hw]; exact fun r e => by cases e), onLineEntry_head queue on, hw]
  rfl

theorem identityReply_same {p : Pos} {cfg : PositionConfig} {s : State} (hc : s.config.get p = some cfg)
    (abilities detectors : Nat) :
    identityReply p { site := cfg.site, abilities := abilities, detectors := detectors } s =
      completeIdentified p (resolveMode cfg.permittedModes (abilitiesOf abilities))
        (fun i => { i with site := some cfg.site, abilities := some (abilitiesOf abilities), detectors := some detectors,
                           basic := some false }) s := by
  unfold identityReply
  rw [hc]
  exact if_pos rfl

theorem identityReply_other {p : Pos} {cfg : PositionConfig} {s : State} (hc : s.config.get p = some cfg) {site : Nat}
    (h : site ≠ cfg.site) (abilities detectors : Nat) :
    identityReply p { site := site, abilities := abilities, detectors := detectors } s =
      completeMismatch p cfg.site (some site) .site s := by
  unfold identityReply
  rw [hc]
  exact if_neg h

theorem heartbeatIdentify_eq {p : Pos} {cfg : PositionConfig} {s : State} (hc : s.config.get p = some cfg) :
    heartbeatIdentify p s =
      if bit cfg.permittedModes 3 = true then completeIdentified p .relay (fun i => { i with basic := some true }) s
      else completeMismatch p cfg.site none .basicUnit s := by
  unfold heartbeatIdentify
  rw [hc]

theorem Good.sound {p : Pos} {s u : State} (good : Good p s u) (score : (s.health p).score < 160) : Sound p u := by
  constructor
  · rw [good.health]
  · rw [good.health]
    exact Nat.lt_of_le_of_lt (Nat.sub_le _ _) score

theorem identity_completes {p : Pos} {x : Exchange} {e : QueueEntry} {rest : List QueueEntry} {route : Option RouteRef}
    {cfg : PositionConfig} {s : State} (h : awaiting s x p) (hw : x.work = .command .identify route)
    (queue : s.clc.queue = e :: rest) (on : e.onLine = true) (hc : s.config.get p = some cfg)
    (score : (s.health p).score < 160) (site abilities detectors : Nat) :
    let permits (n : Nat) : Prop := bit cfg.permittedModes n = true
    let able (n : Nat) : Prop := bit abilities n = true
    let full := permits 0 ∧ able 0 ∧ able 1 ∧ able 2
    let timed := permits 1 ∧ able 0 ∧ able 1
    let paced := permits 2 ∧ able 0
    ∃ t, exec (.identity x.address { site := site, abilities := abilities, detectors := detectors }) s = .next t ∧
      (site = cfg.site →
        (t.ident p).state = .identified ∧ (t.ident p).site = some site ∧
          (t.ident p).abilities = some { offset := bit abilities 0, split := bit abilities 1,
                                         platoon := bit abilities 2, priority := bit abilities 3 } ∧
          (t.ident p).detectors = some detectors ∧ (t.ident p).basic = some false ∧
          ((t.ident p).mode = some .full ↔ full) ∧ ((t.ident p).mode = some .timed ↔ ¬ full ∧ timed) ∧
          ((t.ident p).mode = some .paced ↔ ¬ full ∧ ¬ timed ∧ paced) ∧
          ((t.ident p).mode = some .none ↔ ¬ full ∧ ¬ timed ∧ ¬ paced) ∧ t.clc.accepted.get p = none ∧
          ((s.coord p).state = .unseen → t.coord p = { s.coord p with
            state := .inLocal (if (t.ident p).mode = some .none then .noCommonMode else .awaitingMark), refusals := 0,
            fieldLocal := false }) ∧
          ((s.coord p).state ≠ .unseen → t.coord p = s.coord p)) ∧
      (site ≠ cfg.site → (t.ident p).state = .mismatch ∧ (t.ident p).site = some site ∧
        t.clc.accepted = s.clc.accepted ∧ t.oc = s.oc) ∧
      (t.ident p).retry = none ∧ (t.ident p).byRequest = false ∧ (∀ q, q ≠ p → t.ident q = s.ident q) ∧
      LeavesStores s t := by
  intro permits able full timed paced
  have run := exec_identity h hw queue on { site := site, abilities := abilities, detectors := detectors }
  have good := afterGood_good (p := p) (s := s) (.inr score)
  have leaves := identity_leaves run
  have sound := Good.sound good score
  generalize afterGood p s = u at *
  have hc' : u.config.get p = some cfg := by rw [good.config]; exact hc
  by_cases same : site = cfg.site
  · subst same
    rw [identityReply_same hc'] at run leaves
    have completed := finish_completed sound (resolveMode cfg.permittedModes (abilitiesOf abilities))
      (fun i => { i with site := some cfg.site, abilities := some (abilitiesOf abilities), detectors := some detectors,
                         basic := some false })
    obtain ⟨isFull, isTimed, isPaced, isNone⟩ := resolveMode_cases cfg.permittedModes (abilitiesOf abilities)
    have mode := (congrArg Ident.mode completed.ident :)
    refine ⟨_, run, fun _ => ⟨(congrArg Ident.state completed.ident :), (congrArg Ident.site completed.ident :),
      (congrArg Ident.abilities completed.ident :), (congrArg Ident.detectors completed.ident :),
      (congrArg Ident.basic completed.ident :), ?_, ?_, ?_, ?_, completed.accepted, fun unseen => ?_, fun seen => ?_⟩,
      fun other => absurd rfl other, (congrArg Ident.retry completed.ident :), (congrArg Ident.byRequest completed.ident :),
      fun q hq => (completed.others q hq).trans (good.identOf q), leaves⟩
    · rw [mode]; exact isFull
    · rw [mode]; exact isTimed
    · rw [mode]; exact isPaced
    · rw [mode]; exact isNone
    · rw [completed.unseen (by rw [good.coord]; exact unseen), good.coord, mode, identifiedReason_resolved]
    · rw [completed.seen (by rw [good.coord]; exact seen), good.coord]
  · rw [identityReply_other hc' same] at run leaves
    have ended := finish_mismatched p cfg.site (some site) .site u
    exact ⟨_, run, fun is => absurd is same, fun _ => ⟨(congrArg Ident.state ended.ident :), (congrArg Ident.site ended.ident :),
      ended.accepted.trans good.accepted, ended.oc.trans good.oc⟩, (congrArg Ident.retry ended.ident :),
      (congrArg Ident.byRequest ended.ident :), fun q hq => (ended.others q hq).trans (good.identOf q), leaves⟩

theorem heartbeat_completes {p : Pos} {x : Exchange} {e : QueueEntry} {rest : List QueueEntry} {route : Option RouteRef}
    {cfg : PositionConfig} {s : State} (h : awaiting s x p) (hw : x.work = .command .identify route)
    (queue : s.clc.queue = e :: rest) (on : e.onLine = true) (hc : s.config.get p = some cfg)
    (score : (s.health p).score < 160) :
    ∃ t, exec (.heartbeat x.address) s = .next t ∧
      (bit cfg.permittedModes 3 = true →
        (t.ident p).state = .identified ∧ (t.ident p).mode = some .relay ∧ (t.ident p).basic = some true ∧
          (t.ident p).abilities = (s.ident p).abilities ∧ (t.ident p).detectors = (s.ident p).detectors ∧
          t.clc.accepted.get p = none ∧
          ((s.coord p).state = .unseen →
            t.coord p = { s.coord p with state := .inLocal .relay, refusals := 0, fieldLocal := false })) ∧
      (bit cfg.permittedModes 3 = false →
        (t.ident p).state = .mismatch ∧ t.clc.accepted = s.clc.accepted ∧ t.oc = s.oc) ∧
      (t.ident p).retry = none ∧ (t.ident p).byRequest = false ∧ (∀ q, q ≠ p → t.ident q = s.ident q) ∧
      LeavesStores s t := by
  have run := exec_heartbeatIdentify h hw queue on
  have good := afterGood_good (p := p) (s := s) (.inr score)
  have leaves := heartbeat_leaves run
  have sound := Good.sound good score
  generalize afterGood p s = u at *
  rw [heartbeatIdentify_eq (cfg := cfg) (by rw [good.config]; exact hc)] at run leaves
  cases permitted : bit cfg.permittedModes 3 with
  | true =>
    rw [if_pos permitted] at run leaves
    have completed := finish_completed sound .relay (fun i => { i with basic := some true })
    refine ⟨_, run, fun _ => ⟨(congrArg Ident.state completed.ident :), (congrArg Ident.mode completed.ident :),
      (congrArg Ident.basic completed.ident :), (congrArg Ident.abilities completed.ident :).trans (by rw [good.identOf]),
      (congrArg Ident.detectors completed.ident :).trans (by rw [good.identOf]), completed.accepted, fun unseen => ?_⟩,
      nofun, (congrArg Ident.retry completed.ident :), (congrArg Ident.byRequest completed.ident :),
      fun q hq => (completed.others q hq).trans (good.identOf q), leaves⟩
    rw [completed.unseen (by rw [good.coord]; exact unseen), good.coord]
    rfl
  | false =>
    rw [if_neg (by rw [permitted]; exact Bool.false_ne_true)] at run leaves
    have ended := finish_mismatched p cfg.site none .basicUnit u
    exact ⟨_, run, nofun, fun _ => ⟨(congrArg Ident.state ended.ident :), ended.accepted.trans good.accepted,
      ended.oc.trans good.oc⟩, (congrArg Ident.retry ended.ident :), (congrArg Ident.byRequest ended.ident :),
      fun q hq => (ended.others q hq).trans (good.identOf q), leaves⟩

/-! ### A completion that cuts its position off at once (R151, R152) -/

theorem coordOutOfService_inLocal {p : Pos} {s : State} {was : LocalReason} (h : (s.coord p).state = .inLocal was)
    (reason : LocalReason) : coordOutOfService p reason s = takeReason p reason s := by
  unfold coordOutOfService
  rw [h]

theorem takeReason_ih (p : Pos) (reason : LocalReason) (s : State) : (takeReason p reason s).ih = s.ih := by
  unfold takeReason
  split <;> rfl

/-- Without a route, a position that is not coordinated loses its standing without an offer. -/
theorem standingLost_ih {p : Pos} {s : State} (rest : coordinated (s.coord p).state = false)
    (none : s.pm.routeFrom p = none) : (standingLost p s).ih = s.ih := by
  unfold standingLost
  split
  · rfl
  · rw [endCall_resting rest, endRouteFrom_none none]
    rfl
  · rw [setOwner_none_resting (s := withdrawEnd p (withdrawClear p (leaveRoute p s))) rest]
    rfl

theorem coord_of_oc {p : Pos} {s t : State} (h : t.oc = s.oc) : t.coord p = s.coord p := by
  unfold State.coord
  rw [h]

theorem ident_of_table {q : Pos} {s t : State} (h : t.ih.ident = s.ih.ident) : t.ident q = s.ident q := by
  unfold State.ident
  rw [h]

theorem health_of_ih {q : Pos} {s t : State} (h : t.ih = s.ih) : t.health q = s.health q := by
  unfold State.health
  rw [h]

theorem cutOffReport_local {p : Pos} {s : State} {was : LocalReason} (h : (s.coord p).state = .inLocal was) :
    ((cutOffReport p s).coord p).state = .inLocal .cutOff ∧
      (s.pm.routeFrom p = none → (cutOffReport p s).ih = s.ih) := by
  have served : ((withdrawServiced p s).coord p).state = .inLocal was := h
  have taken := coordOutOfService_inLocal served .cutOff
  have rest : coordinated ((takeReason p .cutOff (withdrawServiced p s)).coord p).state = false := by
    rw [takeReason_coord]
    rfl
  have beside := (Beside.linksDown p (standingLost p (takeReason p .cutOff (withdrawServiced p s)))).trans (.approachesLost p _)
  unfold cutOffReport
  dsimp only
  rw [taken]
  refine ⟨?_, fun none => ?_⟩
  · rw [coord_of_oc beside.oc, (Handled.standingLost p _).rests p rest, takeReason_coord]
  · rw [beside.ih, standingLost_ih rest (by rw [takeReason_pm]; exact none), takeReason_ih]
    rfl

theorem cutOff_reported (p : Pos) (cause : HealthCause) (s : State) :
    (cutOff p cause s).oc = (cutOffReport p (setHealth p .cutOff cause s)).oc ∧
      (cutOff p cause s).ih.ident = (cutOffReport p (setHealth p .cutOff cause s)).ih.ident := by
  unfold cutOff
  dsimp only
  generalize cutOffReport p (setHealth p .cutOff cause s) = u
  split <;> exact ⟨rfl, rfl⟩

theorem completes_cutOff {p : Pos} {s : State} (unseen : (s.coord p).state = .unseen) (failures : (s.health p).failures = 0)
    (score : 160 ≤ (s.health p).score) (open' : (s.health p).state ≠ .cutOff) (mode : ResolvedMode) (f : Ident → Ident) :
    let t := completeIdentified p mode f s
    (t.ident p).state = .identified ∧ (t.health p).state = .cutOff ∧ (t.coord p).state = .inLocal .cutOff ∧
      (∀ q, q ≠ p → { t.ident q with retry := none } = { s.ident q with retry := none }) ∧
      (s.pm.routeFrom p = none → ∀ q, q ≠ p → t.ident q = s.ident q) := by
  have kept := identified_figures p mode f s
  have ident := identified_ident p p mode f s
  rw [if_pos rfl] at ident
  have others (q : Pos) (hq : q ≠ p) : (identified p mode f s).ident q = s.ident q :=
    (identified_ident p q mode f s).trans (if_neg (Ne.symm hq))
  have own := identified_unseen unseen mode f
  have pm : (identified p mode f s).pm = s.pm := by
    unfold identified coordIdentified
    dsimp only
    split <;> rfl
  have cause : cutOffCause (identified p mode f s) p = some .score := by
    unfold cutOffCause
    dsimp only
    rw [if_neg (not_or.2 ⟨by rw [kept.state]; exact open', not_not_intro (by rw [ident])⟩),
      if_neg (by rw [kept.failures, failures]; decide), if_pos (by rw [kept.score]; exact score)]
  have tested : testCutOff p (identified p mode f s) = cutOff p .score (identified p mode f s) := by
    unfold testCutOff
    rw [cause]
  have health := (cutOff_of (p := p) (cause := .score) (s := identified p mode f s)).1
  intro t
  have eq : ∃ body, t = raiseNotice body (cutOff p .score (identified p mode f s)) :=
    ⟨_, (completeIdentified_eq p mode f s).trans (by rw [tested])⟩
  obtain ⟨body, eq⟩ := eq
  clear_value t
  subst eq
  generalize identified p mode f s = v at *
  have coord : (v.coord p).state = .inLocal (identifiedReason mode) := by rw [own]
  obtain ⟨state, ih⟩ := cutOffReport_local (s := setHealth p .cutOff .score v) coord
  have road := road_cutOffReport (A := fun _ => True) (p := p) (s := setHealth p .cutOff .score v) trivial
    (fun _ _ _ _ => trivial)
  obtain ⟨oc, table⟩ := cutOff_reported p .score v
  have identOf (q : Pos) : (raiseNotice body (cutOff p .score v)).ident q =
      (cutOffReport p (setHealth p .cutOff .score v)).ident q :=
    ident_of_table ((congrArg Machine.Identification.ident (raiseNotice_ih body _)).trans table)
  have coordOf : (raiseNotice body (cutOff p .score v)).coord p =
      (cutOffReport p (setHealth p .cutOff .score v)).coord p := (raiseNotice_coord body _ p).trans (coord_of_oc oc)
  refine ⟨?_, ?_, ?_, fun q hq => ?_, fun none q hq => ?_⟩
  · rw [identOf, road.identState]
    exact (congrArg Ident.state ident :)
  · rw [health_of_ih (raiseNotice_ih body _), health]
  · rw [coordOf]
    exact state
  · rw [identOf, road.ident]
    exact congrArg (fun i : Ident => { i with retry := none }) (others q hq)
  · have same : (cutOffReport p (setHealth p .cutOff .score v)).ident q = (setHealth p .cutOff .score v).ident q :=
      ident_of_table (congrArg Machine.Identification.ident (ih (by rw [← none, ← pm]; rfl)))
    rw [identOf, same]
    exact others q hq

theorem identity_cutOff {p : Pos} {x : Exchange} {e : QueueEntry} {rest : List QueueEntry} {route : Option RouteRef}
    {cfg : PositionConfig} {s : State} (h : awaiting s x p) (hw : x.work = .command .identify route)
    (queue : s.clc.queue = e :: rest) (on : e.onLine = true) (probing : (s.ident p).state = .probing)
    (hc : s.config.get p = some cfg) (score : 161 ≤ (s.health p).score) (open' : (s.health p).state ≠ .cutOff)
    (unseen : (s.coord p).state = .unseen) (abilities detectors : Nat) :
    ∃ t, exec (.identity x.address { site := cfg.site, abilities := abilities, detectors := detectors }) s = .next t ∧
      (t.ident p).state = .identified ∧ (t.health p).state = .cutOff ∧ (t.coord p).state = .inLocal .cutOff ∧
      (∀ q, q ≠ p → { t.ident q with retry := none } = { s.ident q with retry := none }) ∧
      (s.pm.routeFrom p = none → ∀ q, q ≠ p → t.ident q = s.ident q) ∧ LeavesStores s t := by
  have run := exec_identity h hw queue on { site := cfg.site, abilities := abilities, detectors := detectors }
  have leaves := identity_leaves run
  obtain ⟨scored, health⟩ := takeOutcome_unidentified (p := p) (s := takeOffLine { s with clc := s.clc.released })
    (by rw [show (takeOffLine { s with clc := s.clc.released }).ident p = s.ident p from rfl, probing]; nofun)
  have good : Scored p (takeOffLine { s with clc := s.clc.released }) (afterGood p s) := scored
  have health : (afterGood p s).health p =
      { s.health p with
        score := (s.health p).score - 1, failures := 0,
        state := followedState { s.health p with score := (s.health p).score - 1 } } := health
  generalize afterGood p s = u at *
  rw [identityReply_same (by rw [good.config]; exact hc)] at run leaves
  have coord : u.coord p = s.coord p := congrArg (fun oc : Coordinator => oc.positions.get p) good.oc
  have identOf (q : Pos) : u.ident q = s.ident q := congrArg (fun v : Vector Ident 12 => v.get q) good.ident
  obtain ⟨state, cut, road, others, exact'⟩ := completes_cutOff (p := p) (s := u) (by rw [coord]; exact unseen)
    (by rw [health]) (by rw [health]; exact Nat.le_sub_of_add_le score) (by rw [health]; exact followedState_open open')
    (resolveMode cfg.permittedModes (abilitiesOf abilities))
    (fun i => { i with site := some cfg.site, abilities := some (abilitiesOf abilities), detectors := some detectors,
                       basic := some false })
  refine ⟨_, run, by rw [finish_ident]; exact state, by rw [finish_health]; exact cut, by rw [finish_coord]; exact road,
    fun q hq => ?_, fun none q hq => ?_, leaves⟩
  · rw [finish_ident, others q hq, identOf]
  · rw [finish_ident, exact' (by rw [show u.pm = s.pm from good.pm]; exact none) q hq, identOf]

/-- Settles O37: an IDENTITY, a HEARTBEAT, and the completion that cuts off at once. -/
theorem identificationCompletes : Obligations.IdentificationCompletes := by
  unfold Obligations.IdentificationCompletes
  exact ⟨fun p x e rest route cfg s h hw queue on _ hc score =>
      ⟨fun site abilities detectors => identity_completes h hw queue on hc score site abilities detectors,
        heartbeat_completes h hw queue on hc score⟩,
    fun p x e rest route cfg s h hw queue on probing hc score open' unseen abilities detectors =>
      identity_cutOff h hw queue on probing hc score open' unseen abilities detectors⟩

end Sys2Proof.Proofs.Identifications
end

section
/-! PROOF. The end of a line break and the drained report (O35), with the layer of what every position that is forgotten
leaves. -/

open Sys2Proof Sys2Proof.Machine

namespace Sys2Proof.Proofs.Forgetting

open Answers Roads Coordination StatusReplies RouteEnds Exchanges Failures Reports Identifications

/-! ### Handlings that can offer nothing (R136) -/

/-- From `s` to `t` by handlings that offer nothing when the queue takes no offer: Identification and Health stand, and the
queue gains no entry. -/
def Shut (s t : State) : Prop :=
  (∀ c, offerOpen s c = false) →
    (∀ c, offerOpen t c = false) ∧ t.ih = s.ih ∧ ∀ e ∈ t.clc.queue, e ∈ s.clc.queue

namespace Shut

theorem rfl' (s : State) : Shut s s := fun h => ⟨h, rfl, fun _ he => he⟩

theorem trans {a b c : State} (h : Shut a b) (g : Shut b c) : Shut a c := fun shut => by
  obtain ⟨still, ih, queue⟩ := h shut
  obtain ⟨still', ih', queue'⟩ := g still
  exact ⟨still', ih'.trans ih, fun e he => queue e (queue' e he)⟩

theorem same {s t : State} (opens : ∀ c, offerOpen t c = offerOpen s c) (ih : t.ih = s.ih)
    (queue : ∀ e ∈ t.clc.queue, e ∈ s.clc.queue) : Shut s t := fun h => ⟨fun c => (opens c).trans (h c), ih, queue⟩

theorem withdraw (w : QueueEntry → Bool) (s : State) : Shut s (withdraw w s) :=
  same (fun _ => rfl) rfl (fun _ he => List.mem_of_mem_filter he)

theorem offerTo (c : LineCommand) (p : Pos) (route : Option RouteRef) (s : State) : Shut s (offerTo c p route s).1 := fun h => by
  have shut : (Machine.offerTo c p route s).1 = s := by
    unfold Machine.offerTo
    split
    · rfl
    · exact congrArg Prod.fst (Offers.offerEntry_closed (by rw [h c]; exact Bool.false_ne_true))
  rw [shut]
  exact rfl' s h

theorem withCoord (p : Pos) (f : Coord → Coord) (s : State) : Shut s (s.withCoord p f) :=
  same (fun _ => rfl) rfl (fun _ he => he)

theorem beside {s t : State} (h : Beside s t) : Shut s t :=
  same (fun c => (h.road (A := fun _ => True) (C := fun _ => True)).offerOpen c) h.ih (fun e he => by rwa [h.clc] at he)

theorem leaveToLocal (p : Pos) (reason : LocalReason) (b : Bool) (s : State) : Shut s (leaveToLocal p reason b s) := by
  have left : Shut s (notePosition p ((withdrawTiming p s).withCoord p
      (fun c => { c.unsteered (.inLocal reason) with commanded := false }))) :=
    ((withdraw _ s).trans (withCoord p _ _)).trans (beside (.raiseNotice _ _))
  unfold Machine.leaveToLocal
  dsimp only
  split
  · exact left.trans (offerTo _ _ _ _)
  · exact left

theorem ownerTaken (p : Pos) (s : State) : Shut s (ownerTaken p s) := by
  unfold Machine.ownerTaken
  split
  · exact ((withdraw _ s).trans (withCoord p _ _)).trans (beside (.raiseNotice _ _))
  · exact rfl' s

theorem ownerReturned (p : Pos) (s : State) : Shut s (ownerReturned p s) := by
  unfold Machine.ownerReturned
  split
  · split
    · exact ((withCoord p _ s).trans (withCoord p _ _)).trans (beside (.raiseNotice _ _))
    · exact leaveToLocal p _ _ s
  · exact rfl' s

theorem setOwner (p : Pos) (o : Owner) (s : State) : Shut s (setOwner p o s) := by
  have set : Shut s (withOwner p o s) := same (fun _ => rfl) rfl (fun _ he => he)
  unfold Machine.setOwner
  dsimp only
  split
  · exact set.trans (ownerTaken p _)
  · split
    · exact set.trans (ownerReturned p _)
    · exact set

theorem handBack (p origin : Pos) (s : State) : Shut s (handBack p origin s) := by
  unfold Machine.handBack
  split
  · exact setOwner p _ s
  · exact rfl' s

theorem sendEnd (p : Pos) (ref : RouteRef) (s : State) : Shut s (sendEnd p ref s).1 := by
  have sent : Shut s (Machine.offerTo .routeEnd p (some ref) (withdrawClear p s)).1 := (withdraw _ s).trans (offerTo _ _ _ _)
  unfold Machine.sendEnd
  dsimp only
  split
  · exact sent
  · exact sent.trans (handBack p _ _)

theorem endMember (ref : RouteRef) (acc : State × List Pos) (m : Member) : Shut acc.1 (endMember ref acc m).1 := by
  unfold Machine.endMember
  dsimp only
  split
  · exact (withdraw _ acc.1).trans (setOwner _ _ _)
  · exact sendEnd _ ref acc.1

theorem endMembers (ref : RouteRef) (members : List Member) (acc : State × List Pos) :
    Shut acc.1 (members.foldl (Machine.endMember ref) acc).1 := by
  induction members generalizing acc with
  | nil => exact rfl' _
  | cons m members ih => exact (endMember ref acc m).trans (ih _)

theorem endRouteFrom (p : Pos) (s : State) : Shut s (endRouteFrom p s).1 := by
  unfold Machine.endRouteFrom
  split
  · exact rfl' s
  · next r _ =>
    have taken : Shut s (s.withRoutes (fun rs => rs.filter (fun x => x.ref.origin != r.ref.origin))) :=
      same (fun _ => rfl) rfl (fun _ he => he)
    exact taken.trans (endMembers r.ref r.members (_, []))

theorem standingLost (p : Pos) (s : State) : Shut s (standingLost p s) := by
  unfold Machine.standingLost
  split
  · exact rfl' s
  · exact ((endRouteFrom p s).trans (setOwner p _ _)).trans (beside (.raiseNotice _ _))
  · have left : Shut s (leaveRoute p s) := same (fun _ => rfl) rfl (fun _ he => he)
    exact ((left.trans (withdraw _ _)).trans (withdraw _ _)).trans (setOwner p _ _)

end Shut

/-! ### A position that leaves IDENTIFIED where nothing is offered -/

/-- Either no offer is taken, or no position has an owner: losing a position offers nothing. -/
def Quiet (s : State) : Prop := (∀ c, offerOpen s c = false) ∨ ∀ q, s.owner q = .none

theorem coordUnseen_owner (p q : Pos) (s : State) : (coordUnseen p s).owner q = s.owner q :=
  congrArg (fun pm : Priority => pm.owners.get q) (coordUnseen_pm p s)

theorem coordUnseen_ih (p : Pos) (s : State) : (coordUnseen p s).ih = s.ih := by
  unfold coordUnseen
  dsimp only
  split <;> rfl

theorem coordUnseen_queue (p : Pos) (s : State) : ∀ e ∈ (coordUnseen p s).clc.queue, e ∈ s.clc.queue := by
  have sub : ∀ e ∈ (withdrawTiming p s).clc.queue, e ∈ s.clc.queue := fun _ he => List.mem_of_mem_filter he
  unfold coordUnseen
  dsimp only
  split <;> exact sub

/-- The first steps of the report that a position has left IDENTIFIED. -/
def unseen (p : Pos) (s : State) : State := coordUnseen p (withdrawServiced p s)

theorem unseen_queue (p : Pos) (s : State) : ∀ e ∈ (unseen p s).clc.queue, e ∈ s.clc.queue := fun e he =>
  List.mem_of_mem_filter (coordUnseen_queue p (withdrawServiced p s) e he)

theorem unseen_owner (p q : Pos) (s : State) : (unseen p s).owner q = s.owner q := coordUnseen_owner p q _

theorem unseen_opens (p : Pos) (s : State) (c : LineCommand) : offerOpen (unseen p s) c = offerOpen s c :=
  ((Road.withdraw (wide := true) (A := fun _ => True) (C := releases) _ s).trans (.coordUnseen trivial _)).offerOpen c

/-- The rest of the report: the platoons and approach records of the position go. -/
def lost (p : Pos) (s : State) : State := approachesLost p (emptyAccumulator p (linksDown p s))

theorem beside_lost (p : Pos) (s : State) : Beside s (lost p s) :=
  ((Beside.linksDown p s).trans (.emptyAccumulator p _)).trans (.approachesLost p _)

theorem leftIdentified_eq (p : Pos) (s : State) : leftIdentified p s = lost p (standingLost p (unseen p s)) := rfl

theorem leftIdentified_quiet {p : Pos} {s : State} (h : Quiet s) :
    Quiet (leftIdentified p s) ∧ (leftIdentified p s).ih = s.ih ∧
      ∀ e ∈ (leftIdentified p s).clc.queue, e ∈ s.clc.queue := by
  have beside := beside_lost p (standingLost p (unseen p s))
  have opens (c : LineCommand) : offerOpen (lost p (standingLost p (unseen p s))) c = offerOpen (standingLost p (unseen p s)) c :=
    (beside.road (A := fun _ => True) (C := fun _ => True)).offerOpen c
  rw [leftIdentified_eq]
  rcases h with shut | unowned
  · obtain ⟨still, ih, queue⟩ := Shut.standingLost p (unseen p s) (fun c => (unseen_opens p s c).trans (shut c))
    refine ⟨.inl (fun c => (opens c).trans (still c)), ?_, fun e he => ?_⟩
    · rw [beside.ih, ih]
      exact coordUnseen_ih p _
    · rw [beside.clc] at he
      exact unseen_queue p s e (queue e he)
  · have same : standingLost p (unseen p s) = unseen p s := standingLost_none ((unseen_owner p p s).trans (unowned p))
    rw [same] at beside ⊢
    refine ⟨.inr (fun q => ?_), beside.ih.trans (coordUnseen_ih p _), fun e he => ?_⟩
    · have owner : (lost p (unseen p s)).owner q = (unseen p s).owner q := by
        unfold State.owner
        rw [beside.pm]
      rw [owner, unseen_owner, unowned]
    · rw [beside.clc] at he
      exact unseen_queue p s e he

/-- A position that leaves IDENTIFIED is UNSEEN (R13). -/
theorem leftIdentified_coord (p : Pos) (s : State) : ((leftIdentified p s).coord p).state = .unseen := by
  have unseen' : ((unseen p s).coord p).state = .unseen := by
    unfold unseen coordUnseen
    dsimp only
    split
    · rw [State.withCoord_coord, if_pos rfl]
      rfl
    · rw [notePosition_coord, State.withCoord_coord, if_pos rfl]
      rfl
  have rests : coordinated ((unseen p s).coord p).state = false := by rw [unseen']; rfl
  rw [leftIdentified_eq, coord_of_oc (beside_lost p _).oc, (Handled.standingLost p _).rests p rests, unseen']

/-! ### Everything forgotten (R157, R158) -/

/-- Replace the table of identifications. -/
def withIdents (v : Vector Ident 12) (s : State) : State := { s with ih := { s.ih with ident := v } }

/-- From `s` to `t` the identifications are replaced; else nothing differs but what a road may change. -/
def Forgets (s t : State) : Prop := ∃ v, Road true (fun _ => True) releases (withIdents v s) t

theorem Road.idents {wide : Bool} {A : Pos → Prop} {C : LineCommand → Prop} {s t : State} (h : Road wide A C s t)
    (v : Vector Ident 12) : Road wide A C (withIdents v s) (withIdents v t) :=
  { h with
    outcomes := by
      obtain ⟨health, wasAbsent, silence, lineResets, lastGood, line, driverEnable, txLevel, drainFlag, roundDeadline, due,
        summaries, draining⟩ := h.outcomes
      exact ⟨health, wasAbsent, silence, lineResets, lastGood, line, driverEnable, txLevel, drainFlag, roundDeadline, due,
        summaries, draining⟩
    ident := fun _ => rfl
    retry := fun _ => .inl rfl
    queue := h.queue }

theorem Forgets.trans {a b c : State} (h : Forgets a b) (g : Forgets b c) : Forgets a c := by
  obtain ⟨v, first⟩ := h
  obtain ⟨w, second⟩ := g
  exact ⟨w, (Road.idents first w).trans second⟩

theorem Forgets.rfl' (s : State) : Forgets s s := ⟨s.ih.ident, .rfl' s⟩

theorem Forgets.ofRoad {s t : State} (h : Road true (fun _ => True) releases s t) : Forgets s t := ⟨s.ih.ident, h⟩

theorem Forgets.forgetIdent (p : Pos) (s : State) : Forgets s (forgetIdent p s) := by
  have reset : Forgets s (s.withIdent p (fun _ => Ident.reset)) := ⟨_, .rfl' _⟩
  unfold Machine.forgetIdent
  dsimp only
  split
  · exact reset.trans (.ofRoad (road_leftIdentified trivial (fun _ _ _ _ => trivial)))
  · exact reset

/-- Where nothing is offered, a position forgotten is UNKNOWN without more, and the queue gains no entry. -/
theorem forgetIdent_quiet {p : Pos} {s : State} (h : Quiet s) :
    Quiet (forgetIdent p s) ∧ (∀ q, (forgetIdent p s).ident q = if p = q then Ident.reset else s.ident q) ∧
      ∀ e ∈ (forgetIdent p s).clc.queue, e ∈ s.clc.queue := by
  have set (q : Pos) : (s.withIdent p (fun _ => Ident.reset)).ident q = if p = q then Ident.reset else s.ident q :=
    ident_withIdent s p q _
  have still : Quiet (s.withIdent p (fun _ => Ident.reset)) := h
  unfold forgetIdent
  dsimp only
  split
  · obtain ⟨left, ih, queue⟩ := leftIdentified_quiet (p := p) still
    refine ⟨left, fun q => ?_, queue⟩
    rw [ident_of_table (congrArg Machine.Identification.ident ih)]
    exact set q
  · exact ⟨still, set, fun _ he => he⟩

/-- Every position forgotten, where nothing is offered. -/
theorem forgetIdents_quiet {s : State} (h : Quiet s) :
    (Quiet (forPositions forgetIdent s) ∧ Forgets s (forPositions forgetIdent s) ∧
      ∀ e ∈ (forPositions forgetIdent s).clc.queue, e ∈ s.clc.queue) ∧
    ∀ p, (forPositions forgetIdent s).ident p = Ident.reset := by
  refine forPositions_each (look := fun u p => u.ident p) (P := fun _ i => i = Ident.reset)
    (K := fun _ u => Quiet u ∧ Forgets s u ∧ ∀ e ∈ u.clc.queue, e ∈ s.clc.queue) ⟨h, .rfl' s, fun _ he => he⟩
    (fun p rest u kept _ => ?_)
  obtain ⟨still, forgets, queue⟩ := kept
  obtain ⟨still', ident, queue'⟩ := forgetIdent_quiet (p := p) still
  exact ⟨⟨still', forgets.trans (.forgetIdent p u), fun e he => queue e (queue' e he)⟩, (ident p).trans (if_pos rfl),
    fun q hq => (ident q).trans (if_neg (Ne.symm hq))⟩

/-! ### The end of a handling with nothing to send -/

/-- With nothing queued and no position due, the arbiter begins nothing. -/
theorem settleLine_unemployed {s : State} (hq : s.clc.queue = []) (hd : ∀ p, pollEligible s p = true → s.clc.due.get p = none) :
    settleLine s = followSilence (dropDue s) := by
  have beacon : dropBeacon s = s := by
    unfold dropBeacon
    split
    · rfl
    · have none : s.clc.queue.filter (fun e => !(e.command == LineCommand.beacon)) = s.clc.queue := by rw [hq]; rfl
      exact congrArg s.withQueue none
  have undue : ∀ p, (followSilence (dropDue s)).clc.due.get p = none := fun p => by
    change (dropDue s).clc.due.get p = none
    unfold dropDue
    rw [get_ofFn]
    split
    · next eligible => exact hd p eligible
    · rfl
  have next : nextDue (followSilence (dropDue s)) = none := by
    simp [nextDue, positions, undue]
  have nothing : choose (followSilence (dropDue s)) = .nothing := by
    have queue : (followSilence (dropDue s)).clc.queue = [] := hq
    unfold choose overduePoll
    rw [next, queue]
  unfold settleLine
  rw [beacon]
  unfold arbiterRun
  rw [nothing]
  split <;> rfl

theorem finish_unemployed {s : State} (hq : s.clc.queue = []) (hd : ∀ p, pollEligible s p = true → s.clc.due.get p = none) :
    (finish s).clc.line = s.clc.line ∧ (finish s).clc.driverEnable = s.clc.driverEnable ∧
      (finish s).clc.txLevel = s.clc.txLevel ∧ (finish s).clc.queue = [] := by
  have clc : (finish s).clc = (followSilence (dropDue s)).clc :=
    (finish_clc s).trans (congrArg State.clc (settleLine_unemployed hq hd))
  rw [clc]
  exact ⟨rfl, rfl, rfl, hq⟩

/-! ### The drained report (R142, R158) -/

theorem drained_mute {s : State} (setup : s.sli.mode = .setup) (c : LineCommand) :
    offerOpen { s with clc := { s.clc with drainFlag := false }, sli := { s.sli with draining := false } } c = false := by
  have not : ¬ offerOpen { s with clc := { s.clc with drainFlag := false }, sli := { s.sli with draining := false } } c = true := by
    rw [Offers.offerOpen_iff]
    rintro (live | ⟨drain, -⟩)
    · exact absurd (setup.symm.trans live) (by decide)
    · exact Bool.false_ne_true drain
  simpa using not

/-- What the drained report leaves. -/
structure Drained (s t : State) : Prop where
  drainFlag : t.clc.drainFlag = false
  draining : t.sli.draining = false
  line : t.clc.line = s.clc.line
  queue : ∀ e ∈ t.clc.queue, e ∈ s.clc.queue
  ident : ∀ p, t.ident p = Ident.reset
  health : ∀ p, t.health p = Health.reset
  silence : t.ih.silence = none
  trim : ∀ p, (t.coord p).trim = (s.coord p).trim
  mode : t.sli.mode = s.sli.mode

theorem drained_leaves {s : State} (setup : s.sli.mode = .setup) : Drained s (drained s) := by
  obtain ⟨⟨-, ⟨v, road⟩, queue⟩, ident⟩ := forgetIdents_quiet
    (s := { s with clc := { s.clc with drainFlag := false }, sli := { s.sli with draining := false } })
    (.inl (drained_mute setup))
  unfold drained forgetAll
  dsimp only
  generalize forPositions forgetIdent
    { s with clc := { s.clc with drainFlag := false }, sli := { s.sli with draining := false } } = u at *
  exact ⟨road.outcomes.drainFlag, road.outcomes.draining, road.outcomes.line, queue, ident,
    fun p => by simp [State.health], rfl, road.trim, road.mode⟩

theorem finish_drained {s : State} (setup : s.sli.mode = .setup) (empty : s.clc.queue = []) :
    let t := finish (drained s)
    t.clc.drainFlag = false ∧ t.sli.draining = false ∧ t.clc.line = s.clc.line ∧ (∀ p, t.ident p = Ident.reset) ∧
      (∀ p, t.health p = Health.reset) ∧ ∀ p, (t.coord p).trim = (s.coord p).trim := by
  have h := drained_leaves setup
  have none : (drained s).clc.queue = [] := List.eq_nil_iff_forall_not_mem.2 (fun e he => by
    have old := h.queue e he
    rw [empty] at old
    exact absurd old List.not_mem_nil)
  have ineligible (p : Pos) : pollEligible (drained s) p = true → (drained s).clc.due.get p = .none := fun eligible => by
    unfold pollEligible at eligible
    rw [h.ident] at eligible
    simp [Ident.reset] at eligible
  obtain ⟨line, -, -, -⟩ := finish_unemployed none ineligible
  have settles := settles_finish (drained s)
  exact ⟨settles.drainFlag.trans h.drainFlag, settles.draining.trans h.draining, line.trans h.line,
    fun p => (finish_ident _ p).trans (h.ident p), fun p => (finish_health _ p).trans (h.health p),
    fun p => (congrArg Coord.trim (finish_coord _ p)).trans (h.trim p)⟩

/-- A line break that ends with nothing to do releases the line. -/
theorem break_ends {s : State} (hl : s.clc.line = .lineBreak s.now) (flag : s.clc.drainFlag = false) :
    ∃ t, exec .lineBreakEnd s = .next t ∧ Settles s t ∧
      (s.clc.queue = [] → (∀ p, s.clc.due.get p = none) →
        t.clc.line = .idle ∧ t.clc.driverEnable = false ∧ t.clc.txLevel = .mark) := by
  have undrained : reportIfDrained { s with clc := s.clc.released } = { s with clc := s.clc.released } :=
    if_neg (fun h => by
      have flagged : s.clc.drainFlag = true := h.1
      exact Bool.false_ne_true (flag.symm.trans flagged))
  have run : breakEvent s = finish { s with clc := s.clc.released } := by
    unfold breakEvent
    rw [hl]
    exact (if_pos rfl).trans (congrArg finish undrained)
  have settles : Settles s { s with clc := s.clc.released } := by constructor <;> rfl
  refine ⟨_, congrArg Host.Outcome.next run, settles.trans (settles_finish _), fun empty undue => ?_⟩
  obtain ⟨line, driver, level, -⟩ := finish_unemployed (s := { s with clc := s.clc.released }) empty (fun p _ => undue p)
  exact ⟨line, driver, level⟩

theorem break_lasts {s : State} {ends : Time} (hl : s.clc.line = .lineBreak ends) (h : ends ≠ s.now) :
    exec .lineBreakEnd s = .next s := by
  refine congrArg Host.Outcome.next (?_ : breakEvent s = s)
  unfold breakEvent
  rw [hl]
  exact if_neg h

/-- Settles O35: the break with and without a drained report. -/
theorem breakAndDrainEnd : Obligations.BreakAndDrainEnd := by
  unfold Obligations.BreakAndDrainEnd
  refine ⟨fun ends s hl flag => ⟨fun due => ?_, fun early => break_lasts hl early⟩, fun s flag setup empty => ⟨fun idle => ?_,
    fun ends hl due => ?_⟩⟩
  · subst due
    exact break_ends hl flag
  · have due : (fun s : State => s.clc.drainFlag && lineEmpty s) s = true := by
      simp [flag, lineEmpty, empty, idle]
    have run : exec .queueDrained s = .next (finish (drained s)) := congrArg Host.Outcome.next (whenDue_due due)
    obtain ⟨drainFlag, draining, line, ident, health, trim⟩ := finish_drained setup empty
    have moves : Moves false true s (finish (drained s)) := Moves.finish (Moves.drained (.refl s))
    exact ⟨_, run, drainFlag, draining, line.trans idle, ident, health, trim, moves.router, moves.leavesStores⟩
  · subst due
    have drains : reportIfDrained { s with clc := s.clc.released } = drained { s with clc := s.clc.released } := by
      refine if_pos ⟨flag, ?_⟩
      simp [lineEmpty, LineController.released, empty]
    have run : breakEvent s = finish (drained { s with clc := s.clc.released }) := by
      unfold breakEvent
      rw [hl]
      exact (if_pos rfl).trans (congrArg finish drains)
    obtain ⟨drainFlag, draining, line, ident, health, trim⟩ := finish_drained (s := { s with clc := s.clc.released }) setup empty
    have moves : Moves false true s (breakEvent s) := Moves.breakEvent (.refl s)
    rw [run] at moves
    exact ⟨_, congrArg Host.Outcome.next run, drainFlag, draining, line, ident, health, trim, moves.router, moves.leavesStores⟩

end Sys2Proof.Proofs.Forgetting
end

section
/-! PROOF. The roll call and GO-LIVE (O50). -/

open Sys2Proof Sys2Proof.Machine

namespace Sys2Proof.Proofs.RollCall

open Answers Roads Coordination StatusReplies RouteEnds Exchanges Failures Reports Identifications Forgetting Settings

/-! ### The roll call where no position is IDENTIFIED (R149) -/

/-- An entry of the lowest class joins at the end. -/
theorem joinQueue_lowest {e : QueueEntry} (h : e.rank = 0) (q : List QueueEntry) : joinQueue e q = q ++ [e] := by
  induction q with
  | nil => rfl
  | cons x q ih =>
    unfold joinQueue
    rw [if_neg (by omega), ih]
    rfl

/-- The IDENTIFYs with which the positions of a list are called. -/
def calls (s : State) (l : List Pos) : List QueueEntry :=
  l.filterMap (fun p => (s.config.get p).map (fun cfg => freshEntry .identify p cfg s))

theorem calls_length (s : State) (l : List Pos) : (calls s l).length ≤ l.length := List.length_filterMap_le _ _

theorem mem_calls {s : State} {l : List Pos} {e : QueueEntry} (h : e ∈ calls s l) :
    ∃ p cfg, s.config.get p = some cfg ∧ e = freshEntry .identify p cfg s := by
  obtain ⟨p, -, hp⟩ := List.mem_filterMap.1 h
  obtain ⟨cfg, hc, rfl⟩ := Option.map_eq_some_iff.1 hp
  exact ⟨p, cfg, hc, rfl⟩

theorem calls_positions (s : State) (l : List Pos) :
    (calls s l).map (fun e => (e.command, e.position)) =
      (l.filter (fun p => (s.config.get p).isSome)).map (fun p => (LineCommand.identify, some p)) := by
  induction l with
  | nil => rfl
  | cons p l ih =>
    unfold calls at ih ⊢
    cases hc : s.config.get p with
    | none => simpa [hc] using ih
    | some cfg => simpa [hc, freshEntry] using ih

/-- From `s` to `u` positions are called: identifications and health apart, only the queue and the notices differ. -/
structure Calls (s u : State) (q : List QueueEntry) : Prop where
  pending : u.pending = s.pending
  ctb : u.ctb = s.ctb
  oc : u.oc = s.oc
  pt : u.pt = s.pt
  qw : u.qw = s.qw
  pm : u.pm = s.pm
  pl : u.pl = s.pl
  ps : u.ps = s.ps
  er : u.er = s.er
  config : u.config = s.config
  mode : u.sli.mode = s.sli.mode
  silence : u.ih.silence = s.ih.silence
  lineResets : u.ih.lineResets = s.ih.lineResets
  clc : u.clc = { s.clc with queue := q }

theorem recalled_counts (p : Pos) (s : State) :
    (recalled p s).ih.silence = s.ih.silence ∧ (recalled p s).ih.lineResets = s.ih.lineResets := by
  unfold recalled liftCutOff
  dsimp only
  split <;> exact ⟨rfl, rfl⟩

/-- A configured position that is not IDENTIFIED is called, its IDENTIFY behind every other entry. -/
theorem beginIdentification_calls {p : Pos} {cfg : PositionConfig} {s : State} (hc : s.config.get p = some cfg)
    (live : s.isLive = true) (room : s.clc.queue.length < 24) (waits : (s.ident p).state ≠ .identified) :
    beginIdentification p s = (recalled p s).withQueue (s.clc.queue ++ [freshEntry .identify p cfg s]) := by
  have only := recalled_onlyAt p s
  have entry : freshEntry .identify p cfg (recalled p s) = freshEntry .identify p cfg s := by
    unfold freshEntry
    rw [only.now]
  rw [beginIdentification_eq (by rw [hc]; nofun), called_waiting waits, offerIdentify_room (cfg := cfg)
    (by rw [only.config]; exact hc) (by rw [only.isLive]; exact live) (by rw [only.clc]; exact room), only.clc, entry,
    joinQueue_lowest rfl]

theorem beginIdentification_unconfigured {p : Pos} {s : State} (h : s.config.get p = none) : beginIdentification p s = s := by
  unfold beginIdentification
  rw [h]
  rfl

/-- The roll call in LIVE of positions that are not IDENTIFIED: the IDENTIFYs stand at the end of the queue in position order. -/
theorem rollCall_waiting {s : State} (live : s.isLive = true) (room : s.clc.queue.length + 12 ≤ 24)
    (waits : ∀ p, (s.ident p).state ≠ .identified) :
    Calls s (rollCall s) (s.clc.queue ++ calls s positions) ∧
      ∀ p, (s.config.get p ≠ none → (rollCall s).ident p = (s.ident p).probing ∧
          (rollCall s).health p = calledHealth (s.health p)) ∧
        (s.config.get p = none → (rollCall s).ident p = s.ident p ∧ (rollCall s).health p = s.health p) := by
  have passed := forPositions_each (f := beginIdentification) (s := s) (look := fun u p => (u.ident p, u.health p))
    (P := fun p x => (s.config.get p ≠ none → x = ((s.ident p).probing, calledHealth (s.health p))) ∧
      (s.config.get p = none → x = (s.ident p, s.health p)))
    (K := fun rest u => ∃ done, done ++ rest = positions ∧ Calls s u (s.clc.queue ++ calls s done))
    ⟨[], rfl, by constructor <;> first | rfl | simp [calls]⟩ (fun p rest u kept fresh => ?_)
  · obtain ⟨⟨done, all, calls⟩, each⟩ := passed
    rw [List.append_nil] at all
    subst all
    refine ⟨calls, fun p => ?_⟩
    obtain ⟨configured, unconfigured⟩ := each p
    exact ⟨fun hc => Prod.mk.inj (configured hc), fun hc => Prod.mk.inj (unconfigured hc)⟩
  · obtain ⟨done, all, called⟩ := kept
    obtain ⟨ident, health⟩ := Prod.mk.inj fresh
    have next : (done ++ [p]) ++ rest = positions := by rw [List.append_assoc]; exact all
    cases hc : s.config.get p with
    | none =>
      have skip := beginIdentification_unconfigured (p := p) (s := u) (by rw [called.config]; exact hc)
      rw [skip]
      refine ⟨⟨done ++ [p], next, ?_⟩, ⟨fun h => absurd rfl h, fun _ => fresh⟩, fun _ _ => rfl⟩
      have same : calls s (done ++ [p]) = calls s done := by
        unfold calls
        rw [List.filterMap_append]
        simp [hc]
      rw [same]
      exact called
    | some cfg =>
      have short : (calls s done).length + 1 ≤ 12 := by
        have bound := calls_length s done
        have total := congrArg List.length all
        rw [List.length_append, List.length_cons] at total
        have twelve : positions.length = 12 := rfl
        omega
      have begins := beginIdentification_calls (p := p) (cfg := cfg) (s := u) (by rw [called.config]; exact hc)
        (by unfold State.isLive at live ⊢; rw [called.mode]; exact live)
        (by rw [called.clc]; change (s.clc.queue ++ calls s done).length < 24; rw [List.length_append]; omega)
        (by rw [ident]; exact waits p)
      have only := recalled_onlyAt p u
      have own := recalled_ident p u
      have figures := recalled_health p u
      obtain ⟨silence, lineResets⟩ := recalled_counts p u
      have entry : freshEntry .identify p cfg u = freshEntry .identify p cfg s := by
        unfold freshEntry State.now
        rw [called.ctb]
      have more : s.clc.queue ++ calls s (done ++ [p]) = u.clc.queue ++ [freshEntry .identify p cfg u] := by
        have queue : u.clc.queue = s.clc.queue ++ calls s done := (congrArg LineController.queue called.clc :)
        rw [queue, entry, List.append_assoc]
        unfold calls
        rw [List.filterMap_append]
        simp [hc]
      rw [begins]
      refine ⟨⟨done ++ [p], next, ?_⟩, ⟨fun _ => ?_, fun h => absurd h nofun⟩, fun q hq => ?_⟩
      · rw [more]
        exact ⟨only.pending.trans called.pending, only.ctb.trans called.ctb, only.oc.trans called.oc, only.pt.trans called.pt,
          only.qw.trans called.qw, only.pm.trans called.pm, only.pl.trans called.pl, only.ps.trans called.ps,
          only.er.trans called.er, only.config.trans called.config, only.mode.trans called.mode,
          silence.trans called.silence, lineResets.trans called.lineResets, by
            unfold State.withQueue
            rw [only.clc, called.clc]⟩
      · rw [ident] at own
        rw [health] at figures
        exact Prod.ext own figures
      · exact Prod.ext (only.ident q hq) (only.health q hq)

/-! ### The roll call of any positions -/

theorem beginIdentification_others {p q : Pos} (hq : q ≠ p) (s : State) :
    { (beginIdentification p s).ident q with retry := none } = { s.ident q with retry := none } ∧
      (beginIdentification p s).health q = s.health q := by
  by_cases hc : s.config.get p = none
  · rw [beginIdentification_unconfigured hc]
    exact ⟨rfl, rfl⟩
  · have only := recalled_onlyAt p s
    have called : { (called p s).ident q with retry := none } = { s.ident q with retry := none } ∧
        (called p s).health q = s.health q := by
      unfold Identifications.called
      split
      · have road := road_leftIdentified (A := fun _ => True) (p := p) (s := recalled p s) trivial (fun _ _ _ _ => trivial)
        exact ⟨(road.ident q).trans (by rw [only.ident q hq]), (road.health q).trans (only.health q hq)⟩
      · exact ⟨by rw [only.ident q hq], only.health q hq⟩
    rw [beginIdentification_eq hc]
    exact ⟨(offerIdentify_ident p q _).trans called.1, (offerIdentify_health p q _).trans called.2⟩

theorem beginIdentification_line (p : Pos) (s : State) :
    (beginIdentification p s).clc.roundDeadline = s.clc.roundDeadline ∧ (beginIdentification p s).config = s.config := by
  by_cases hc : s.config.get p = none
  · rw [beginIdentification_unconfigured hc]
    exact ⟨rfl, rfl⟩
  · have only := recalled_onlyAt p s
    have called : (called p s).clc.roundDeadline = s.clc.roundDeadline ∧ (called p s).config = s.config := by
      unfold Identifications.called
      split
      · have road := road_leftIdentified (A := fun _ => True) (p := p) (s := recalled p s) trivial (fun _ _ _ _ => trivial)
        exact ⟨road.outcomes.roundDeadline.trans (by rw [only.clc]), road.config.trans only.config⟩
      · exact ⟨by rw [only.clc], only.config⟩
    rw [beginIdentification_eq hc]
    have offered := Offered.offerIdentify p (Identifications.called p s)
    exact ⟨offered.outcomes.roundDeadline.trans called.1, offered.config.trans called.2⟩

theorem rollCall_calls (s : State) :
    ((rollCall s).clc.roundDeadline = s.clc.roundDeadline ∧ (rollCall s).config = s.config) ∧
      ∀ p, (s.config.get p ≠ none → ((rollCall s).ident p).state = .probing ∧ ((rollCall s).health p).failures = 0) ∧
        (s.config.get p = none →
          { (rollCall s).ident p with retry := none } = { s.ident p with retry := none }) := by
  have passed := forPositions_each (f := beginIdentification) (s := s)
    (look := fun u p => (({ u.ident p with retry := none } : Ident), u.health p))
    (P := fun p x => (s.config.get p ≠ none → x.1.state = .probing ∧ x.2.failures = 0) ∧
      (s.config.get p = none → x.1 = { s.ident p with retry := none }))
    (K := fun _ u => u.clc.roundDeadline = s.clc.roundDeadline ∧ u.config = s.config) ⟨rfl, rfl⟩
    (fun p rest u kept fresh => ?_)
  · unfold rollCall
    dsimp only at passed
    exact passed
  · obtain ⟨deadline, config⟩ := beginIdentification_line p u
    refine ⟨⟨deadline.trans kept.1, config.trans kept.2⟩, ⟨fun hc => ?_, fun hc => ?_⟩, fun q hq => ?_⟩
    · obtain ⟨ident, health⟩ := beginIdentification_begun (p := p) (s := u) (by rw [kept.2]; exact hc)
      exact ⟨(congrArg Ident.state ident :), by rw [health]; rfl⟩
    · rw [beginIdentification_unconfigured (p := p) (s := u) (by rw [kept.2]; exact hc)]
      exact (Prod.mk.inj fresh).1
    · obtain ⟨ident, health⟩ := beginIdentification_others hq u
      exact Prod.ext ident health

/-! ### GO-LIVE (R174) -/

theorem anyConfigured_iff (s : State) : anyConfigured s = true ↔ ∃ p, s.config.get p ≠ none := by
  unfold anyConfigured
  rw [List.any_eq_true]
  exact ⟨fun ⟨p, _, h⟩ => ⟨p, Option.isSome_iff_ne_none.1 h⟩, fun ⟨p, h⟩ => ⟨p, mem_positions p, Option.isSome_iff_ne_none.2 h⟩⟩

theorem goLive_setup {n : Nat} {s : State} (setup : s.sli.mode = .setup) :
    goLive n s =
      if s.sli.draining then (s, .busy)
      else if ¬ anyConfigured s then (s, .wrongMode)
      else if ¬ inRange 5 20 n then (s, .badValue 0 1)
      else (goLiveNow n s, .done .none) := by
  have off : ¬ s.isLive = true := by
    rw [Offers.isLive_iff, setup]
    nofun
  unfold goLive
  exact if_neg off

/-- The part in LIVE, before the roll is called. -/
def wentLive (n : Nat) (s : State) : State :=
  let s : State := { s with sli := { s.sli with mode := .live } }
  { s with clc := { s.clc with
      pollRound := n, roundDeadline := later s.now n,
      due := Vector.ofFn (fun p => if pollEligible s p then some s.now else s.clc.due.get p) } }

theorem goLive_calls {n : Nat} {s : State} (ready : Ready s) (setup : s.sli.mode = .setup) (calm : s.sli.draining = false)
    (configured : ∃ p, s.config.get p ≠ none) (low : 5 ≤ n) (high : n ≤ 20) :
    ∃ t, exec (.goLive (.fields n)) s = .next t ∧ t.sli.mode = .live ∧ t.clc.pollRound = n ∧
      t.clc.roundDeadline = later s.now n ∧ t.sli.replySlot = some (.request .goLive (.done .none)) ∧
      (∀ p, s.config.get p ≠ none → (t.ident p).state = .probing ∧ (t.health p).failures = 0) ∧
      (∀ p, s.config.get p = none → { t.ident p with retry := none } = { s.ident p with retry := none }) ∧
      (s.clc.queue = [] → (∀ p, (s.ident p).state = .unknown) →
        t.clc.queue.map (fun e => (e.command, e.position)) =
          (positions.filter (fun p => (s.config.get p).isSome)).map (fun p => (LineCommand.identify, some p))) ∧
      t.ctb = s.ctb ∧ t.pl = s.pl ∧ t.config = s.config ∧ t.er = s.er ∧ t.oc.limits = s.oc.limits ∧
      t.pm.policy = s.pm.policy ∧ t.ps.image = s.ps.image := by
  have any : anyConfigured (frameTaken s) = true := (anyConfigured_iff (frameTaken s)).2 configured
  have taken : goLive n (frameTaken s) = (settleLine (rollCall (wentLive n (frameTaken s))), .done .none) := by
    rw [goLive_setup (n := n) (s := frameTaken s) setup, if_neg (by rw [show (frameTaken s).sli.draining = false from calm]; exact Bool.false_ne_true),
      if_neg (not_not_intro any), if_neg (not_not_intro ((inRange_iff 5 20 n).2 (by omega)))]
    rfl
  have run := onRequest_result (k := .goLive) ready taken
  have moves : Moves false true (wentLive n (frameTaken s)) (finish (rollCall (wentLive n (frameTaken s)))) :=
    Moves.finish (Moves.rollCall (.refl _))
  obtain ⟨⟨deadline, -⟩, each⟩ := rollCall_calls (wentLive n (frameTaken s))
  have stores := moves.leavesStores
  have settles := settles_finish (rollCall (wentLive n (frameTaken s)))
  have listed : s.clc.queue = [] → (∀ p, (s.ident p).state = .unknown) →
      (finish (rollCall (wentLive n (frameTaken s)))).clc.queue.map (fun e => (e.command, e.position)) =
        (positions.filter (fun p => (s.config.get p).isSome)).map (fun p => (LineCommand.identify, some p)) := by
    intro empty unknown
    have none : (wentLive n (frameTaken s)).clc.queue = [] := empty
    have waits (p : Pos) : ((wentLive n (frameTaken s)).ident p).state ≠ .identified := fun is =>
      absurd ((unknown p).symm.trans is) (by decide)
    obtain ⟨called, -⟩ := rollCall_waiting (s := wentLive n (frameTaken s)) rfl (by rw [none]; decide) waits
    have queue : (rollCall (wentLive n (frameTaken s))).clc.queue = calls (wentLive n (frameTaken s)) positions := by
      rw [called.clc]
      change (wentLive n (frameTaken s)).clc.queue ++ _ = _
      rw [none]
      rfl
    have entries := finish_entries (s := rollCall (wentLive n (frameTaken s))) (by
      rw [queue]
      intro y hy
      obtain ⟨p, cfg, -, rfl⟩ := mem_calls hy
      nofun)
    have pairs := congrArg (List.map (fun c : LineCommand × Option Pos × Nat × Option RouteRef × Time => (c.1, c.2.1))) entries
    rw [List.map_map, List.map_map, queue] at pairs
    exact pairs.trans (calls_positions _ positions)
  have live : (wentLive n (frameTaken s)).sli.mode = .live := rfl
  have mode := (congrArg Supervisory.mode stores.sli :).trans live
  generalize rollCall (wentLive n (frameTaken s)) = u at *
  refine ⟨_, congrArg Host.Outcome.next run, ?_, stores.pollRound,
    settles.roundDeadline.trans deadline, rfl, fun p hc => ?_, fun p hc => ?_, listed, stores.ctb, stores.pl, stores.config,
    moves.router, stores.limits, stores.policy, stores.image⟩
  · exact (settles_settleLine u).mode.trans (settles.mode.symm.trans mode)
  · obtain ⟨probing, failures⟩ := (each p).1 hc
    exact ⟨(congrArg Ident.state (finish_ident u p)).trans probing, (congrArg Health.failures (finish_health u p)).trans failures⟩
  · exact (congrArg (fun i : Ident => { i with retry := none }) (finish_ident u p)).trans ((each p).2 hc)

/-- Settles O50: the refusals in their order, then the roll call. -/
theorem goLiveCallsTheRoll : Obligations.GoLiveCallsTheRoll := by
  unfold Obligations.GoLiveCallsTheRoll
  intro n s ready setup
  have framed := goLive_setup (n := n) (s := frameTaken s) setup
  have draining : (frameTaken s).sli.draining = s.sli.draining := rfl
  have any : anyConfigured (frameTaken s) = true ↔ ∃ p, s.config.get p ≠ none := anyConfigured_iff (frameTaken s)
  refine ⟨fun busy => ?_, fun calm none => ?_, fun calm configured range => ?_,
    fun calm configured low high => goLive_calls ready setup calm configured low high⟩
  · refine congrArg Host.Outcome.next (onRequest_refused ready ?_)
    rw [framed, draining, if_pos busy]
  · refine congrArg Host.Outcome.next (onRequest_refused ready ?_)
    rw [framed, draining, if_neg (by rw [calm]; exact Bool.false_ne_true),
      if_pos (fun h => by obtain ⟨p, hp⟩ := any.1 h; exact hp (none p))]
  · refine congrArg Host.Outcome.next (onRequest_refused ready ?_)
    rw [framed, draining, if_neg (by rw [calm]; exact Bool.false_ne_true), if_neg (not_not_intro (any.2 configured)),
      if_pos (fun h => range (by have := (inRange_iff 5 20 n).1 h; omega))]

end Sys2Proof.Proofs.RollCall
end

section
/-! PROOF. The pool and the approach records once they are cleared: positions may leave IDENTIFIED, and they stay cleared (used by
O42 and O51). -/

open Sys2Proof Sys2Proof.Machine

namespace Sys2Proof.Proofs.Clearing

open Answers Roads Coordination StatusReplies Reports Identifications Forgetting

/-! ### The pool -/

/-- From `s` to `t` the links and the number of free records stand. -/
structure SamePool (s t : State) : Prop where
  free : t.pt.freeCount = s.pt.freeCount
  link : ∀ l, t.link l = s.link l

namespace SamePool

theorem rfl' (s : State) : SamePool s s := ⟨rfl, fun _ => rfl⟩

theorem trans {a b c : State} (h : SamePool a b) (g : SamePool b c) : SamePool a c :=
  ⟨g.free.trans h.free, fun l => (g.link l).trans (h.link l)⟩

theorem ofTracker {s t : State} (h : t.pt = s.pt) : SamePool s t :=
  ⟨congrArg Tracker.freeCount h, link_congr (congrArg Tracker.inboundLinks h) (congrArg Tracker.outboundLinks h)⟩

theorem emptyAccumulator (p : Pos) (s : State) : SamePool s (emptyAccumulator p s) := ⟨rfl, link_congr rfl rfl⟩

theorem emptyAccumulators (s : State) : SamePool s (emptyAccumulators s) := ⟨rfl, link_congr rfl rfl⟩

/-- Emptying a link that is empty frees nothing. -/
theorem emptyLink {l : Link} {s : State} (h : (s.link l).queue = []) : SamePool s (emptyLink l s) := by
  unfold Machine.emptyLink
  rw [h]
  refine ⟨State.withLink_free s l _, fun m => (State.withLink_link s l m _).trans ?_⟩
  split
  · next same =>
    subst same
    rw [← h]
  · rfl

end SamePool

/-- Every link is empty. -/
def Emptied (s : State) : Prop := ∀ l, (s.link l).queue = []

theorem Emptied.same {s t : State} (h : Emptied s) (same : SamePool s t) : Emptied t := fun l => by
  rw [same.link]
  exact h l

theorem linksDown_emptied {s : State} (p : Pos) (h : Emptied s) : SamePool s (linksDown p s) := by
  have down (ls : List Link) (u : State) (hu : Emptied u) : SamePool u (ls.foldl (fun s l => emptyLink l s) u) := by
    induction ls generalizing u with
    | nil => exact .rfl' u
    | cons l ls ih =>
      have one := SamePool.emptyLink (hu l)
      exact one.trans (ih _ (hu.same one))
  exact down _ s h

/-- A flush returns every record to the pool and leaves the links else as they are (R60). -/
theorem flushPool_pool (s : State) : (flushPool s).pt.freeCount = 64 ∧ ∀ l, (flushPool s).link l = { s.link l with queue := [] } := by
  have emptied (ls : List Link) (u : State) (m : Link) :
      (ls.foldl (fun s l => s.withLink l (fun r => { r with queue := [] })) u).link m =
        if m ∈ ls then { u.link m with queue := [] } else u.link m := by
    induction ls generalizing u with
    | nil => simp
    | cons l ls ih =>
      rw [List.foldl_cons, ih]
      simp only [State.withLink_link, List.mem_cons]
      by_cases hl : l = m
      · simp [hl]
      · simp [hl, Ne.symm hl]
  refine ⟨rfl, fun l => ?_⟩
  have all := emptied links s l
  rw [if_pos (mem_links l)] at all
  unfold flushPool
  generalize links.foldl (fun s l => s.withLink l (fun r => { r with queue := [] })) s = t at all
  rw [← all]
  exact link_congr rfl rfl l

/-! ### The approach records -/

theorem gridlock_qw (condition : GridlockCondition) (active : Gridlock → Bool) (old : Vector Gridlock 12) (s : State) :
    (noteGridlock condition active old s).qw = s.qw ∧ (noteGridlock condition active old s).pt = s.pt := by
  have pass (ps : List Pos) (u : State) :
      (ps.foldl (fun s p => if active (s.qw.gridlock.get p) = active (old.get p) then s
        else raiseNotice (.gridlockRisk p condition (active (s.qw.gridlock.get p)) (s.qw.overlays p)) s) u).qw = u.qw ∧
      (ps.foldl (fun s p => if active (s.qw.gridlock.get p) = active (old.get p) then s
        else raiseNotice (.gridlockRisk p condition (active (s.qw.gridlock.get p)) (s.qw.overlays p)) s) u).pt = u.pt := by
    induction ps generalizing u with
    | nil => exact ⟨rfl, rfl⟩
    | cons p ps ih =>
      obtain ⟨qw, pt⟩ := ih (if active (u.qw.gridlock.get p) = active (old.get p) then u
        else raiseNotice (.gridlockRisk p condition (active (u.qw.gridlock.get p)) (u.qw.overlays p)) u)
      refine ⟨qw.trans ?_, pt.trans ?_⟩ <;> split <;> rfl
  exact pass positions s

theorem settleGridlock_approaches (s : State) :
    (settleGridlock s).qw.approaches = s.qw.approaches ∧ (settleGridlock s).pt = s.pt := by
  unfold settleGridlock
  dsimp only
  exact ⟨by rw [(gridlock_qw _ _ _ _).1, (gridlock_qw _ _ _ _).1, (gridlock_qw _ _ _ _).1]; rfl,
    by rw [(gridlock_qw _ _ _ _).2, (gridlock_qw _ _ _ _).2, (gridlock_qw _ _ _ _).2]⟩

/-- No approach record has anything. -/
def Unheard (s : State) : Prop := ∀ p, s.qw.approaches.get p = Approaches.reset

theorem Unheard.ofWatch {s t : State} (h : Unheard s) (same : t.qw = s.qw) : Unheard t := fun p => by
  rw [same]
  exact h p

theorem approachesLost_pool (p : Pos) (s : State) : SamePool s (approachesLost p s) :=
  .ofTracker (settleGridlock_approaches _).2

theorem approachesLost_unheard {s : State} (p : Pos) (h : Unheard s) : Unheard (approachesLost p s) := fun q => by
  unfold approachesLost
  rw [(settleGridlock_approaches _).1]
  refine (get_update _ p q _).trans ?_
  split
  · rw [h p]
    rfl
  · exact h q

theorem Unheard.approach {s : State} (h : Unheard s) (p : Pos) (a : Approach) :
    s.approach p a = { state := .unknown, worst := .unknown, heard := none } := by
  unfold State.approach
  rw [h p]
  cases a <;> rfl

/-! ### Positions that leave IDENTIFIED (R13, R60, R63) -/

theorem lost_pool {s : State} (p : Pos) (h : Emptied s) : SamePool s (lost p s) :=
  ((linksDown_emptied p h).trans (.emptyAccumulator p _)).trans (approachesLost_pool p _)

theorem linksDown_only (p : Pos) (s : State) : Links.TrackerOnly s (linksDown p s) := by
  have down (ls : List Link) (u : State) : Links.TrackerOnly u (ls.foldl (fun s l => emptyLink l s) u) := by
    induction ls generalizing u with
    | nil => exact .rfl' u
    | cons l ls ih => exact ((Links.TrackerOnly.withLink u l _).trans (.freeRecords _ _)).trans (ih _)
  exact down _ s

theorem lost_unheard {s : State} (p : Pos) (h : Unheard s) : Unheard (lost p s) :=
  approachesLost_unheard p (h.ofWatch (linksDown_only p s).qw)

/-- The part of the report before the pool and the approach records. -/
theorem road_beforeLost (p : Pos) (s : State) :
    Road false (fun _ => True) releases s (standingLost p (unseen p s)) :=
  ((Road.withdraw _ s).trans (.coordUnseen trivial _)).trans
    (.standingLost trivial (fun _ _ _ _ => trivial) (.inr rfl) (.inl rfl))

theorem leftIdentified_pool {s : State} (p : Pos) (h : Emptied s) : SamePool s (leftIdentified p s) := by
  have before := SamePool.ofTracker ((road_beforeLost p s).pt rfl)
  rw [leftIdentified_eq]
  exact before.trans (lost_pool p (h.same before))

theorem leftIdentified_unheard {s : State} (p : Pos) (h : Unheard s) : Unheard (leftIdentified p s) := by
  rw [leftIdentified_eq]
  exact lost_unheard p (h.ofWatch ((road_beforeLost p s).qw rfl))

/-- A pass over the positions keeps what each of its steps keeps. -/
theorem forPositions_keeps {f : Pos → State → State} {K : State → Prop} (each : ∀ p u, K u → K (f p u)) {s : State} (h : K s) :
    K (forPositions f s) := by
  have pass (ps : List Pos) (u : State) (hu : K u) : K (ps.foldl (fun s p => f p s) u) := by
    induction ps generalizing u with
    | nil => exact hu
    | cons p ps ih => exact ih _ (each p u hu)
  exact pass positions s h

theorem withIdent_pool (s : State) (p : Pos) (f : Ident → Ident) : SamePool s (s.withIdent p f) := .ofTracker rfl

theorem forgetIdents_pool {s : State} (h : Emptied s) : SamePool s (forPositions forgetIdent s) := by
  refine forPositions_keeps (K := SamePool s) (fun p u same => ?_) (.rfl' s)
  have reset := same.trans (withIdent_pool u p (fun _ => Ident.reset))
  unfold forgetIdent
  dsimp only
  split
  · exact reset.trans (leftIdentified_pool p (h.same reset))
  · exact reset

theorem forgetIdents_unheard {s : State} (h : Unheard s) : Unheard (forPositions forgetIdent s) := by
  refine forPositions_keeps (K := Unheard) (fun p u unheard => ?_) h
  unfold forgetIdent
  dsimp only
  split
  · exact leftIdentified_unheard p unheard
  · exact unheard

theorem unseen_length (p : Pos) (s : State) : (unseen p s).clc.queue.length ≤ s.clc.queue.length := by
  have shorter : (withdrawTiming p (withdrawServiced p s)).clc.queue.length ≤ s.clc.queue.length :=
    (List.length_filter_le _ _).trans (List.length_filter_le _ _)
  unfold unseen coordUnseen
  dsimp only
  split <;> exact shorter

/-- Where no position has an owner, PM keeps what it has, and the queue grows no longer. -/
theorem forgetIdents_unowned {s : State} (h : ∀ p, s.owner p = .none) :
    (forPositions forgetIdent s).pm = s.pm ∧ (forPositions forgetIdent s).clc.queue.length ≤ s.clc.queue.length := by
  refine forPositions_keeps (K := fun u => u.pm = s.pm ∧ u.clc.queue.length ≤ s.clc.queue.length)
    (fun p u kept => ?_) ⟨rfl, le_rfl⟩
  obtain ⟨same, length⟩ := kept
  have owner (v : State) (hv : v.pm = s.pm) : v.owner p = .none := by
    unfold State.owner
    rw [hv]
    exact h p
  unfold forgetIdent
  dsimp only
  split
  · have unseen' : (unseen p (u.withIdent p (fun _ => Ident.reset))).pm = s.pm := (coordUnseen_pm p _).trans same
    rw [leftIdentified_eq, (beside_lost p _).pm, (beside_lost p _).clc, standingLost_none (owner _ unseen')]
    exact ⟨unseen', (unseen_length p (u.withIdent p (fun _ => Ident.reset))).trans length⟩
  · exact ⟨same, length⟩

end Sys2Proof.Proofs.Clearing
end

section
/-! PROOF. The line reset (O42). -/

open Sys2Proof Sys2Proof.Machine

namespace Sys2Proof.Proofs.LineResets

open Answers Roads Coordination StatusReplies RouteEnds Failures Reports Identifications Forgetting RollCall Clearing Exchanges

/-! ### The line is broken (R143) -/

/-- The line at a line reset: the queue and the schedule are cleared and the break begins. -/
def cut (s : State) : State :=
  let s := (lineResetNotice s).withQueue []
  { s with clc := ({ s.clc with due := Vector.replicate 12 none } : LineController).broken s.now }

/-- The line controller with its queue and its schedule cleared. -/
def clearedLine (s : State) : LineController := { s.clc with queue := [], due := Vector.replicate 12 none }

theorem cut_ih (s : State) : (cut s).ih = { s.ih with lineResets := saturate 255 (s.ih.lineResets + 1) } := rfl

theorem cut_clc (s : State) :
    (cut s).clc = (clearedLine s).broken s.now := rfl

theorem cut_keeps (s : State) :
    (cut s).ctb = s.ctb ∧ (cut s).oc = s.oc ∧ (cut s).pt = s.pt ∧ (cut s).pm = s.pm ∧ (cut s).ps = s.ps ∧
      (cut s).config = s.config ∧ (cut s).sli.mode = s.sli.mode :=
  have noticed := Links.TrackerOnly.raiseNotice
    (.lineReset s.ih.lastGood (servingPositions s) (saturate 255 (s.ih.lineResets + 1)))
    { s with ih := { s.ih with lineResets := saturate 255 (s.ih.lineResets + 1) } }
  ⟨rfl, rfl, rfl, rfl, rfl, rfl, noticed.mode⟩

theorem lineResetLine_eq (s : State) : lineResetLine (lineResetNotice s) = flushPool (priorityLineReset (cut s)) := rfl

/-- A broken line keeps its queue, its figures and its schedule. -/
theorem broken_rest (clc : LineController) (now : Time) :
    (clc.broken now).queue = clc.queue ∧ (clc.broken now).due = clc.due ∧
      (clc.broken now).roundDeadline = clc.roundDeadline ∧ (clc.broken now).summaries = clc.summaries ∧
      (clc.broken now).line ≠ .idle := by
  unfold LineController.broken
  split
  · next taken => exact ⟨rfl, rfl, rfl, rfl, by rw [taken]; nofun⟩
  · exact ⟨rfl, rfl, rfl, rfl, nofun⟩
  · next x taken =>
    split
    · exact ⟨rfl, rfl, rfl, rfl, nofun⟩
    · exact ⟨rfl, rfl, rfl, rfl, by rw [taken]; nofun⟩
    · exact ⟨rfl, rfl, rfl, rfl, nofun⟩

theorem broken_break {clc : LineController} {ends : Time} (h : clc.line = .lineBreak ends) (now : Time) : clc.broken now = clc := by
  unfold LineController.broken
  rw [h]

theorem broken_sending {clc : LineController} {x : Exchange} (h : clc.line = .exchange x)
    (phase : x.phase = .sending ∨ x.phase = .abandoned) (now : Time) :
    (clc.broken now).line = .exchange { x with phase := .abandoned } ∧ (clc.broken now).driverEnable = clc.driverEnable ∧
      (clc.broken now).txLevel = clc.txLevel := by
  unfold LineController.broken
  rw [h]
  rcases phase with sending | abandoned
  · simp [sending]
  · simp only [abandoned]
    refine ⟨h.trans ?_, trivial, trivial⟩
    rw [← abandoned]

theorem broken_other {clc : LineController} (noBreak : ∀ ends, clc.line ≠ .lineBreak ends)
    (unsent : ∀ x, clc.line = .exchange x → x.phase ≠ .sending ∧ x.phase ≠ .abandoned) (now : Time) :
    clc.broken now = clc.breaking now := by
  unfold LineController.broken
  split
  · next ends taken => exact absurd taken (noBreak ends)
  · rfl
  · next x taken =>
    obtain ⟨sending, abandoned⟩ := unsent x taken
    split
    · next is => exact absurd is sending
    · next is => exact absurd is abandoned
    · rfl

/-! ### PM at a line reset (R101) -/

/-- Every position is without an owner, and what is offered to them is RUN-LOCAL. -/
structure Freed (s t : State) : Prop where
  road : Road false (fun _ => True) (· = .runLocal) (s.withRoutes (fun _ => [])) t
  routes : t.pm.routes = []
  owner : ∀ p, t.owner p = .none
  length : t.clc.queue.length ≤ s.clc.queue.length + 12

theorem priorityLineReset_freed (s : State) : Freed s (priorityLineReset s) := by
  have passed := forPositions_each (f := fun p s => setOwner p .none s) (s := s.withRoutes (fun _ => []))
    (look := fun u p => u.owner p) (P := fun _ o => o = .none)
    (K := fun rest u => Road false (fun _ => True) (· = .runLocal) (s.withRoutes (fun _ => [])) u ∧ u.pm.routes = [] ∧
      u.clc.queue.length + rest.length ≤ s.clc.queue.length + 12) ⟨.rfl' _, rfl, le_rfl⟩
    (fun p rest u kept _ => ?_)
  · dsimp only [List.length_nil, Nat.add_zero] at passed
    obtain ⟨⟨road, routes, length⟩, owner⟩ := passed
    unfold priorityLineReset
    exact ⟨road, routes, owner, length⟩
  · obtain ⟨road, routes, length⟩ := kept
    have one := (Keeps.setOwner (P := fun _ => False) p .none u nofun nofun).length
    rw [List.length_cons] at length
    exact ⟨⟨road.trans (Road.setOwner (C := (· = .runLocal)) trivial (fun _ => rfl) u), (setOwner_routes p .none u).trans routes, by omega⟩,
      (setOwner_owner p p .none u).trans (if_pos rfl), fun q hq => (setOwner_owner p q .none u).trans (if_neg (Ne.symm hq))⟩

/-! ### Everything starts again (R157) -/

theorem Beside.flushPool (s : State) : Beside s (flushPool s) := by
  obtain ⟨pt, same⟩ := flushPool_eq s
  rw [same]
  exact .ofTracker (.ofTracker s pt)

/-- What a line reset leaves before the roll call. -/
structure Restarted (s t : State) : Prop where
  ctb : t.ctb = s.ctb
  config : t.config = s.config
  mode : t.sli.mode = s.sli.mode
  ps : t.ps = s.ps
  lineResets : t.ih.lineResets = min 255 (s.ih.lineResets + 1)
  silence : t.ih.silence = none
  ident : ∀ p, t.ident p = Ident.reset
  health : ∀ p, t.health p = Health.reset
  trim : ∀ p, (t.coord p).trim = (s.coord p).trim
  routes : t.pm.routes = []
  owner : ∀ p, t.owner p = .none
  budget : ∀ p, t.budget p = s.budget p
  free : t.pt.freeCount = 64
  link : ∀ l, t.link l = { s.link l with queue := [] }
  line : t.clc.line = (cut s).clc.line
  driverEnable : t.clc.driverEnable = (cut s).clc.driverEnable
  txLevel : t.clc.txLevel = (cut s).clc.txLevel
  due : ∀ p, t.clc.due.get p = none
  roundDeadline : t.clc.roundDeadline = s.clc.roundDeadline
  summaries : t.clc.summaries = s.clc.summaries
  queue : ∀ e ∈ t.clc.queue, e.command = .runLocal ∧ e.joined = s.now ∧ e.attempts = 0 ∧ e.onLine = false
  length : t.clc.queue.length ≤ 12

theorem lineReset_restarts (s : State) : Restarted s (forgetAll (lineResetLine (lineResetNotice s))) := by
  have freed := priorityLineReset_freed (cut s)
  obtain ⟨ctb, oc, pt, -, ps, config, mode⟩ := cut_keeps s
  have ih := cut_ih s
  have budgets : (cut s).pm.budgets = s.pm.budgets := rfl
  obtain ⟨queue, due, deadline, summaries, -⟩ := broken_rest (clearedLine s) s.now
  rw [← cut_clc] at queue due deadline summaries
  rw [lineResetLine_eq]
  generalize broken : cut s = c at *
  have beside := Beside.flushPool (priorityLineReset c)
  obtain ⟨free, link⟩ := flushPool_pool (priorityLineReset c)
  generalize flushPool (priorityLineReset c) = f at *
  have unowned (p : Pos) : f.owner p = .none := by
    unfold State.owner
    rw [beside.pm]
    exact freed.owner p
  obtain ⟨⟨-, forgets, members⟩, ident⟩ := forgetIdents_quiet (.inr unowned)
  obtain ⟨pm, length⟩ := forgetIdents_unowned unowned
  have pool := forgetIdents_pool (s := f) (fun l => by rw [link])
  have wide : Road true (fun _ => True) releases (c.withRoutes (fun _ => [])) f :=
    ((freed.road.mono (fun _ h => h) (fun _ h => .inl h)).widen).trans beside.road
  obtain ⟨v, road⟩ := (Forgets.ofRoad wide).trans forgets
  have offered : ∀ e ∈ (priorityLineReset c).clc.queue,
      e.command = .runLocal ∧ e.joined = s.now ∧ e.attempts = 0 ∧ e.onLine = false := fun e he => by
    rcases freed.road.queue e he with old | ⟨command, joined, attempts, off, -⟩
    · rw [show (c.withRoutes (fun _ => [])).clc.queue = [] from queue] at old
      exact absurd old List.not_mem_nil
    · exact ⟨command, joined.trans (congrArg TimeBase.runningTime ctb), attempts, off⟩
  have short := freed.length
  have linked (l : Link) : (priorityLineReset c).link l = s.link l :=
    (SamePool.ofTracker ((freed.road.pt rfl).trans pt)).link l
  rw [queue] at short
  rw [beside.clc] at members length
  unfold forgetAll
  dsimp only
  generalize forPositions forgetIdent f = u at *
  have outcomes := road.outcomes
  exact {
    ctb := road.ctb.trans ctb
    config := road.config.trans config
    mode := road.mode.trans mode
    ps := road.ps.trans ps
    lineResets := outcomes.lineResets.trans ((congrArg Machine.Identification.lineResets ih).trans (saturate_eq_min _ _))
    silence := rfl
    ident := ident
    health := fun p => get_replicate Health.reset p
    trim := fun p => (road.trim p).trans (congrArg (fun oc : Coordinator => (oc.positions.get p).trim) oc)
    routes := (congrArg Priority.routes pm).trans ((congrArg Priority.routes beside.pm).trans freed.routes)
    owner := fun p => (congrArg (fun pm : Priority => pm.owners.get p) pm).trans (unowned p)
    budget := fun p => (road.budget p).trans (congrArg (fun v : Vector Nat 12 => v.get p) budgets)
    free := pool.free.trans free
    link := fun l => (pool.link l).trans ((link l).trans (by rw [linked]))
    line := by
      rw [broken]
      exact outcomes.line
    driverEnable := by
      rw [broken]
      exact outcomes.driverEnable
    txLevel := by
      rw [broken]
      exact outcomes.txLevel
    due := fun p => (congrArg (fun v : Vector (Option Time) 12 => v.get p) (outcomes.due.trans due)).trans (get_replicate none p)
    roundDeadline := outcomes.roundDeadline.trans deadline
    summaries := outcomes.summaries.trans summaries
    queue := fun e he => offered e (members e he)
    length := length.trans short }

/-- What a line reset leaves, the roll call included: the positions called are the configured ones, in LIVE only. -/
structure Recalled (s t : State) : Prop where
  ps : t.ps = s.ps
  lineResets : t.ih.lineResets = min 255 (s.ih.lineResets + 1)
  ident : ∀ p, (t.ident p).state = if s.sli.mode = .live ∧ s.config.get p ≠ none then .probing else .unknown
  health : ∀ p, t.health p = Health.reset
  trim : ∀ p, (t.coord p).trim = (s.coord p).trim
  routes : t.pm.routes = []
  owner : ∀ p, t.owner p = .none
  budget : ∀ p, t.budget p = s.budget p
  free : t.pt.freeCount = 64
  link : ∀ l, t.link l = { s.link l with queue := [] }
  line : t.clc.line = (cut s).clc.line
  driverEnable : t.clc.driverEnable = (cut s).clc.driverEnable
  txLevel : t.clc.txLevel = (cut s).clc.txLevel
  due : ∀ p, t.clc.due.get p = none
  roundDeadline : t.clc.roundDeadline = s.clc.roundDeadline
  summaries : t.clc.summaries = s.clc.summaries
  queue : ∀ e ∈ t.clc.queue, (e.command = .identify ∨ e.command = .runLocal) ∧ e.joined = s.now ∧ e.attempts = 0 ∧
    e.onLine = false
  called : (t.clc.queue.filter (fun e => e.command == .identify)).map QueueEntry.position =
    if s.sli.mode = .live then (positions.filter (fun p => (s.config.get p).isSome)).map some else []

theorem filter_identify_none {q : List QueueEntry} (h : ∀ e ∈ q, e.command = .runLocal) :
    q.filter (fun e => e.command == .identify) = [] :=
  List.filter_eq_nil_iff.2 (fun e he => by rw [h e he]; decide)

theorem filter_identify_calls (s : State) (l : List Pos) :
    ((calls s l).filter (fun e => e.command == .identify)).map QueueEntry.position =
      (l.filter (fun p => (s.config.get p).isSome)).map some := by
  have all : (calls s l).filter (fun e => e.command == .identify) = calls s l :=
    List.filter_eq_self.2 (fun e he => by obtain ⟨p, cfg, -, rfl⟩ := mem_calls he; rfl)
  have pairs := congrArg (List.map Prod.snd) (calls_positions s l)
  rw [List.map_map, List.map_map] at pairs
  rw [all]
  exact pairs

theorem lineReset_recalls (s : State) : Recalled s (lineReset s) := by
  have h := lineReset_restarts s
  unfold lineReset
  dsimp only
  generalize forgetAll (lineResetLine (lineResetNotice s)) = r at *
  have unknown (p : Pos) : (r.ident p).state = .unknown := by rw [h.ident]; rfl
  have owned : ∀ e ∈ r.clc.queue, (e.command = .identify ∨ e.command = .runLocal) ∧ e.joined = s.now ∧ e.attempts = 0 ∧
      e.onLine = false := fun e he => by
    obtain ⟨command, rest⟩ := h.queue e he
    exact ⟨.inr command, rest⟩
  have plain := filter_identify_none (fun e he => (h.queue e he).1)
  by_cases live : s.sli.mode = .live
  · have live' : r.isLive = true := (Offers.isLive_iff r).2 (h.mode.trans live)
    obtain ⟨calls', each⟩ := rollCall_waiting (s := r) live' (by have := h.length; omega)
      (fun p is => absurd ((unknown p).symm.trans is) (by decide))
    rw [if_pos live']
    generalize rollCall r = t at *
    have clc := calls'.clc
    exact {
      ps := calls'.ps.trans h.ps
      lineResets := calls'.lineResets.trans h.lineResets
      ident := fun p => by
        obtain ⟨configured, unconfigured⟩ := each p
        rw [h.config] at configured unconfigured
        by_cases hc : s.config.get p = none
        · rw [if_neg (fun both => both.2 hc), (unconfigured hc).1]
          exact unknown p
        · rw [if_pos ⟨live, hc⟩, (configured hc).1]
          rfl
      health := fun p => by
        obtain ⟨configured, unconfigured⟩ := each p
        by_cases hc : r.config.get p = none
        · exact (unconfigured hc).2.trans (h.health p)
        · rw [(configured hc).2, h.health p]
          rfl
      trim := fun p => (congrArg (fun oc : Coordinator => (oc.positions.get p).trim) calls'.oc).trans (h.trim p)
      routes := (congrArg Priority.routes calls'.pm).trans h.routes
      owner := fun p => (congrArg (fun pm : Priority => pm.owners.get p) calls'.pm).trans (h.owner p)
      budget := fun p => (congrArg (fun pm : Priority => pm.budgets.get p) calls'.pm).trans (h.budget p)
      free := (congrArg Tracker.freeCount calls'.pt).trans h.free
      link := fun l => ((SamePool.ofTracker calls'.pt).link l).trans (h.link l)
      line := by rw [clc]; exact h.line
      driverEnable := by rw [clc]; exact h.driverEnable
      txLevel := by rw [clc]; exact h.txLevel
      due := fun p => by rw [clc]; exact h.due p
      roundDeadline := by rw [clc]; exact h.roundDeadline
      summaries := by rw [clc]; exact h.summaries
      queue := fun e he => by
        rw [clc] at he
        rcases List.mem_append.1 he with old | new
        · exact owned e old
        · obtain ⟨p, cfg, -, rfl⟩ := mem_calls new
          exact ⟨.inl rfl, congrArg TimeBase.runningTime h.ctb, rfl, rfl⟩
      called := by
        rw [clc, if_pos live, List.filter_append, plain, ← h.config]
        exact filter_identify_calls r positions }
  · have off : ¬ r.isLive = true := fun is => live (h.mode.symm.trans ((Offers.isLive_iff r).1 is))
    rw [if_neg off]
    exact {
      ps := h.ps
      lineResets := h.lineResets
      ident := fun p => by rw [if_neg (fun both => live both.1)]; exact unknown p
      health := h.health
      trim := h.trim
      routes := h.routes
      owner := h.owner
      budget := h.budget
      free := h.free
      link := h.link
      line := h.line
      driverEnable := h.driverEnable
      txLevel := h.txLevel
      due := h.due
      roundDeadline := h.roundDeadline
      summaries := h.summaries
      queue := owned
      called := by rw [plain, if_neg live]; rfl }

/-! ### The end of the handling -/

theorem arbiterRun_ih (s : State) : (arbiterRun s).ih = s.ih := by
  unfold arbiterRun
  split
  · split
    · rfl
    · unfold beginPoll
      dsimp only
      split <;> rfl
    · rfl
  · rfl

theorem finish_ih (s : State) : (finish s).ih = (followSilence (dropDue (dropBeacon s))).ih := arbiterRun_ih _

/-- Where no position serves, no silence deadline stands at the end of a handling (R156). -/
theorem finish_silence_none {s : State} (h : ∀ p, (s.ident p).state ≠ .identified) : (finish s).ih.silence = none := by
  have idents : (dropDue (dropBeacon s)).ih = s.ih := by
    unfold dropDue dropBeacon
    split <;> rfl
  have quiet : silenceCondition (dropDue (dropBeacon s)) = false := by
    have serves (p : Pos) : serving (dropDue (dropBeacon s)) p = false := by
      unfold serving
      rw [ident_of_table (congrArg Machine.Identification.ident idents)]
      simp [h p]
    unfold silenceCondition
    simp [serves]
  rw [finish_ih]
  unfold followSilence
  rw [quiet]
  rfl

theorem dropBeacon_absent {s : State} (h : ∀ e ∈ s.clc.queue, e.command ≠ .beacon) : dropBeacon s = s := by
  unfold dropBeacon
  split
  · rfl
  · have all : s.clc.queue.filter (fun e => !(e.command == LineCommand.beacon)) = s.clc.queue :=
      List.filter_eq_self.2 (fun e he => by simp [h e he])
    exact congrArg s.withQueue all

/-- Settles O42: the two passes of R157 step 2, then everything UNKNOWN, then the roll call; the line stays taken. -/
theorem lineResetStartsAgain : Obligations.LineResetStartsAgain := by
  unfold Obligations.LineResetStartsAgain
  refine ⟨fun s due => ?_, fun x s line phase => ?_⟩
  · have h := lineReset_recalls s
    have run : silenceEvent s = finish (lineReset s) := whenDue_due (by rw [due]; exact expires_now s)
    have moves : Moves false true s (silenceEvent s) := Moves.silenceEvent (.refl s)
    have settles := settles_finish (lineReset s)
    have waiting (p : Pos) : ((lineReset s).ident p).state ≠ .identified := by
      rw [h.ident]
      split <;> decide
    have silence := finish_silence_none waiting
    have noBeacon := dropBeacon_absent (s := lineReset s) (fun e he is => by
      obtain ⟨command, -⟩ := h.queue e he
      rcases command with command | command <;> exact absurd (command.symm.trans is) (by decide))
    obtain ⟨-, -, -, -, taken⟩ := broken_rest (clearedLine s) s.now
    rw [← cut_clc, ← h.line] at taken
    obtain ⟨line, driver, level, queue, undue⟩ := finish_lineTaken taken
    rw [noBeacon] at queue
    have stores := moves.leavesStores
    have router := moves.router
    rw [run] at stores router
    refine ⟨finish (lineReset s), congrArg Host.Outcome.next run, ?_⟩
    generalize lineReset s = u at *
    rw [queue]
    refine ⟨settles.lineResets.trans h.lineResets, silence, (congrArg Priority.routes settles.pm).trans h.routes,
      fun p => (finish_owner u p).trans (h.owner p), fun p => (finish_budget u p).trans (h.budget p),
      (congrArg Tracker.freeCount settles.pt).trans h.free, fun l => ((SamePool.ofTracker settles.pt).link l).trans (h.link l),
      settles.ps.trans h.ps, fun p => ?_, h.queue, h.called, fun ends is => ?_, fun x is phase => ?_,
      fun noBreak unsent => ?_, settles.roundDeadline.trans h.roundDeadline, settles.summaries.trans h.summaries,
      fun p => (congrArg Ident.state (finish_ident u p)).trans (h.ident p),
      fun p => (finish_health u p).trans (h.health p), fun p => (congrArg Coord.trim (finish_coord u p)).trans (h.trim p),
      router, stores⟩
    · rw [undue p, h.due p, ite_self]
    · rw [line, h.line, cut_clc, broken_break (clc := clearedLine s) is]
      rfl
    · rw [line, h.line, driver, h.driverEnable, level, h.txLevel, cut_clc]
      exact broken_sending (clc := clearedLine s) is phase s.now
    · rw [line, h.line, driver, h.driverEnable, level, h.txLevel, cut_clc, broken_other (clc := clearedLine s) noBreak unsent]
      exact ⟨rfl, rfl, rfl⟩
  · have sent : onExchange frameSent s = frameSent x s := by
      unfold onExchange
      rw [line]
    refine congrArg Host.Outcome.next (sent.trans ?_)
    unfold frameSent
    rw [phase]
    rfl

end Sys2Proof.Proofs.LineResets
end

section
/-! PROOF. The release of every owner (R101) and COORD-RESTART (O52). -/

open Sys2Proof Sys2Proof.Machine

namespace Sys2Proof.Proofs.Restarts

open Settings Answers Roads Coordination StatusReplies RouteEnds Exchanges Failures Reports Identifications Forgetting RollCall
  Clearing LineResets

/-! ### Releasing -/

/-- A step of a release: the queue or the route table changes, a position loses its owner, or a notice is raised. -/
inductive Release : State → State → Prop
  | offered {s t : State} (h : Offered s t) : Release s t
  | routes (s : State) (f : List Route → List Route) : Release s (s.withRoutes f)
  | freed (q : Pos) (s : State) : Release s (setOwner q .none s)
  | noted (body : NoticeBody) (s : State) : Release s (raiseNotice body s)

/-- From `s` to `t` by the steps of a release. -/
def Releases : State → State → Prop := Relation.ReflTransGen Release

namespace Releases

theorem rfl' (s : State) : Releases s s := Relation.ReflTransGen.refl

theorem trans {a b c : State} (h : Releases a b) (g : Releases b c) : Releases a c := Relation.ReflTransGen.trans h g

theorem step {s t : State} (h : Release s t) : Releases s t := Relation.ReflTransGen.single h

theorem withdraw (w : QueueEntry → Bool) (s : State) : Releases s (withdraw w s) := .step (.offered (.withdraw w s))

theorem setOwner_none (p : Pos) (s : State) : Releases s (setOwner p .none s) := .step (.freed p s)

theorem sendEnd (p : Pos) (ref : RouteRef) (s : State) : Releases s (sendEnd p ref s).1 := by
  have sent : Releases s (offerTo .routeEnd p (some ref) (withdrawClear p s)).1 :=
    .step (.offered ((Offered.withdraw _ s).trans (.offerTo _ _ _ _)))
  unfold Machine.sendEnd
  dsimp only
  split
  · exact sent
  · unfold handBack
    split
    · exact sent.trans (setOwner_none p _)
    · exact sent

theorem endMember (ref : RouteRef) (acc : State × List Pos) (m : Member) : Releases acc.1 (endMember ref acc m).1 := by
  unfold Machine.endMember
  dsimp only
  split
  · exact (withdraw _ _).trans (setOwner_none _ _)
  · exact sendEnd _ ref acc.1

theorem endMembers (ref : RouteRef) (members : List Member) (acc : State × List Pos) :
    Releases acc.1 (members.foldl (Machine.endMember ref) acc).1 := by
  induction members generalizing acc with
  | nil => exact rfl' _
  | cons m members ih => exact (endMember ref acc m).trans (ih _)

theorem endRouteFrom (p : Pos) (s : State) : Releases s (endRouteFrom p s).1 := by
  unfold Machine.endRouteFrom
  split
  · exact rfl' s
  · next r _ =>
    exact (step (.routes s (fun rs => rs.filter (fun x => x.ref.origin != r.ref.origin)))).trans
      (endMembers r.ref r.members (_, []))

theorem standingLost (p : Pos) (s : State) : Releases s (standingLost p s) := by
  unfold Machine.standingLost
  split
  · exact rfl' s
  · exact ((endRouteFrom p s).trans (setOwner_none p _)).trans (step (.noted _ _))
  · exact (((step (.routes s _)).trans (withdraw _ _)).trans (withdraw _ _)).trans (setOwner_none p _)

theorem endAllRoutes (s : State) : Releases s (endAllRoutes s) :=
  forPositions_keeps (K := Releases s) (fun p _ h => h.trans (endRouteFrom p _)) (rfl' s)

theorem owner {s t : State} (h : Releases s t) (p : Pos) : t.owner p = s.owner p ∨ t.owner p = .none := by
  refine Relation.ReflTransGen.head_induction_on h (.inl rfl) (fun {a c} one _ ih => ?_)
  suffices same : c.owner p = a.owner p ∨ c.owner p = .none by
    rcases ih with kept | gone
    · rw [kept]
      exact same
    · exact .inr gone
  cases one with
  | offered o => exact .inl (congrArg (fun pm : Priority => pm.owners.get p) o.pm)
  | routes f => exact .inl rfl
  | noted body => exact .inl rfl
  | freed q =>
    rw [setOwner_owner]
    split
    · exact .inr rfl
    · exact .inl rfl

/-- A position that is not PREEMPTED keeps its record. -/
theorem coord {s t : State} (h : Releases s t) {p : Pos} (state : (s.coord p).state ≠ .preempted) : t.coord p = s.coord p := by
  refine Relation.ReflTransGen.trans_induction_on (motive := fun {a b} _ => (a.coord p).state ≠ .preempted → b.coord p = a.coord p)
    h (fun _ _ => rfl) (fun {a c} one state => ?_) (fun _ _ first second state => ?_) state
  · cases one with
    | offered o => exact congrArg (fun oc : Coordinator => oc.positions.get p) o.oc
    | routes f => rfl
    | noted body => rfl
    | freed q =>
      by_cases hq : p = q
      · subst hq
        have own : ((withOwner p .none a).coord p).state ≠ .preempted := state
        by_cases owned : a.owner p = .none
        · rw [setOwner_same (by simp [owned])]
          rfl
        · rw [Roads.setOwner_none owned, ownerReturned_unpreempted own]
          rfl
      · exact (Road.setOwner (wide := false) (A := (· = q)) (C := fun _ => True) rfl (fun _ => trivial) a).coord p hq
  · have kept := first state
    exact (second (by rw [kept]; exact state)).trans kept

/-- A position that has an owner keeps it and its record, or has been returned. -/
theorem returning {s t : State} (h : Releases s t) {p : Pos} (owned : s.owner p ≠ .none) : Returning p s t := by
  refine Relation.ReflTransGen.trans_induction_on (motive := fun {a b} _ => Returning p s a → Returning p s b)
    h (fun _ r => r) (fun {a c} one r => ?_) (fun _ _ first second r => second (first r)) (.start owned)
  cases one with
  | offered o => exact r.ofOffered o
  | routes f => exact r.same rfl rfl rfl rfl
  | noted body => exact r.same rfl rfl rfl rfl
  | freed q => exact r.setOwner_none q

end Releases

/-- What the release of every route and every local call leaves (R101). -/
structure Released (s t : State) : Prop where
  steps : Releases s t
  road : Road false (fun _ => True) releases s t
  routes : t.pm.routes = []
  uncalled : ∀ p d, t.owner p ≠ .localCall d
  answers : ∀ e ∈ t.clc.queue, e.command.isPriorityAnswer = false

theorem endAllRoutes_routes (s : State) : (endAllRoutes s).pm.routes = [] := by
  have left : ∀ (ps : List Pos) (u : State),
      (ps.foldl (fun s p => (endRouteFrom p s).1) u).pm.routes =
        u.pm.routes.filter (fun r => ps.all (fun p => r.ref.origin != p)) := by
    intro ps
    induction ps with
    | nil => intro u; simp
    | cons p ps ih =>
      intro u
      rw [List.foldl_cons, ih, endRouteFrom_routes, List.filter_filter]
      refine List.filter_congr (fun r _ => ?_)
      rw [List.all_cons, Bool.and_comm]
  unfold endAllRoutes forPositions
  rw [left]
  refine List.filter_eq_nil_iff.2 (fun r _ all => ?_)
  have own := List.all_eq_true.1 all _ (mem_positions r.ref.origin)
  simp at own

theorem endAllRoutes_road (s : State) : Road false (fun _ => True) releases s (endAllRoutes s) :=
  forPositions_keeps (K := Road false (fun _ => True) releases s)
    (fun _ _ h => h.trans (.endRouteFrom (fun _ _ _ _ => trivial) (.inr rfl) (.inl rfl))) (.rfl' s)

theorem releasePriority_released (s : State) : Released s (releasePriority s) := by
  have passed := forPositions_each (f := fun p s => if locallyCalled s p then setOwner p .none s else s) (s := endAllRoutes s)
    (look := fun u p => u.owner p) (P := fun _ o => ∀ d, o ≠ .localCall d)
    (K := fun _ u => Releases s u ∧ Road false (fun _ => True) releases s u ∧ u.pm.routes = [])
    ⟨.endAllRoutes s, endAllRoutes_road s, endAllRoutes_routes s⟩ (fun p rest u kept _ => ?_)
  · unfold releasePriority
    dsimp only
    generalize forPositions (fun p s => if locallyCalled s p then setOwner p .none s else s) (endAllRoutes s) = u at *
    obtain ⟨⟨done, road, routes⟩, uncalled⟩ := passed
    refine ⟨done.trans (.withdraw _ u), road.trans (.withdraw _ u), routes, uncalled, fun e he => ?_⟩
    simpa using (List.mem_filter.1 he).2
  · obtain ⟨done, road, routes⟩ := kept
    by_cases called : locallyCalled u p = true
    · rw [if_pos called]
      exact ⟨⟨done.trans (.setOwner_none p u), road.trans (.setOwner trivial (fun _ => .inl rfl) u),
        (setOwner_routes p .none u).trans routes⟩, fun d is => by
          rw [setOwner_owner, if_pos rfl] at is
          exact absurd is nofun, fun q hq => (setOwner_owner p q .none u).trans (if_neg (Ne.symm hq))⟩
    · rw [if_neg called]
      refine ⟨⟨done, road, routes⟩, fun d is => called ?_, fun _ _ => rfl⟩
      unfold locallyCalled
      rw [is]

/-! ### COORD-RESTART at the positions (R41) -/

/-- From `s` to `t` nothing but coordination records, the queue and the notices differs. -/
structure Recoordinated (s t : State) : Prop where
  pending : t.pending = s.pending
  ctb : t.ctb = s.ctb
  limits : t.oc.limits = s.oc.limits
  pt : t.pt = s.pt
  qw : t.qw = s.qw
  pm : t.pm = s.pm
  pl : t.pl = s.pl
  ps : t.ps = s.ps
  ih : t.ih = s.ih
  er : t.er = s.er
  config : t.config = s.config
  sli : { t.sli with notices := [], overrun := 0 } = { s.sli with notices := [], overrun := 0 }

namespace Recoordinated

theorem rfl' (s : State) : Recoordinated s s := by constructor <;> rfl

theorem trans {a b c : State} (h : Recoordinated a b) (g : Recoordinated b c) : Recoordinated a c :=
  ⟨g.pending.trans h.pending, g.ctb.trans h.ctb, g.limits.trans h.limits, g.pt.trans h.pt, g.qw.trans h.qw,
    g.pm.trans h.pm, g.pl.trans h.pl, g.ps.trans h.ps, g.ih.trans h.ih, g.er.trans h.er, g.config.trans h.config,
    g.sli.trans h.sli⟩

theorem withdraw (w : QueueEntry → Bool) (s : State) : Recoordinated s (withdraw w s) := by constructor <;> rfl

theorem withCoord (p : Pos) (f : Coord → Coord) (s : State) : Recoordinated s (s.withCoord p f) := by constructor <;> rfl

theorem notePosition (p : Pos) (s : State) : Recoordinated s (notePosition p s) := by
  constructor <;> first | rfl | exact Links.raiseNotice_sli _ s

end Recoordinated

/-- What COORD-RESTART makes of a coordination record, with the target that its state gives. -/
def restartedCoord (c : Coord) (target : Option Target) : Coord :=
  let c := { c with trim := 0, target := target }
  if steered c.state then { c.unsteered (.seeking .lengthen) with refusals := 0 } else c

theorem restartedCoord_unsteered {c : Coord} (h : steered c.state = false) (target : Option Target) :
    restartedCoord c target = { c with trim := 0, target := target } := if_neg (by simp [h])

theorem restartedCoord_steered {c : Coord} (h : steered c.state = true) (target : Option Target) :
    restartedCoord c target =
      { c with trim := 0, target := target, state := .seeking .lengthen, measured := none, settle := none, grant := none,
               refusals := 0 } := if_pos h

theorem restartedCoord_trim (c : Coord) (target : Option Target) : (restartedCoord c target).trim = 0 := by
  unfold restartedCoord
  dsimp only
  split <;> rfl

theorem restartedCoord_unpreempted {c : Coord} (h : c.state ≠ .preempted) (target : Option Target) :
    (restartedCoord c target).state ≠ .preempted := by
  by_cases steer : steered c.state = true
  · rw [restartedCoord_steered steer]
    nofun
  · rw [restartedCoord_unsteered (by simpa using steer)]
    exact h

theorem coordRestartAt_only (p : Pos) (s : State) :
    Recoordinated s (coordRestartAt p s) ∧ (∃ target, (coordRestartAt p s).coord p = restartedCoord (s.coord p) target) ∧
      ∀ q, q ≠ p → (coordRestartAt p s).coord q = s.coord q := by
  have zeroed : Recoordinated s (setTarget p (s.withCoord p (fun c => { c with trim := 0 }))) :=
    (Recoordinated.withCoord p _ s).trans (.withCoord p _ _)
  have own : ∃ target, (setTarget p (s.withCoord p (fun c => { c with trim := 0 }))).coord p =
      { s.coord p with trim := 0, target := target } :=
    ⟨_, (setTarget_coord p _).trans (by rw [State.withCoord_coord, if_pos rfl])⟩
  have others (q : Pos) (hq : q ≠ p) : (setTarget p (s.withCoord p (fun c => { c with trim := 0 }))).coord q = s.coord q := by
    unfold setTarget
    rw [State.withCoord_coord, if_neg (Ne.symm hq), State.withCoord_coord, if_neg (Ne.symm hq)]
  unfold coordRestartAt
  dsimp only
  generalize setTarget p (s.withCoord p (fun c => { c with trim := 0 })) = u at *
  obtain ⟨target, own⟩ := own
  by_cases steer : steered (s.coord p).state = true
  · rw [if_pos steer]
    have set : Recoordinated s ((withdrawTiming p u).withCoord p
        (fun c => { c.unsteered (.seeking .lengthen) with refusals := 0 })) :=
      (zeroed.trans (.withdraw _ u)).trans (.withCoord p _ _)
    have record : ((withdrawTiming p u).withCoord p
        (fun c => { c.unsteered (.seeking .lengthen) with refusals := 0 })).coord p = restartedCoord (s.coord p) target := by
      have kept : (withdrawTiming p u).coord p = u.coord p := rfl
      rw [State.withCoord_coord, if_pos rfl, kept, own]
      unfold restartedCoord
      exact (if_pos steer).symm
    have rest (q : Pos) (hq : q ≠ p) : ((withdrawTiming p u).withCoord p
        (fun c => { c.unsteered (.seeking .lengthen) with refusals := 0 })).coord q = s.coord q := by
      rw [State.withCoord_coord, if_neg (Ne.symm hq)]
      exact others q hq
    split
    · exact ⟨set.trans (.notePosition p _), ⟨target, (notePosition_coord p p _).trans record⟩,
        fun q hq => (notePosition_coord p q _).trans (rest q hq)⟩
    · exact ⟨set, ⟨target, record⟩, rest⟩
  · rw [if_neg steer]
    exact ⟨zeroed, ⟨target, own.trans (if_neg steer).symm⟩, others⟩

theorem coordRestarts (s : State) :
    Recoordinated s (forPositions coordRestartAt s) ∧
      ∀ p, ∃ target, (forPositions coordRestartAt s).coord p = restartedCoord (s.coord p) target := by
  refine forPositions_each (look := fun u p => u.coord p) (P := fun p c => ∃ target, c = restartedCoord (s.coord p) target)
    (K := fun _ u => Recoordinated s u) (.rfl' s) (fun p rest u kept fresh => ?_)
  obtain ⟨only, own, others⟩ := coordRestartAt_only p u
  rw [fresh] at own
  exact ⟨kept.trans only, own, others⟩

/-! ### COORD-RESTART (R177) -/

/-- The state in which COORD-RESTART releases the owners. -/
def restartCleared (s : State) : State :=
  let s := flushPool (forPositions coordRestartAt s)
  clearWatch { s with pt := { s.pt with errorBase := none } }

/-- The end of COORD-RESTART: the budgets and the selector. -/
def restartEnded (s : State) : State :=
  { s with pm := { s.pm with budgets := Vector.replicate 12 0 }, ps := s.ps.restart }

theorem coordRestartNow_eq (s : State) :
    coordRestartNow s = settleLine (restartEnded (releasePriority (restartCleared s))) := by
  unfold coordRestartNow restartEnded restartCleared priorityRestart
  dsimp only

structure RestartCleared (s t : State) : Prop where
  ctb : t.ctb = s.ctb
  limits : t.oc.limits = s.oc.limits
  pm : t.pm = s.pm
  pl : t.pl = s.pl
  ps : t.ps = s.ps
  ih : t.ih = s.ih
  er : t.er = s.er
  config : t.config = s.config
  mode : t.sli.mode = s.sli.mode
  errorBase : t.pt.errorBase = none
  free : t.pt.freeCount = 64
  emptied : Emptied t
  unheard : Unheard t
  coord : ∀ p, ∃ target, t.coord p = restartedCoord (s.coord p) target

theorem restartCleared_clears (s : State) : RestartCleared s (restartCleared s) := by
  obtain ⟨only, coord⟩ := coordRestarts s
  have beside := Beside.flushPool (forPositions coordRestartAt s)
  obtain ⟨free, link⟩ := flushPool_pool (forPositions coordRestartAt s)
  unfold restartCleared
  dsimp only
  generalize flushPool (forPositions coordRestartAt s) = f at *
  generalize forPositions coordRestartAt s = u at *
  exact {
    ctb := beside.ctb.trans only.ctb
    limits := (congrArg Coordinator.limits beside.oc).trans only.limits
    pm := beside.pm.trans only.pm
    pl := beside.pl.trans only.pl
    ps := beside.ps.trans only.ps
    ih := beside.ih.trans only.ih
    er := beside.er.trans only.er
    config := beside.config.trans only.config
    mode := (congrArg Supervisory.mode beside.sli :).trans (congrArg Supervisory.mode only.sli :)
    errorBase := rfl
    free := free
    emptied := fun l => (congrArg LinkRecord.queue ((link_congr rfl rfl l).trans (link l)) :)
    unheard := fun p => get_replicate Approaches.reset p
    coord := fun p => by
      obtain ⟨target, own⟩ := coord p
      exact ⟨target, (congrArg (fun oc : Coordinator => oc.positions.get p) beside.oc).trans own⟩ }

/-- Settles O52: the positions restart, pool and approach records are cleared, and every owner is released. -/
theorem coordRestartBeginsAgain : Obligations.CoordRestartBeginsAgain := by
  unfold Obligations.CoordRestartBeginsAgain
  intro s ready live
  have handled : coordRestart (frameTaken s) =
      (settleLine (restartEnded (releasePriority (restartCleared (frameTaken s)))), .done .none) := by
    rw [← coordRestartNow_eq]
    exact if_pos live
  have run := onRequest_result (k := .coordRestart) (handle := fun (_ : Unit) s => coordRestart s) (x := ()) ready handled
  have cleared := restartCleared_clears (frameTaken s)
  generalize restartCleared (frameTaken s) = c at *
  have released := releasePriority_released c
  generalize releasePriority c = r at *
  have settles := settles_settleLine (restartEnded r)
  have answers : ∀ e ∈ (settleLine (restartEnded r)).clc.queue, e.command.isPriorityAnswer = false := fun e he => by
    obtain ⟨x, hx, core⟩ := mem_finish (s := restartEnded r) he
    rw [show e.command = x.command from congrArg Prod.fst core]
    exact released.answers x hx
  obtain ⟨steps, road, routes, uncalled, -⟩ := released
  have pool := SamePool.ofTracker (road.pt rfl)
  have unheard := cleared.unheard.ofWatch (road.qw rfl)
  have owner (p : Pos) (d : EventDirection) (called : s.owner p = .localCall d) : c.owner p = .localCall d :=
    (congrArg (fun pm : Priority => pm.owners.get p) cleared.pm).trans called
  have entry (p : Pos) : c.imageEntry p = s.imageEntry p := by
    unfold State.imageEntry
    rw [cleared.ps]
    rfl
  refine ⟨_, congrArg Host.Outcome.next run, ?_⟩
  generalize settleLine (restartEnded r) = t at *
  have coord (p : Pos) : t.coord p = r.coord p := congrArg (fun oc : Coordinator => oc.positions.get p) settles.oc
  have kept (p : Pos) (h : (s.coord p).state ≠ .preempted) : ∃ target, t.coord p = restartedCoord (s.coord p) target := by
    obtain ⟨target, own⟩ := cleared.coord p
    refine ⟨target, (coord p).trans ((steps.coord ?_).trans own)⟩
    rw [own]
    exact restartedCoord_unpreempted h target
  refine ⟨settles.mode.trans (road.mode.trans (cleared.mode.trans live)), rfl, fun p => ?_, fun p steer => ?_, fun p rests => ?_,
    fun p d called => ?_, answers, ?_, settles.ps.trans ?_, (congrArg Priority.routes settles.pm).trans routes,
    fun p => (congrArg (fun pm : Priority => pm.budgets.get p) settles.pm).trans (get_replicate 0 p),
    (congrArg Tracker.freeCount settles.pt).trans (pool.free.trans cleared.free), fun l => ?_, fun p a => ?_,
    fun p => ?_, ?_, settles.ctb.trans (road.ctb.trans cleared.ctb), settles.pl.trans (road.pl.trans cleared.pl),
    settles.config.trans (road.config.trans cleared.config), settles.er.trans (road.er.trans cleared.er),
    (congrArg Coordinator.limits settles.oc).trans (road.limits.trans cleared.limits),
    (congrArg Priority.policy settles.pm).trans (road.policy.trans (congrArg Priority.policy cleared.pm))⟩
  · obtain ⟨target, own⟩ := cleared.coord p
    exact (congrArg Coord.trim (coord p)).trans ((road.trim p).trans (by rw [own]; exact restartedCoord_trim _ _))
  · obtain ⟨target, own⟩ := kept p (fun is => by
      rw [is] at steer
      exact absurd steer (by decide))
    have own' := own.trans (restartedCoord_steered steer target)
    exact ⟨(congrArg Coord.measured own' :), (congrArg Coord.settle own' :), (congrArg Coord.refusals own' :),
      (congrArg Coord.grant own' :), (congrArg Coord.state own' :)⟩
  · have off : steered (s.coord p).state = false ∧ (s.coord p).state ≠ .preempted := by
      rcases rests with is | ⟨reason, is⟩
      · rw [is]
        exact ⟨rfl, nofun⟩
      · rw [is]
        exact ⟨rfl, nofun⟩
    obtain ⟨target, own⟩ := kept p off.2
    exact (congrArg Coord.state (own.trans (restartedCoord_unsteered off.1 target)) :)
  · have free : r.owner p = .none := (steps.owner p).resolve_left (fun same => uncalled p d (same.trans (owner p d called)))
    refine ⟨(congrArg (fun pm : Priority => pm.owners.get p) settles.pm).trans free, fun preempted => ?_⟩
    obtain ⟨target, own⟩ := cleared.coord p
    have waits : (c.coord p).state = .preempted := by
      have off : steered (s.coord p).state = false := by rw [preempted]; rfl
      exact (congrArg Coord.state (own.trans (restartedCoord_unsteered off target)) :).trans preempted
    have back : r.coord p = (ownerReturned p c).coord p :=
      ((steps.returning (p := p) (by rw [owner p d called]; nofun)).coord.resolve_left (fun stays => stays.1 free)).2
    refine (congrArg Coord.state ((coord p).trans back)).trans ?_
    cases image : s.imageEntry p with
    | none =>
      rw [ownerReturned_noEntry waits ((entry p).trans image), leaveToLocal_coord, if_pos rfl]
    | some e =>
      rw [ownerReturned_entry waits ((entry p).trans image), if_neg nofun]
  · exact (congrArg Tracker.errorBase settles.pt).trans ((congrArg Tracker.errorBase (road.pt rfl)).trans cleared.errorBase)
  · have ps : r.ps = s.ps := road.ps.trans cleared.ps
    change r.ps.restart = _
    rw [ps]
    rfl
  · exact (cleared.emptied.same pool).same (SamePool.ofTracker settles.pt) l
  · exact (unheard.ofWatch settles.qw).approach p a
  · have ident : t.ident p = r.ident p := congrArg (fun v : Vector Ident 12 => v.get p) settles.ident
    have before : c.ident p = s.ident p := congrArg (fun v : Vector Ident 12 => v.get p) (congrArg Machine.Identification.ident cleared.ih)
    have now : c.now = s.now := congrArg TimeBase.runningTime cleared.ctb
    have kept : { t.ident p with retry := none } = { s.ident p with retry := none } ∧
        ((t.ident p).retry = (s.ident p).retry ∨ (t.ident p).retry = some (later s.now 10)) := by
      rw [ident, ← before, ← now]
      exact ⟨road.ident p, road.retry p⟩
    exact kept
  · exact settles.health.trans (road.outcomes.health.trans (congrArg Machine.Identification.health cleared.ih))

end Sys2Proof.Proofs.Restarts
end

section
/-! PROOF. GO-SETUP (O51): the positions go to LOCAL, the owners are released, and what is left to send is drained. -/

open Sys2Proof Sys2Proof.Machine

namespace Sys2Proof.Proofs.SetupEntry

open Settings Answers Roads Coordination StatusReplies RouteEnds Exchanges Failures Reports Identifications Forgetting RollCall
  Clearing LineResets Restarts

/-! ### The line in SETUP -/

/-- Where no poll is due, the arbiter changes no due time and takes an idle line when an entry waits. -/
theorem arbiterRun_undue {s : State} (undue : ∀ p, s.clc.due.get p = none) :
    (arbiterRun s).clc.due = s.clc.due ∧ (s.clc.queue ≠ [] → (arbiterRun s).clc.line ≠ .idle) := by
  have next : nextDue s = none := by simp [nextDue, positions, undue]
  by_cases idle : s.clc.line = .idle
  · unfold arbiterRun
    rw [if_pos idle]
    cases queue : s.clc.queue with
    | nil =>
      have nothing : choose s = .nothing := by
        unfold choose overduePoll
        rw [next, queue]
      rw [nothing]
      exact ⟨rfl, fun h => absurd rfl h⟩
    | cons e rest =>
      have first : choose s = .entry e rest := by
        unfold choose overduePoll
        rw [next, queue]
      rw [first]
      exact ⟨rfl, fun _ => nofun⟩
  · unfold arbiterRun
    rw [if_neg idle]
    exact ⟨rfl, fun _ => idle⟩

/-- In SETUP no position is polled, and a line with an entry waiting is taken at the end of a handling. -/
theorem settleLine_setup {s : State} (setup : s.sli.mode = .setup) (noBeacon : ∀ e ∈ s.clc.queue, e.command ≠ .beacon) :
    (∀ p, (settleLine s).clc.due.get p = none) ∧ (s.clc.queue ≠ [] → (settleLine s).clc.line ≠ .idle) := by
  have off (p : Pos) : pollEligible s p = false := by
    have mute : s.isLive = false := by
      unfold State.isLive
      rw [setup]
      rfl
    unfold pollEligible
    rw [mute]
    rfl
  have undue (p : Pos) : (followSilence (dropDue s)).clc.due.get p = none := by
    change (dropDue s).clc.due.get p = none
    unfold dropDue
    rw [get_ofFn, off p]
    rfl
  obtain ⟨due, taken⟩ := arbiterRun_undue undue
  unfold settleLine
  rw [dropBeacon_absent noBeacon]
  exact ⟨fun p => by rw [due]; exact undue p, taken⟩

/-! ### The positions go to LOCAL (R42) -/

/-- What GO-SETUP makes of the state of a position. -/
def releasedState (c : CoordState) : CoordState := if c = .unseen then .unseen else .inLocal .setup

theorem coordSetupAt_coordinated {p : Pos} {s : State} (h : coordinated (s.coord p).state = true) :
    coordSetupAt p s = leaveToLocal p .setup true s := by
  unfold coordSetupAt
  split
  · next is =>
    rw [is] at h
    exact absurd h (by decide)
  · next is =>
    rw [is] at h
    exact absurd h Bool.false_ne_true
  · rfl

theorem coordSetupAt_resting {p : Pos} {s : State} (h : coordinated (s.coord p).state = false) :
    (coordSetupAt p s).clc = s.clc := by
  unfold coordSetupAt
  split
  · rfl
  · unfold takeReason
    split
    · rfl
    · exact (raiseNotice_clc _ _).trans rfl
  · next unseen notLocal =>
    cases is : (s.coord p).state with
    | unseen => exact absurd is unseen
    | inLocal reason => exact absurd is (notLocal reason)
    | seeking d => rw [is] at h; exact absurd h.symm Bool.false_ne_true
    | inStep => rw [is] at h; exact absurd h (by decide)
    | preempted => rw [is] at h; exact absurd h (by decide)

theorem coordSetupAt_state (p : Pos) (s : State) :
    ((coordSetupAt p s).coord p).state = releasedState (s.coord p).state := by
  unfold coordSetupAt releasedState
  split
  · next is =>
    rw [is]
    rfl
  · next is =>
    rw [takeReason_coord, is]
    rfl
  · next unseen notLocal =>
    rw [leaveToLocal_coord, if_neg (unseen)]

theorem coordSetupAt_pm (p : Pos) (s : State) : (coordSetupAt p s).pm = s.pm := by
  unfold coordSetupAt
  split
  · rfl
  · exact takeReason_pm p _ s
  · exact leaveToLocal_pm p _ _ s

theorem coordSetupAt_road (p : Pos) (s : State) : Road false (· = p) (· = .runLocal) s (coordSetupAt p s) := by
  unfold coordSetupAt
  split
  · exact .rfl' s
  · exact Road.takeReason (A := (· = p)) rfl _ s
  · exact Road.leaveToLocal (A := (· = p)) (C := (· = .runLocal)) rfl _ (fun _ => rfl) s

/-- From `s` to `t` every position has gone to LOCAL, or is UNSEEN still. -/
structure Localised (s t : State) : Prop where
  road : Road false (fun _ => True) (· = .runLocal) s t
  pm : t.pm = s.pm
  state : ∀ p, (t.coord p).state = releasedState (s.coord p).state
  idle : (∀ p, coordinated (s.coord p).state = false) → t.clc = s.clc

theorem coordSetups_localise (s : State) : Localised s (forPositions coordSetupAt s) := by
  have passed := forPositions_each (f := coordSetupAt) (s := s) (look := fun u p => u.coord p)
    (P := fun p c => c.state = releasedState (s.coord p).state)
    (K := fun _ u => Road false (fun _ => True) (· = .runLocal) s u ∧ u.pm = s.pm ∧
      ((∀ p, coordinated (s.coord p).state = false) → u.clc = s.clc)) ⟨.rfl' s, rfl, fun _ => rfl⟩
    (fun p rest u kept fresh => ?_)
  · obtain ⟨⟨road, pm, idle⟩, state⟩ := passed
    exact ⟨road, pm, state, idle⟩
  · obtain ⟨road, pm, idle⟩ := kept
    have one := coordSetupAt_road p u
    refine ⟨⟨road.trans (one.mono (fun _ _ => trivial) (fun _ h => h)), (coordSetupAt_pm p u).trans pm, fun none => ?_⟩,
      (coordSetupAt_state p u).trans (by rw [show u.coord p = s.coord p from fresh]), fun q hq => one.coord q hq⟩
    exact (coordSetupAt_resting (by rw [show u.coord p = s.coord p from fresh]; exact none p)).trans (idle none)

/-! ### RUN-LOCALs find their places -/

/-- An entry is a RUN-LOCAL. -/
def IsRunLocal (e : QueueEntry) : Prop := e.command = .runLocal

/-- An entry is a RUN-LOCAL for `p`. -/
def RunsLocal (p : Pos) (e : QueueEntry) : Prop := e.command = .runLocal ∧ e.position = some p

theorem coordSetupAt_keeps {p q : Pos} (hq : q ≠ p) (s : State) : Keeps (RunsLocal p) 1 s (coordSetupAt q s) := by
  by_cases h : coordinated (s.coord q).state = true
  · rw [coordSetupAt_coordinated h]
    refine Keeps.leaveToLocal q .setup true s (fun e he => by rw [he.1]; rfl) (fun e he => ?_)
    simp [replaces, he.1, he.2, Ne.symm hq]
  · exact Keeps.ofQueue (congrArg LineController.queue (coordSetupAt_resting (by simpa using h)))

theorem leaveToLocal_queued {p : Pos} {reason : LocalReason} {s : State} (opens : offerOpen s .runLocal = true)
    (hc : s.config.get p ≠ none) (room : s.clc.queue.length < 24) (free : ∀ e ∈ s.clc.queue, e.position = some p → e.command ≠ .quiet) :
    runLocalQueued (leaveToLocal p reason true s) p := by
  have left : Road false (fun _ => True) (fun _ => False) s (notePosition p ((withdrawTiming p s).withCoord p
      (fun c => { c.unsteered (.inLocal reason) with commanded := false }))) :=
    ((Road.withdraw _ s).trans (.withCoord (p := p) trivial (withdrawTiming p s)
      (fun c => { c.unsteered (.inLocal reason) with commanded := false }) (by intro c; rfl))).trans (.notePosition p _)
  have queue : (notePosition p ((withdrawTiming p s).withCoord p
      (fun c => { c.unsteered (.inLocal reason) with commanded := false }))).clc.queue = (withdrawTiming p s).clc.queue := rfl
  unfold leaveToLocal
  dsimp only
  rw [if_pos rfl]
  refine offerTo_runLocal ((left.offerOpen _).trans opens) (by rw [left.config]; exact hc) ?_ (fun e he => ?_)
  · rw [queue]
    exact (List.length_filter_le _ _).trans_lt room
  · rw [queue] at he
    exact free e (List.mem_of_mem_filter he)

theorem coordSetups_queue {p : Pos} {s : State} (opens : offerOpen s .runLocal = true) (hc : s.config.get p ≠ none)
    (room : s.clc.queue.length + 12 ≤ 24) (free : ∀ e ∈ s.clc.queue, e.position = some p → e.command ≠ .quiet)
    (steered : coordinated (s.coord p).state = true) :
    runLocalQueued (forPositions coordSetupAt s) p ∧
      (forPositions coordSetupAt s).clc.queue.length ≤ s.clc.queue.length + 12 := by
  have passed := forPositions_each (f := coordSetupAt) (s := s) (look := fun u q => u.coord q) (P := fun _ _ => True)
    (K := fun rest u => Road false (fun _ => True) (· = .runLocal) s u ∧
      u.clc.queue.length + rest.length ≤ s.clc.queue.length + 12 ∧ (p ∉ rest → runLocalQueued u p))
    ⟨.rfl' s, le_rfl, fun h => absurd (mem_positions p) h⟩ (fun q rest u kept fresh => ?_)
  · dsimp only [List.length_nil, Nat.add_zero] at passed
    obtain ⟨⟨-, length, queued⟩, -⟩ := passed
    exact ⟨queued List.not_mem_nil, length⟩
  · obtain ⟨road, length, queued⟩ := kept
    have one := coordSetupAt_road q u
    have longer : Keeps (fun _ => False) 1 u (coordSetupAt q u) := by
      by_cases h : coordinated (u.coord q).state = true
      · rw [coordSetupAt_coordinated h]
        exact Keeps.leaveToLocal q .setup true u nofun nofun
      · exact Keeps.ofQueue (congrArg LineController.queue (coordSetupAt_resting (by simpa using h)))
    have grown := longer.length
    rw [List.length_cons] at length
    refine ⟨⟨road.trans (one.mono (fun _ _ => trivial) (fun _ h => h)), by omega, fun out => ?_⟩, trivial,
      fun r hr => one.coord r hr⟩
    by_cases own : q = p
    · subst own
      rw [coordSetupAt_coordinated (by rw [show u.coord q = s.coord q from fresh]; exact steered)]
      refine leaveToLocal_queued ((road.offerOpen _).trans opens) (by rw [road.config]; exact hc) (by omega) (fun e he hp => ?_)
      rcases road.queue e he with old | ⟨command, -⟩
      · exact free e old hp
      · rw [command]
        nofun
    · obtain ⟨e, he, hp, hr⟩ := queued (fun mem => (List.mem_cons.1 mem).elim (fun same => own same.symm) out)
      exact ⟨e, (coordSetupAt_keeps own u).kept (by omega) e he ⟨hr, hp⟩, hp, hr⟩

/-! ### The release of positions none of which is PREEMPTED -/

/-- No position is PREEMPTED. -/
def Calm (s : State) : Prop := ∀ q, (s.coord q).state ≠ .preempted

theorem Calm.releases {s t : State} (h : Calm s) (steps : Releases s t) : Calm t := fun q => by
  rw [steps.coord (h q)]
  exact h q

theorem setOwner_none_clc {p : Pos} {s : State} (h : (s.coord p).state ≠ .preempted) : (setOwner p .none s).clc = s.clc := by
  by_cases owned : s.owner p = .none
  · rw [setOwner_same (by simp [owned])]
    rfl
  · have own : ((withOwner p .none s).coord p).state ≠ .preempted := h
    rw [Roads.setOwner_none owned, ownerReturned_unpreempted own]
    rfl

theorem setOwner_none_keeps {P : QueueEntry → Prop} {p : Pos} {s : State} (h : Calm s) : Keeps P 0 s (setOwner p .none s) :=
  .ofQueue (congrArg LineController.queue (setOwner_none_clc (h p)))

theorem isRunLocal_notClear (p : Pos) (e : QueueEntry) (h : IsRunLocal e) :
    (e.position == some p && e.command.isRouteClear) = false := by
  rw [show e.command = .runLocal from h]
  exact Bool.and_false _

theorem sendEnd_keeps {p : Pos} {ref : RouteRef} {s : State} (h : Calm s) : Keeps IsRunLocal 1 s (sendEnd p ref s).1 := by
  have withdrawn : Keeps IsRunLocal 0 s (withdrawClear p s) := .withdraw s (isRunLocal_notClear p)
  have sent : Keeps IsRunLocal 1 s (offerTo .routeEnd p (some ref) (withdrawClear p s)).1 :=
    (withdrawn.trans (n := 1) (.offerTo (some ref) (withdrawClear p s) (fun _ _ => rfl))).le (by omega)
  have steps : Releases s (offerTo .routeEnd p (some ref) (withdrawClear p s)).1 :=
    .step (.offered ((Offered.withdraw _ s).trans (.offerTo _ _ _ _)))
  unfold sendEnd
  dsimp only
  split
  · exact sent
  · unfold handBack
    split
    · exact sent.trans (n := 0) (setOwner_none_keeps (h.releases steps))
    · exact sent

theorem endMember_keeps {ref : RouteRef} {acc : State × List Pos} {m : Member} (h : Calm acc.1) :
    Keeps IsRunLocal 1 acc.1 (endMember ref acc m).1 := by
  unfold endMember
  dsimp only
  split
  · have withdrawn : Keeps IsRunLocal 0 acc.1 (withdrawClear m.position acc.1) := .withdraw acc.1 (isRunLocal_notClear m.position)
    exact (withdrawn.trans (n := 0) (setOwner_none_keeps (h.releases (.withdraw _ _)))).le (by omega)
  · exact sendEnd_keeps h

theorem endMembers_keeps {ref : RouteRef} (members : List Member) {acc : State × List Pos} (h : Calm acc.1) :
    Keeps IsRunLocal members.length acc.1 (members.foldl (endMember ref) acc).1 := by
  induction members generalizing acc with
  | nil => exact .rfl' _
  | cons m members ih =>
    have rest := ih (acc := endMember ref acc m) (h.releases (.endMember ref acc m))
    rw [List.length_cons, Nat.add_comm]
    exact (endMember_keeps h).trans rest

/-- The members of every route. -/
def members (s : State) : Nat := (s.pm.routes.map (fun r => r.members.length)).sum

theorem sum_filter_le {α : Type} {f : α → Nat} {keep : α → Bool} {x : α} {l : List α} (mem : x ∈ l) (out : keep x = false) :
    f x + ((l.filter keep).map f).sum ≤ (l.map f).sum := by
  have less (l : List α) : ((l.filter keep).map f).sum ≤ (l.map f).sum := by
    induction l with
    | nil => exact le_rfl
    | cons y l ih =>
      rw [List.filter_cons]
      split <;> simp only [List.map_cons, List.sum_cons] <;> omega
  induction l with
  | nil => exact absurd mem List.not_mem_nil
  | cons y l ih =>
    rw [List.filter_cons, List.map_cons, List.sum_cons]
    rcases List.mem_cons.1 mem with rfl | old
    · rw [out]
      have := less l
      simpa using this
    · have := ih old
      split
      · rw [List.map_cons, List.sum_cons]
        omega
      · omega

theorem members_eq {s t : State} (h : t.pm.routes = s.pm.routes) : members t = members s := by
  unfold members
  rw [h]

theorem endRouteFrom_keeps {p : Pos} {s : State} (h : Calm s) :
    ∃ n, n + members (endRouteFrom p s).1 ≤ members s ∧ Keeps IsRunLocal n s (endRouteFrom p s).1 := by
  cases route : s.pm.routeFrom p with
  | none =>
    rw [endRouteFrom_none route]
    exact ⟨0, (Nat.zero_add _).le, .rfl' s⟩
  | some r =>
    have origin : r.ref.origin = p := routeFrom_origin route
    have mem : r ∈ s.pm.routes := List.mem_of_find?_eq_some route
    refine ⟨r.members.length, ?_, ?_⟩
    · unfold members
      rw [endRouteFrom_routes]
      exact sum_filter_le (f := fun r : Route => r.members.length) (keep := fun x => x.ref.origin != p) mem
        (by rw [origin]; exact bne_self_eq_false p)
    · have kept : Keeps IsRunLocal 0 s (s.withRoutes (fun rs => rs.filter (fun x => x.ref.origin != r.ref.origin))) := .ofQueue rfl
      have ended := endMembers_keeps (ref := r.ref) r.members
        (acc := (s.withRoutes (fun rs => rs.filter (fun x => x.ref.origin != r.ref.origin)), [])) h
      unfold endRouteFrom
      rw [route]
      exact (kept.trans ended).le (by omega)

theorem endAllRoutes_keeps {s : State} (h : Calm s) : Keeps IsRunLocal (members s) s (endAllRoutes s) := by
  have passed := forPositions_keeps (f := fun p s => (endRouteFrom p s).1) (s := s)
    (K := fun u => Releases s u ∧ ∃ n, n + members u ≤ members s ∧ Keeps IsRunLocal n s u)
    (fun p u kept => ?_) ⟨.rfl' s, 0, by omega, .rfl' s⟩
  · obtain ⟨-, n, most, kept⟩ := passed
    exact kept.le (by omega)
  · obtain ⟨steps, n, most, kept⟩ := kept
    obtain ⟨m, less, one⟩ := endRouteFrom_keeps (p := p) (h.releases steps)
    exact ⟨steps.trans (.endRouteFrom p u), n + m, by omega, kept.trans one⟩

theorem releasePriority_keeps {s : State} (h : Calm s) : Keeps IsRunLocal (members s) s (releasePriority s) := by
  have passed := forPositions_keeps (f := fun p s => if locallyCalled s p then setOwner p .none s else s) (s := endAllRoutes s)
    (K := fun u => Releases s u ∧ Keeps IsRunLocal (members s) s u) (fun p u kept => ?_)
    ⟨.endAllRoutes s, endAllRoutes_keeps h⟩
  · obtain ⟨-, kept⟩ := passed
    unfold releasePriority
    exact kept.trans (n := 0) (.withdraw _ (fun e he => by rw [show e.command = .runLocal from he]; rfl))
  · obtain ⟨steps, kept⟩ := kept
    split
    · exact ⟨steps.trans (.setOwner_none p u), kept.trans (n := 0) (setOwner_none_keeps (h.releases steps))⟩
    · exact ⟨steps, kept⟩

/-! ### Identification and Health at GO-SETUP (R158) -/

/-- An identification without its deadlines. -/
def undated (i : Ident) : Ident := { i with retry := none, reprobe := none, byRequest := false }

/-- A health record without its deadlines. -/
def unprobed (h : Health) : Health := { h with probeDeadline := none, quietTimer := none, stage := .none }

/-- Replace the tables of Identification and Health. -/
def withTables (v : Vector Ident 12) (w : Vector Health 12) (s : State) : State :=
  { s with ih := { s.ih with ident := v, health := w } }

theorem identifySetup_tables (s : State) :
    (∃ v w, identifySetup s = withTables v w (withdraw (fun e => e.command.isAdministrative) s)) ∧
      ∀ p, (identifySetup s).ident p = undated (s.ident p) ∧ (identifySetup s).health p = unprobed (s.health p) := by
  have passed := forPositions_each
    (f := fun p s => (s.withIdent p (fun i => { i with retry := none, reprobe := none, byRequest := false })).withHealth p
      (fun h => { h with probeDeadline := none, quietTimer := none, stage := .none }))
    (s := withdraw (fun e => e.command.isAdministrative) s)
    (look := fun u p => (u.ident p, u.health p))
    (P := fun p x => x = (undated (s.ident p), unprobed (s.health p)))
    (K := fun _ u => ∃ v w, u = withTables v w (withdraw (fun e => e.command.isAdministrative) s))
    ⟨s.ih.ident, s.ih.health, rfl⟩ (fun p rest u kept fresh => ?_)
  · obtain ⟨tables, each⟩ := passed
    exact ⟨tables, fun p => Prod.mk.inj (each p)⟩
  · obtain ⟨v, w, rfl⟩ := kept
    obtain ⟨ident, health⟩ := Prod.mk.inj fresh
    refine ⟨⟨_, _, rfl⟩, Prod.ext ?_ ?_, fun q hq => Prod.ext ?_ ?_⟩
    · exact (State.withHealth_ident _ p p _).trans ((State.withIdent_ident _ p p _).trans ((if_pos rfl).trans (congrArg undated ident)))
    · exact (State.withHealth_health _ p p _).trans ((if_pos rfl).trans (congrArg unprobed health))
    · exact (State.withHealth_ident _ p q _).trans ((State.withIdent_ident _ p q _).trans (if_neg (Ne.symm hq)))
    · exact (State.withHealth_health _ p q _).trans (if_neg (Ne.symm hq))

/-! ### GO-SETUP up to the drained report (R175) -/

/-- The part in SETUP, draining, and the selector with it. -/
def setupBegun (s : State) : State :=
  { s with sli := { s.sli with mode := .setup, draining := true }, clc := { s.clc with drainFlag := true },
           ps := s.ps.toSetup }

/-- The state in which GO-SETUP asks whether anything is left to send. -/
def released (s : State) : State :=
  dropBeacon (withdraw (fun e => e.command.isRouteClear)
    (identifySetup (clearWatch (flushPool (releasePriority (forPositions coordSetupAt (setupBegun s)))))))

theorem goSetupNow_eq (s : State) : goSetupNow s = settleLine (reportIfDrained (released s)) := rfl

/-- What GO-SETUP leaves before the drained report. -/
structure SetUp (s u : State) : Prop where
  mode : u.sli.mode = .setup
  draining : u.sli.draining = true
  drainFlag : u.clc.drainFlag = true
  line : u.clc.line = s.clc.line
  state : ∀ p, (u.coord p).state = releasedState (s.coord p).state
  trim : ∀ p, (u.coord p).trim = (s.coord p).trim
  owner : ∀ p d, s.owner p = .localCall d → u.owner p = .none
  budget : ∀ p, u.budget p = s.budget p
  entries : ∀ e ∈ u.clc.queue, e.command.isPriorityAnswer = false ∧ e.command.isRouteClear = false ∧ e.command ≠ .beacon
  ps : u.ps = s.ps.toSetup
  routes : u.pm.routes = []
  free : u.pt.freeCount = 64
  emptied : Emptied u
  unheard : Unheard u
  ident : ∀ p, u.ident p = undated (s.ident p)
  health : ∀ p, u.health p = unprobed (s.health p)
  empty : s.clc.queue = [] → s.pm.routes = [] → (∀ p, coordinated (s.coord p).state = false) → u.clc.queue = []
  runLocal : ∀ p, coordinated (s.coord p).state = true → runLocalFits s p (12 + members s) → runLocalQueued u p

theorem releasedState_calm (c : CoordState) : releasedState c ≠ .preempted := by
  unfold releasedState
  split <;> nofun

/-- The part as the owners have been released, and the pool and the approach records cleared. -/
structure Freed (s u : State) : Prop where
  mode : u.sli.mode = .setup
  draining : u.sli.draining = true
  drainFlag : u.clc.drainFlag = true
  line : u.clc.line = s.clc.line
  state : ∀ p, (u.coord p).state = releasedState (s.coord p).state
  trim : ∀ p, (u.coord p).trim = (s.coord p).trim
  owner : ∀ p d, s.owner p = .localCall d → u.owner p = .none
  budget : ∀ p, u.budget p = s.budget p
  answers : ∀ e ∈ u.clc.queue, e.command.isPriorityAnswer = false
  ps : u.ps = s.ps.toSetup
  routes : u.pm.routes = []
  free : u.pt.freeCount = 64
  emptied : Emptied u
  unheard : Unheard u
  ident : ∀ p, { u.ident p with retry := none } = { s.ident p with retry := none }
  health : ∀ p, u.health p = s.health p
  empty : s.clc.queue = [] → s.pm.routes = [] → (∀ p, coordinated (s.coord p).state = false) → u.clc.queue = []
  runLocal : ∀ p, coordinated (s.coord p).state = true → runLocalFits s p (12 + members s) → runLocalQueued u p

theorem setupBegun_opens (s : State) : offerOpen (setupBegun s) .runLocal = true := by
  unfold offerOpen setupBegun
  simp [drains]

theorem setup_frees (s : State) :
    Freed s (clearWatch (flushPool (releasePriority (forPositions coordSetupAt (setupBegun s))))) := by
  have opens := setupBegun_opens s
  have localised := coordSetups_localise (setupBegun s)
  have queued (p : Pos) (h : coordinated (s.coord p).state = true) (fits : runLocalFits s p (12 + members s)) :=
    coordSetups_queue (p := p) (s := setupBegun s) opens fits.2.1 (by
      have room : s.clc.queue.length + (12 + members s) ≤ 24 := fits.2.2.1
      change s.clc.queue.length + 12 ≤ 24
      omega) fits.2.2.2 h
  have calm : Calm (forPositions coordSetupAt (setupBegun s)) := fun q => by
    rw [localised.state]
    exact releasedState_calm _
  have count : members (forPositions coordSetupAt (setupBegun s)) = members s := members_eq (congrArg Priority.routes localised.pm)
  generalize forPositions coordSetupAt (setupBegun s) = a at *
  have let_go := releasePriority_released a
  have keeps := releasePriority_keeps calm
  generalize releasePriority a = b at *
  have beside := Beside.flushPool b
  obtain ⟨free, link⟩ := flushPool_pool b
  generalize flushPool b = c at *
  have begun := localised.road
  have road := let_go.road
  have owner (p : Pos) : a.owner p = s.owner p := congrArg (fun pm : Priority => pm.owners.get p) localised.pm
  exact {
    mode := (congrArg Supervisory.mode beside.sli :).trans (road.mode.trans begun.mode)
    draining := (congrArg Supervisory.draining beside.sli :).trans (road.outcomes.draining.trans begun.outcomes.draining)
    drainFlag := (congrArg LineController.drainFlag beside.clc).trans (road.outcomes.drainFlag.trans begun.outcomes.drainFlag)
    line := (congrArg LineController.line beside.clc).trans (road.outcomes.line.trans begun.outcomes.line)
    state := fun p => by
      rw [show (clearWatch c).coord p = b.coord p from congrArg (fun oc : Coordinator => oc.positions.get p) beside.oc,
        let_go.steps.coord (calm p)]
      exact localised.state p
    trim := fun p => (congrArg (fun oc : Coordinator => (oc.positions.get p).trim) beside.oc).trans
      ((road.trim p).trans (begun.trim p))
    owner := fun p d called => (congrArg (fun pm : Priority => pm.owners.get p) beside.pm).trans
      ((let_go.steps.owner p).resolve_left (fun same => let_go.uncalled p d (same.trans ((owner p).trans called))))
    budget := fun p => (congrArg (fun pm : Priority => pm.budgets.get p) beside.pm).trans
      ((road.budget p).trans (begun.budget p))
    answers := fun e he => let_go.answers e (by rw [← beside.clc]; exact he)
    ps := beside.ps.trans (road.ps.trans begun.ps)
    routes := (congrArg Priority.routes beside.pm).trans let_go.routes
    free := free
    emptied := fun l => (congrArg LinkRecord.queue (link l) :)
    unheard := fun p => get_replicate Approaches.reset p
    ident := fun p => by
      rw [show (clearWatch c).ident p = b.ident p from
        congrArg (fun v : Vector Ident 12 => v.get p) (congrArg Machine.Identification.ident beside.ih)]
      exact (road.ident p).trans (begun.ident p)
    health := fun p => (congrArg (fun v : Vector Health 12 => v.get p) (congrArg Machine.Identification.health beside.ih)).trans
      ((road.health p).trans (begun.health p))
    empty := fun queue routes resting => by
      have short := keeps.length
      have none : members s = 0 := by
        unfold members
        rw [routes]
        rfl
      rw [count, none, localised.idle resting, show (setupBegun s).clc.queue = [] from queue] at short
      exact (congrArg LineController.queue beside.clc).trans (List.length_eq_zero_iff.1 (Nat.le_zero.1 short))
    runLocal := fun p h fits => by
      obtain ⟨⟨e, he, hp, hr⟩, length⟩ := queued p h fits
      have room : s.clc.queue.length + (12 + members s) ≤ 24 := fits.2.2.1
      have most : a.clc.queue.length ≤ s.clc.queue.length + 12 := length
      refine ⟨e, ?_, hp, hr⟩
      rw [show (clearWatch c).clc = b.clc from beside.clc]
      exact keeps.kept (by rw [count]; omega) e he hr }

theorem released_setUp (s : State) : SetUp s (released s) := by
  have h := setup_frees s
  unfold released
  generalize clearWatch (flushPool (releasePriority (forPositions coordSetupAt (setupBegun s)))) = a at *
  obtain ⟨⟨v, w, tables⟩, each⟩ := identifySetup_tables a
  generalize identifySetup a = b at *
  have off : beaconCondition (withdraw (fun e => e.command.isRouteClear) b) = false := by
    have mute : b.isLive = false := by
      rw [tables]
      unfold State.isLive
      rw [show (withTables v w (withdraw (fun e => e.command.isAdministrative) a)).sli.mode = .setup from h.mode]
      rfl
    unfold beaconCondition
    rw [show (withdraw (fun e => e.command.isRouteClear) b).isLive = false from mute]
    rfl
  unfold dropBeacon
  rw [off, if_neg Bool.false_ne_true]
  have queue : ∀ e, e ∈ (withdraw (fun e => e.command == .beacon) (withdraw (fun e => e.command.isRouteClear) b)).clc.queue ↔
      e ∈ a.clc.queue ∧ e.command.isAdministrative = false ∧ e.command.isRouteClear = false ∧ e.command ≠ .beacon := fun e => by
    rw [tables]
    simp only [withTables, withdraw, State.withQueue, List.mem_filter, Bool.not_eq_true', beq_eq_false_iff_ne, and_assoc]
  exact {
    mode := by rw [tables]; exact h.mode
    draining := by rw [tables]; exact h.draining
    drainFlag := by rw [tables]; exact h.drainFlag
    line := by rw [tables]; exact h.line
    state := by rw [tables]; exact h.state
    trim := by rw [tables]; exact h.trim
    owner := by rw [tables]; exact h.owner
    budget := by rw [tables]; exact h.budget
    entries := fun e he => by
      obtain ⟨old, -, clear, beacon⟩ := (queue e).1 he
      exact ⟨h.answers e old, clear, beacon⟩
    ps := by rw [tables]; exact h.ps
    routes := by rw [tables]; exact h.routes
    free := by rw [tables]; exact h.free
    emptied := by rw [tables]; exact h.emptied
    unheard := by rw [tables]; exact h.unheard
    ident := fun p => (each p).1.trans (congrArg undated (h.ident p) :)
    health := fun p => (each p).2.trans (congrArg unprobed (h.health p))
    empty := fun none routes resting => List.eq_nil_iff_forall_not_mem.2 (fun e he => by
      have old := ((queue e).1 he).1
      rw [h.empty none routes resting] at old
      exact List.not_mem_nil old)
    runLocal := fun p steer fits => by
      obtain ⟨e, he, hp, hr⟩ := h.runLocal p steer fits
      exact ⟨e, (queue e).2 ⟨he, by rw [hr]; exact ⟨rfl, rfl, nofun⟩⟩, hp, hr⟩ }

/-! ### The drained report at GO-SETUP (R158) -/

theorem endCall_routes_nil {p : Pos} {cause : EndCause} {s : State} (h : s.pm.routes = []) :
    (endCall p cause s).pm.routes = [] := by
  rw [endCall_routes, h]
  rfl

theorem standingLost_routes_nil {p : Pos} {s : State} (h : s.pm.routes = []) : (standingLost p s).pm.routes = [] := by
  unfold standingLost
  split
  · exact h
  · exact endCall_routes_nil h
  · refine (setOwner_routes p .none _).trans ?_
    change (leaveRoute p s).pm.routes = []
    unfold leaveRoute
    rw [State.withRoutes_routes, h]
    rfl

theorem forgetIdents_owner {p : Pos} {s : State} (h : s.owner p = .none) : (forPositions forgetIdent s).owner p = .none := by
  refine forPositions_keeps (K := fun u => u.owner p = .none) (fun q u free => ?_) h
  unfold forgetIdent
  dsimp only
  split
  · rw [leftIdentified_eq]
    refine (congrArg (fun pm : Priority => pm.owners.get p) (beside_lost q _).pm).trans ?_
    rcases (Releases.standingLost q (unseen q (u.withIdent q (fun _ => Ident.reset)))).owner p with same | gone
    · exact same.trans ((unseen_owner q p _).trans free)
    · exact gone
  · exact free

theorem forgetIdents_routes {s : State} (h : s.pm.routes = []) : (forPositions forgetIdent s).pm.routes = [] := by
  refine forPositions_keeps (K := fun u => u.pm.routes = []) (fun q u none => ?_) h
  unfold forgetIdent
  dsimp only
  split
  · rw [leftIdentified_eq]
    refine (congrArg Priority.routes (beside_lost q _).pm).trans (standingLost_routes_nil ?_)
    exact (congrArg Priority.routes (coordUnseen_pm q _)).trans none
  · exact none

/-- Where every position rests, losing one touches the record of no other. -/
theorem leftIdentified_others {p q : Pos} {s : State} (hq : q ≠ p) (rests : coordinated (s.coord q).state = false) :
    (leftIdentified p s).coord q = s.coord q := by
  have away : (unseen p s).coord q = s.coord q :=
    ((Road.withdraw (wide := false) (A := (· = p)) (C := fun _ => True) _ s).trans
      (Road.coordUnseen (A := (· = p)) rfl _)).coord q hq
  rw [leftIdentified_eq, coord_of_oc (beside_lost p _).oc,
    (Handled.standingLost p _).rests q (by rw [away]; exact rests), away]

theorem leftIdentified_identState (p q : Pos) (s : State) : ((leftIdentified p s).ident q).state = (s.ident q).state :=
  (road_leftIdentified (A := fun _ => True) trivial (fun _ _ _ _ => trivial)).identState q

/-- A position forgotten is UNSEEN when it was IDENTIFIED; where every position rests, the others stay as they are. -/
theorem forgetIdents_coord {s : State} (rests : ∀ p, coordinated (s.coord p).state = false) (p : Pos) :
    ((forPositions forgetIdent s).coord p).state =
      if (s.ident p).state = .identified then .unseen else (s.coord p).state := by
  have passed := forPositions_each (f := forgetIdent) (s := s) (look := fun u p => ((u.coord p).state, (u.ident p).state))
    (P := fun p x => x.1 = if (s.ident p).state = .identified then .unseen else (s.coord p).state)
    (K := fun _ u => ∀ p, coordinated (u.coord p).state = false) rests (fun q rest u kept fresh => ?_)
  · dsimp only at passed
    exact passed.2 p
  · obtain ⟨state, ident⟩ := Prod.mk.inj fresh
    have reset : ∀ r, (u.withIdent q (fun _ => Ident.reset)).coord r = u.coord r := fun _ => rfl
    have others (r : Pos) (hr : r ≠ q) : ((u.withIdent q (fun _ => Ident.reset)).ident r) = u.ident r :=
      (State.withIdent_ident u q r _).trans (if_neg (Ne.symm hr))
    unfold forgetIdent
    dsimp only
    generalize u.withIdent q (fun _ => Ident.reset) = v at *
    by_cases was : (u.ident q).state = .identified
    · have away (r : Pos) (hr : r ≠ q) : (leftIdentified q v).coord r = u.coord r :=
        (leftIdentified_others hr (by rw [reset]; exact kept r)).trans (reset r)
      have own := leftIdentified_coord q v
      rw [if_pos was]
      refine ⟨fun r => ?_, ?_, fun r hr => ?_⟩
      · by_cases hr : r = q
        · rw [hr, own]
          rfl
        · rw [away r hr]
          exact kept r
      · rw [own, ← ident, if_pos was]
      · rw [away r hr, leftIdentified_identState, others r hr]
    · rw [if_neg was]
      refine ⟨fun r => by rw [reset]; exact kept r, ?_, fun r hr => ?_⟩
      · rw [← ident, if_neg was, reset, state]
      · rw [reset, others r hr]

/-- What the drained report leaves of a part that has gone to SETUP. -/
structure DrainedSetup (s u : State) : Prop where
  mode : u.sli.mode = .setup
  draining : u.sli.draining = false
  drainFlag : u.clc.drainFlag = false
  line : u.clc.line = s.clc.line
  state : ∀ p, (u.coord p).state = if (s.ident p).state = .identified then .unseen else (s.coord p).state
  trim : ∀ p, (u.coord p).trim = (s.coord p).trim
  owner : ∀ p, s.owner p = .none → u.owner p = .none
  budget : ∀ p, u.budget p = s.budget p
  queue : ∀ e ∈ u.clc.queue, e ∈ s.clc.queue
  ps : u.ps = s.ps
  routes : u.pm.routes = []
  free : u.pt.freeCount = s.pt.freeCount
  emptied : Emptied u
  unheard : Unheard u
  ident : ∀ p, u.ident p = Ident.reset
  health : ∀ p, u.health p = Health.reset

theorem drained_setup {s : State} (setup : s.sli.mode = .setup) (rests : ∀ p, coordinated (s.coord p).state = false)
    (routes : s.pm.routes = []) (emptied : Emptied s) (unheard : Unheard s) : DrainedSetup s (drained s) := by
  have leaves := drained_leaves setup
  obtain ⟨⟨-, ⟨v, road⟩, -⟩, -⟩ := forgetIdents_quiet
    (s := { s with clc := { s.clc with drainFlag := false }, sli := { s.sli with draining := false } })
    (.inl (drained_mute setup))
  have state := forgetIdents_coord
    (s := { s with clc := { s.clc with drainFlag := false }, sli := { s.sli with draining := false } }) rests
  have owner (p : Pos) := forgetIdents_owner (p := p)
    (s := { s with clc := { s.clc with drainFlag := false }, sli := { s.sli with draining := false } })
  have none := forgetIdents_routes
    (s := { s with clc := { s.clc with drainFlag := false }, sli := { s.sli with draining := false } }) routes
  have pool := forgetIdents_pool
    (s := { s with clc := { s.clc with drainFlag := false }, sli := { s.sli with draining := false } }) emptied
  have heard := forgetIdents_unheard
    (s := { s with clc := { s.clc with drainFlag := false }, sli := { s.sli with draining := false } }) unheard
  unfold drained forgetAll at leaves ⊢
  dsimp only at leaves ⊢
  generalize forPositions forgetIdent
    { s with clc := { s.clc with drainFlag := false }, sli := { s.sli with draining := false } } = u at *
  exact {
    mode := leaves.mode.trans setup
    draining := leaves.draining
    drainFlag := leaves.drainFlag
    line := leaves.line
    state := state
    trim := leaves.trim
    owner := owner
    budget := road.budget
    queue := leaves.queue
    ps := road.ps
    routes := none
    free := pool.free
    emptied := fun l => (congrArg LinkRecord.queue (pool.link l)).trans (emptied l)
    unheard := heard
    ident := leaves.ident
    health := leaves.health }

/-! ### GO-SETUP (R175) -/

/-- What the end of a handling in SETUP leaves of the line. -/
theorem settleLine_setup_line {s : State} (setup : s.sli.mode = .setup) :
    (s.clc.line ≠ .idle → (settleLine s).clc.line = s.clc.line) ∧
      (s.clc.line = .idle → s.clc.queue = [] → (settleLine s).clc.line = .idle ∧ (settleLine s).clc.queue = []) := by
  refine ⟨fun taken => finish_lineTaken_line taken, fun idle empty => ?_⟩
  have off (p : Pos) (eligible : pollEligible s p = true) : s.clc.due.get p = none := by
    have mute : s.isLive = false := by
      unfold State.isLive
      rw [setup]
      rfl
    unfold pollEligible at eligible
    rw [mute] at eligible
    exact absurd eligible Bool.false_ne_true
  rw [settleLine_unemployed empty off]
  exact ⟨idle, empty⟩

/-- What GO-SETUP leaves whether or not the queue is reported drained. -/
structure InSetup (s v : State) : Prop where
  mode : v.sli.mode = .setup
  drainFlag : v.clc.drainFlag = v.sli.draining
  line : v.clc.line = s.clc.line
  trim : ∀ p, (v.coord p).trim = (s.coord p).trim
  owner : ∀ p d, s.owner p = .localCall d → v.owner p = .none
  budget : ∀ p, v.budget p = s.budget p
  entries : ∀ e ∈ v.clc.queue, e.command.isPriorityAnswer = false ∧ e.command.isRouteClear = false ∧ e.command ≠ .beacon
  ps : v.ps = s.ps.toSetup
  routes : v.pm.routes = []
  free : v.pt.freeCount = 64
  emptied : Emptied v
  unheard : Unheard v
  ident : ∀ p, (v.ident p).retry = none ∧ (v.ident p).reprobe = none ∧ (v.ident p).byRequest = false
  health : ∀ p, (v.health p).probeDeadline = none ∧ (v.health p).quietTimer = none ∧ (v.health p).stage = .none

theorem SetUp.inSetup {s u : State} (h : SetUp s u) : InSetup s u where
  mode := h.mode
  drainFlag := h.drainFlag.trans h.draining.symm
  line := h.line
  trim := h.trim
  owner := h.owner
  budget := h.budget
  entries := h.entries
  ps := h.ps
  routes := h.routes
  free := h.free
  emptied := h.emptied
  unheard := h.unheard
  ident := fun p => by rw [h.ident]; exact ⟨rfl, rfl, rfl⟩
  health := fun p => by rw [h.health]; exact ⟨rfl, rfl, rfl⟩

theorem SetUp.drained {s u v : State} (h : SetUp s u) (d : DrainedSetup u v) : InSetup s v where
  mode := d.mode
  drainFlag := d.drainFlag.trans d.draining.symm
  line := d.line.trans h.line
  trim := fun p => (d.trim p).trans (h.trim p)
  owner := fun p e called => d.owner p (h.owner p e called)
  budget := fun p => (d.budget p).trans (h.budget p)
  entries := fun e he => h.entries e (d.queue e he)
  ps := d.ps.trans h.ps
  routes := d.routes
  free := d.free.trans h.free
  emptied := d.emptied
  unheard := d.unheard
  ident := fun p => by rw [d.ident]; exact ⟨rfl, rfl, rfl⟩
  health := fun p => by rw [d.health]; exact ⟨rfl, rfl, rfl⟩

/-- The state in which GO-SETUP asks whether anything is left to send, and what it does then. -/
theorem goSetup_cases (s : State) :
    ∃ u, SetUp s u ∧ ((lineEmpty u = true ∧ DrainedSetup u (reportIfDrained (released s))) ∨
      (lineEmpty u = false ∧ reportIfDrained (released s) = u)) := by
  have h := released_setUp s
  refine ⟨released s, h, ?_⟩
  have resting (p : Pos) : coordinated ((released s).coord p).state = false := by
    rw [h.state]
    unfold releasedState
    split <;> rfl
  by_cases waits : lineEmpty (released s) = true
  · refine .inl ⟨waits, ?_⟩
    have drains : reportIfDrained (released s) = Machine.drained (released s) := if_pos ⟨h.drainFlag, waits⟩
    rw [drains]
    exact drained_setup h.mode resting h.routes h.emptied h.unheard
  · exact .inr ⟨by simpa using waits, if_neg (fun both => waits both.2)⟩

theorem lineEmpty_iff (s : State) : lineEmpty s = true ↔ s.clc.queue = [] ∧ s.clc.line = .idle := by
  unfold lineEmpty
  simp

/-- What GO-SETUP leaves of each position. -/
structure PositionsSetUp (s t : State) : Prop where
  draining : t.sli.draining = true ↔ t.clc.line ≠ .idle
  taken : s.clc.line ≠ .idle → t.clc.line = s.clc.line
  nothing : s.clc.line = .idle → s.clc.queue = [] → s.pm.routes = [] → (∀ p, coordinated (s.coord p).state = false) →
    t.sli.draining = false
  waits : t.sli.draining = true → ∀ p, (t.coord p).state = releasedState (s.coord p).state ∧
    (t.ident p).state = (s.ident p).state ∧ (t.health p).state = (s.health p).state
  drained : t.sli.draining = false → ∀ p, t.clc.queue = [] ∧ (t.ident p).state = .unknown ∧ t.health p = Health.reset ∧
    (t.coord p).state = if (s.ident p).state = .identified then .unseen else releasedState (s.coord p).state
  runLocal : ∀ p, coordinated (s.coord p).state = true → runLocalFits s p (12 + members s) → runLocalQueued t p

theorem goSetup_leaves (s : State) :
    (∃ v, InSetup s v ∧ settleLine (reportIfDrained (released s)) = settleLine v) ∧
      PositionsSetUp s (settleLine (reportIfDrained (released s))) := by
  obtain ⟨u, h, ⟨empty, d⟩ | ⟨busy, same⟩⟩ := goSetup_cases s
  · generalize reportIfDrained (released s) = v at *
    obtain ⟨none, idle⟩ := (lineEmpty_iff u).1 empty
    have nil : v.clc.queue = [] := List.eq_nil_iff_forall_not_mem.2 (fun e he => by
      have old := d.queue e he
      rw [none] at old
      exact List.not_mem_nil old)
    obtain ⟨line, queue⟩ := (settleLine_setup_line d.mode).2 (d.line.trans idle) nil
    have settles := settles_settleLine v
    have draining : (settleLine v).sli.draining = false := settles.draining.trans d.draining
    have idle' : s.clc.line = .idle := h.line.symm.trans idle
    refine ⟨⟨v, h.drained d, rfl⟩, ⟨?_, fun taken => absurd idle' taken, fun _ _ _ _ => draining, ?_, ?_, ?_⟩⟩
    · rw [draining, line]
      exact ⟨fun h => absurd h Bool.false_ne_true, fun h => absurd rfl h⟩
    · intro is
      rw [draining] at is
      exact absurd is Bool.false_ne_true
    · intro _ p
      have ident : (settleLine v).ident p = v.ident p := congrArg (fun w : Vector Ident 12 => w.get p) settles.ident
      have health : (settleLine v).health p = v.health p := congrArg (fun w : Vector Health 12 => w.get p) settles.health
      have coord : (settleLine v).coord p = v.coord p := congrArg (fun oc : Coordinator => oc.positions.get p) settles.oc
      refine ⟨queue, by rw [ident, d.ident]; rfl, by rw [health, d.health], ?_⟩
      rw [coord, d.state, h.state, h.ident]
      rfl
    · intro p steer fits
      obtain ⟨e, he, -⟩ := h.runLocal p steer fits
      rw [none] at he
      exact absurd he List.not_mem_nil
  · rw [same]
    have settles := settles_settleLine u
    have draining : (settleLine u).sli.draining = true := settles.draining.trans h.draining
    have line : (settleLine u).clc.line ≠ .idle := by
      by_cases idle : u.clc.line = .idle
      · exact (settleLine_setup h.mode (fun e he => (h.entries e he).2.2)).2 (fun none => by
          rw [(lineEmpty_iff u).2 ⟨none, idle⟩] at busy
          exact absurd busy.symm Bool.false_ne_true)
      · rw [(settleLine_setup_line h.mode).1 idle]
        exact idle
    refine ⟨⟨u, h.inSetup, rfl⟩, ⟨⟨fun _ => line, fun _ => draining⟩, fun taken => ?_, fun idle none routes resting => ?_,
      fun _ p => ?_, ?_, fun p steer fits => runLocalQueued_finish (h.runLocal p steer fits)⟩⟩
    · rw [(settleLine_setup_line h.mode).1 (by rw [h.line]; exact taken), h.line]
    · rw [(lineEmpty_iff u).2 ⟨h.empty none routes resting, h.line.trans idle⟩] at busy
      exact absurd busy.symm Bool.false_ne_true
    · have ident : (settleLine u).ident p = u.ident p := congrArg (fun w : Vector Ident 12 => w.get p) settles.ident
      have health : (settleLine u).health p = u.health p := congrArg (fun w : Vector Health 12 => w.get p) settles.health
      have coord : (settleLine u).coord p = u.coord p := congrArg (fun oc : Coordinator => oc.positions.get p) settles.oc
      exact ⟨by rw [coord, h.state], by rw [ident, h.ident]; rfl, by rw [health, h.health]; rfl⟩
    · intro is
      rw [draining] at is
      exact absurd is.symm Bool.false_ne_true

theorem goSetup_moves (s : State) : Moves false true (setupBegun s) (settleLine (reportIfDrained (released s))) := by
  have localised : Moves false true (setupBegun s) (forPositions coordSetupAt (setupBegun s)) :=
    Moves.forPositions (f := coordSetupAt) (fun p _ h => Moves.coordSetupAt p h) (.refl _)
  exact Moves.settleLine (Moves.reportIfDrained (Moves.dropBeacon (Moves.withdraw _
    (Moves.identifySetup (Moves.clearWatch (Moves.flushPool (Moves.releasePriority localised)))))))

/-- Settles O51: the positions go to LOCAL and the owners are released; what is left to send is drained. -/
theorem goSetupReleasesTheRoad : Obligations.GoSetupReleasesTheRoad := by
  unfold Obligations.GoSetupReleasesTheRoad
  intro s ready live
  have handled : goSetup (frameTaken s) = (settleLine (reportIfDrained (released (frameTaken s))), .done .none) := by
    rw [← goSetupNow_eq]
    exact if_pos live
  have run := onRequest_result (k := .goSetup) (handle := fun (_ : Unit) s => goSetup s) (x := ()) ready handled
  have moves := goSetup_moves (frameTaken s)
  have stores := moves.leavesStores
  have router := moves.router
  obtain ⟨⟨v, h, same⟩, positions⟩ := goSetup_leaves (frameTaken s)
  have settles := settles_settleLine v
  have noBeacon : ∀ e ∈ v.clc.queue, e.command ≠ .beacon := fun e he => (h.entries e he).2.2
  have undue := (settleLine_setup h.mode noBeacon).1
  have entries : ∀ e ∈ (settleLine v).clc.queue,
      e.command.isPriorityAnswer = false ∧ e.command.isRouteClear = false ∧ e.command ≠ .beacon := fun e he => by
    obtain ⟨x, hx, core⟩ := mem_finish (s := v) he
    rw [core_command core]
    exact h.entries x hx
  rw [← same] at settles undue entries
  refine ⟨_, congrArg Host.Outcome.next run, ?_⟩
  generalize settleLine (reportIfDrained (released (frameTaken s))) = t at *
  have ident (p : Pos) : t.ident p = v.ident p := congrArg (fun w : Vector Ident 12 => w.get p) settles.ident
  have health (p : Pos) : t.health p = v.health p := congrArg (fun w : Vector Health 12 => w.get p) settles.health
  refine ⟨settles.mode.trans h.mode, rfl, settles.drainFlag.trans (h.drainFlag.trans settles.draining.symm), positions.draining,
    positions.taken, positions.nothing, fun p => ⟨fun is => positions.waits is p, fun is => positions.drained is p⟩,
    positions.runLocal, fun p => ?_, fun p d called => ?_, fun p => ?_, entries, settles.ps.trans h.ps,
    (congrArg Priority.routes settles.pm).trans h.routes, (congrArg Tracker.freeCount settles.pt).trans h.free,
    h.emptied.same (.ofTracker settles.pt), fun p a => (h.unheard.ofWatch settles.qw).approach p a, fun p => ?_, fun p => ?_,
    undue, stores.ctb, stores.pl, stores.config, router, stores.limits, stores.policy⟩
  · exact (congrArg (fun oc : Coordinator => (oc.positions.get p).trim) settles.oc).trans (h.trim p)
  · exact (congrArg (fun pm : Priority => pm.owners.get p) settles.pm).trans (h.owner p d called)
  · exact (congrArg (fun pm : Priority => pm.budgets.get p) settles.pm).trans (h.budget p)
  · have kept := h.ident p
    rw [← ident] at kept
    exact kept
  · have kept := h.health p
    rw [← health] at kept
    exact kept

end Sys2Proof.Proofs.SetupEntry
end

section
/-! PROOF. Command points (O16): the adjustment, the main green, and the TIMING-SET that is offered. -/

open Sys2Proof Sys2Proof.Machine

namespace Sys2Proof.Proofs.CommandPoints

open Settings Answers Roads Coordination StatusReplies Identifications

/-! ### The main green (R27, R28, R33) -/

theorem clampNat_eq {lo hi : Nat} (h : lo ≤ hi) (x : Nat) : clampNat lo hi x = max lo (min x hi) := by
  unfold clampNat
  split
  · omega
  · split <;> omega

theorem targetMain_unpaced {s : State} {p : Pos} (h : (s.ident p).mode ≠ some .paced) (e : PlanEntry) :
    targetMain s p e =
      let overlaid := if (s.qw.overlays p).flush = true then e.maxMain
        else if (s.qw.overlays p).gate = true ∨ (s.qw.overlays p).sideRelief = true then e.minMain else baseMain s p e
      match (s.coord p).grant with
      | none => overlaid
      | some extension => min (overlaid + extension) e.maxMain := by
  unfold targetMain ungrantedMain
  dsimp only
  rw [if_neg h]
  cases (s.coord p).grant with
  | none => rfl
  | some g => exact if_neg h

theorem timingFor_mainGreen {e : PlanEntry} (h : e.minMain ≤ e.maxMain) (s : State) (p : Pos) (slot : SlotIx) (a : Int) :
    (timingFor s p slot e a).mainGreen =
      if (s.ident p).mode = some .paced then none
      else some (min (max e.minMain (min (targetMain s p e) e.maxMain))
        ((s.ctb.cycleLength : Int) + a - e.lostTime - e.sideMin).toNat) := by
  unfold timingFor
  dsimp only
  rw [clampNat_eq h]

/-! ### The record at a command point (R30, R32) -/

/-- A record whose measurement is not stale (R32). -/
def unstale (s : State) (c : Coord) : Coord :=
  match c.measured with
  | some m => if elapsed s.now m.time > s.ctb.cycleLength then { c with measured := none } else c
  | none => c

/-- A record with its direction chosen afresh (R30). -/
def rechosen (p : Pos) (s : State) (c : Coord) : Coord :=
  match c.state, c.target, c.measured with
  | .seeking _, some t, some m => { c with state := .seeking (freshDirection p t.offset m.offset s) }
  | _, _, _ => c

theorem rechosen_seeking {p : Pos} {c : Coord} {way : SeekDirection} {t : Target} {m : Measured} (hs : c.state = .seeking way)
    (ht : c.target = some t) (hm : c.measured = some m) (s : State) :
    rechosen p s c = { c with state := .seeking (freshDirection p t.offset m.offset s) } := by
  unfold rechosen
  rw [hs, ht, hm]

theorem rechosen_other {p : Pos} {c : Coord}
    (h : ∀ way t m, c.state = .seeking way → c.target = some t → c.measured = some m → False) (s : State) :
    rechosen p s c = c := by
  unfold rechosen
  split
  · next way t m hs ht hm => exact absurd hm (h way t m hs ht)
  · rfl

/-- From `s` to `t` the record of `p` becomes `c`, and nothing else differs. -/
structure Records (p : Pos) (c : Coord) (s t : State) : Prop where
  rest : t = { s with oc := t.oc }
  limits : t.oc.limits = s.oc.limits
  others : ∀ q, q ≠ p → t.coord q = s.coord q
  own : t.coord p = c

namespace Records

variable {p : Pos} {c : Coord} {s t : State}

theorem rfl' (p : Pos) (s : State) : Records p (s.coord p) s s := ⟨rfl, rfl, fun _ _ => rfl, rfl⟩

theorem withCoord (h : Records p c s t) (f : Coord → Coord) : Records p (f c) s (t.withCoord p f) where
  rest := by
    rw [h.rest]
    rfl
  limits := h.limits
  others q hq := (State.withCoord_coord t p q f).trans ((if_neg (Ne.symm hq)).trans (h.others q hq))
  own := (State.withCoord_coord t p p f).trans ((if_pos rfl).trans (congrArg f h.own))

theorem now (h : Records p c s t) : t.now = s.now := by
  rw [h.rest]
  rfl

theorem cycleLength (h : Records p c s t) : t.ctb.cycleLength = s.ctb.cycleLength := by rw [h.rest]

theorem imageEntry (h : Records p c s t) (q : Pos) : t.imageEntry q = s.imageEntry q := by
  rw [h.rest]
  rfl

theorem dropStale (h : Records p c s t) : Records p (unstale s c) s (dropStale p t) := by
  unfold Machine.dropStale unstale
  rw [h.own]
  cases c.measured with
  | none => exact h
  | some m =>
    dsimp only
    rw [h.now, h.cycleLength]
    split
    · exact h.withCoord (fun c => { c with measured := none })
    · exact h

theorem freshDirection (h : Records p c s t) (target measured : Nat) :
    freshDirection p target measured t = freshDirection p target measured s := by
  unfold Machine.freshDirection
  rw [h.imageEntry, h.limits, h.cycleLength]

theorem rechoose (h : Records p c s t) : Records p (rechosen p s c) s (rechoose p t) := by
  unfold Machine.rechoose
  dsimp only
  rw [h.own]
  split
  · next way target m hs ht hm =>
    rw [rechosen_seeking hs ht hm, h.freshDirection]
    exact h.withCoord (fun c => { c with state := .seeking (Machine.freshDirection p target.offset m.offset s) })
  · next other =>
    rw [rechosen_other other]
    exact h

theorem baseMain (h : Records p c s t) (e : PlanEntry) : baseMain t p e = baseMain s p e := by
  unfold Machine.baseMain
  rw [h.limits, h.rest]
  rfl

/-- A TIMING-SET is built as from the state before, while the grant stands. -/
theorem timingFor (h : Records p c s t) (grant : c.grant = (s.coord p).grant) (slot : SlotIx) (e : PlanEntry) (a : Int) :
    timingFor t p slot e a = timingFor s p slot e a := by
  have ungranted : ungrantedMain t p e = ungrantedMain s p e := by
    unfold ungrantedMain
    rw [h.baseMain, h.rest]
    rfl
  have target : targetMain t p e = targetMain s p e := by
    unfold targetMain
    rw [ungranted, h.own, grant]
    rw [show t.ident p = s.ident p by rw [h.rest]; rfl]
  unfold Machine.timingFor
  rw [target, h.cycleLength, show t.ident p = s.ident p by rw [h.rest]; rfl]

/-- An offer looks at no coordination record. -/
theorem offerEntry (h : Records p c s t) (e : QueueEntry) :
    (offerEntry e t).1.clc.queue = (offerEntry e s).1.clc.queue := by
  rw [h.rest]
  unfold Machine.offerEntry
  dsimp only
  have opens : offerOpen { s with oc := t.oc } e.command = offerOpen s e.command := rfl
  rw [opens]
  split
  · rfl
  · split
    · rfl
    · split
      · rfl
      · split
        · rfl
        · split
          · rfl
          · split
            · rfl
            · rw [Keeps.evicted_queue]
              exact (Keeps.evicted_queue _ (s.withQueue _)).symm

end Records

theorem unstale_fields (s : State) (c : Coord) :
    (unstale s c).state = c.state ∧ (unstale s c).target = c.target ∧ (unstale s c).trim = c.trim ∧
      (unstale s c).grant = c.grant ∧ (unstale s c).commanded = c.commanded := by
  unfold unstale
  split
  · split <;> exact ⟨rfl, rfl, rfl, rfl, rfl⟩
  · exact ⟨rfl, rfl, rfl, rfl, rfl⟩

theorem rechosen_fields (p : Pos) (s : State) (c : Coord) :
    (rechosen p s c).target = c.target ∧ (rechosen p s c).trim = c.trim ∧ (rechosen p s c).grant = c.grant ∧
      (rechosen p s c).commanded = c.commanded := by
  unfold rechosen
  split <;> exact ⟨rfl, rfl, rfl, rfl⟩

/-! ### The TIMING-SET of a command point (R31, R33) -/

/-- The record of a position as its command point has been examined. -/
def pointed (p : Pos) (s : State) : Coord := rechosen p s (unstale s { s.coord p with commanded := true })

/-- The TIMING-SET that a command point offers under an image entry. -/
def pointTiming (p : Pos) (s : State) (slot : SlotIx) (e : PlanEntry) : TimingSet :=
  timingFor s p slot e (adjustment (pointed p s) s.oc.limits e s.ctb.cycleLength)

theorem handleCommandPoint_offers {p : Pos} {s : State} {slot : SlotIx} {plan : Plan} {e : PlanEntry}
    (image : s.ps.image = some { slot := slot, plan := plan }) (entry : plan.entries.get p = some e) :
    ∃ u, Records p { pointed p s with grant := none } s u ∧
      handleCommandPoint p s = (offerTo (.timingSet (pointTiming p s slot e)) p none u).1 := by
  have examined : Records p (pointed p s) s (rechoose p (dropStale p (s.withCoord p (fun c => { c with commanded := true })))) :=
    (((Records.rfl' p s).withCoord (fun c => { c with commanded := true })).dropStale).rechoose
  have grant : (pointed p s).grant = (s.coord p).grant :=
    (rechosen_fields p s _).2.2.1.trans (unstale_fields s _).2.2.2.1
  unfold handleCommandPoint
  dsimp only
  generalize rechoose p (dropStale p (s.withCoord p (fun c => { c with commanded := true }))) = u at *
  refine ⟨u.withCoord p (fun c => { c with grant := none }), examined.withCoord (fun c => { c with grant := none }), ?_⟩
  have image' : u.ps.image = some { slot := slot, plan := plan } := by rw [examined.rest]; exact image
  have entry' : u.imageEntry p = some e := by
    rw [examined.imageEntry]
    unfold State.imageEntry
    rw [image]
    exact entry
  rw [image', entry']
  dsimp only
  rw [examined.own, examined.limits, examined.cycleLength, examined.timingFor grant]
  rfl

/-- The entry that carries a TIMING-SET. -/
def timingEntry (p : Pos) (cfg : PositionConfig) (figures : TimingSet) (s : State) : QueueEntry :=
  { command := .timingSet figures, address := cfg.address, position := some p, route := none, joined := s.now,
    attempts := 0, onLine := false }

/-- What a command point that is handled leaves, with the TIMING-SET `figures` offered. -/
structure Pointed (p : Pos) (cfg : PositionConfig) (figures : TimingSet) (s t : State) : Prop where
  queue : t.clc.queue = (offerEntry (timingEntry p cfg figures s) s).1.clc.queue
  room : s.clc.queue.length < 24 → t.ih.ident = s.ih.ident ∧
    t.clc.queue = joinQueue (timingEntry p cfg figures s)
      (s.clc.queue.filter (fun x => !(x.command.isTimingSet && x.position == some p)))
  commanded : (t.coord p).commanded = true
  grant : (t.coord p).grant = none
  trim : (t.coord p).trim = (s.coord p).trim
  target : (t.coord p).target = (s.coord p).target
  others : ∀ q, q ≠ p → t.coord q = s.coord q
  pt : t.pt = s.pt
  qw : t.qw = s.qw
  pm : t.pm = s.pm
  ps : t.ps = s.ps
  er : t.er = s.er
  health : t.ih.health = s.ih.health
  stores : LeavesStores s t

/-- A TIMING-SET that finds room joins behind its class, in place of the one that stands for its position. -/
theorem offerEntry_timing {p : Pos} {cfg : PositionConfig} {figures : TimingSet} {s : State} (live : s.isLive = true)
    (room : s.clc.queue.length < 24) :
    offerEntry (timingEntry p cfg figures s) s = (s.withQueue (joinQueue (timingEntry p cfg figures s)
      (s.clc.queue.filter (fun x => !(x.command.isTimingSet && x.position == some p)))), true) := by
  have opens := offerOpen_live live (.timingSet figures)
  by_cases replaced : ∃ x ∈ s.clc.queue, replaces (.timingSet figures) (some p) x = true
  · exact Offers.offerEntry_replaces (e := timingEntry p cfg figures s) opens (fun barred => nomatch barred.1) replaced
  · have none : ∀ x ∈ s.clc.queue, replaces (.timingSet figures) (some p) x ≠ true := fun x hx hr => replaced ⟨x, hx, hr⟩
    have all : s.clc.queue.filter (fun x => !(x.command.isTimingSet && x.position == some p)) = s.clc.queue :=
      List.filter_eq_self.2 (fun x hx => by
        have not : (x.command.isTimingSet && x.position == some p) ≠ true := none x hx
        rw [Bool.eq_false_of_not_eq_true not]
        rfl)
    rw [all]
    exact (Offers.offerEntry_room (e := timingEntry p cfg figures s) opens (fun barred => nomatch barred.1) none).1 room

theorem commandPoint_handled {p : Pos} {s : State} {slot : SlotIx} {plan : Plan} {e : PlanEntry} {cfg : PositionConfig}
    (due : commandPointDue s p = true) (image : s.ps.image = some { slot := slot, plan := plan })
    (entry : plan.entries.get p = some e) (hc : s.config.get p = some cfg) (steered : s.ps.mode ≠ .free) (taken : lineTaken s) :
    ∃ t, exec (.commandPoint p) s = .next t ∧ Pointed p cfg (pointTiming p s slot e) s t := by
  have live : s.isLive = true := by
    unfold commandPointDue at due
    simp only [Bool.and_eq_true] at due
    exact due.1.1.1.1
  have run : commandPointEvent p s = finish (handleCommandPoint p s) := whenDue_due due
  have moves : Moves false true s (commandPointEvent p s) := Moves.commandPointEvent p (.refl s)
  obtain ⟨u, records, handled⟩ := handleCommandPoint_offers image entry
  have offered := Offered.offerTo (.timingSet (pointTiming p s slot e)) p none u
  have offer : offerTo (.timingSet (pointTiming p s slot e)) p none u =
      offerEntry (timingEntry p cfg (pointTiming p s slot e) s) u := by
    unfold offerTo timingEntry
    rw [show u.config.get p = some cfg by rw [records.rest]; exact hc, records.now]
  have queue := records.offerEntry (timingEntry p cfg (pointTiming p s slot e) s)
  have stores := moves.leavesStores
  have router := moves.router
  rw [run, handled] at stores router
  refine ⟨finish (handleCommandPoint p s), congrArg Host.Outcome.next run, ?_⟩
  rw [handled]
  have line : (offerTo (.timingSet (pointTiming p s slot e)) p none u).1.clc.line = s.clc.line := by
    rw [offered.outcomes.line, records.rest]
  have beacon : beaconCondition (offerTo (.timingSet (pointTiming p s slot e)) p none u).1 = true := by
    unfold beaconCondition State.isLive
    rw [offered.sli, offered.ps, show u.sli = s.sli by rw [records.rest], show u.ps = s.ps by rw [records.rest], image]
    unfold State.isLive at live
    rw [live]
    simp [steered]
  have settled := finish_lineTaken_queue (s := (offerTo (.timingSet (pointTiming p s slot e)) p none u).1)
    (by unfold lineTaken; rw [line]; exact taken) beacon
  have settles := settles_finish (offerTo (.timingSet (pointTiming p s slot e)) p none u).1
  have joined : (offerTo (.timingSet (pointTiming p s slot e)) p none u).1.clc.queue =
      (offerEntry (timingEntry p cfg (pointTiming p s slot e) s) s).1.clc.queue := by rw [offer, queue]
  have coord (q : Pos) : (finish (offerTo (.timingSet (pointTiming p s slot e)) p none u).1).coord q = u.coord q :=
    (finish_coord _ q).trans (congrArg (fun oc : Coordinator => oc.positions.get q) offered.oc)
  have idents : s.clc.queue.length < 24 →
      (offerTo (.timingSet (pointTiming p s slot e)) p none u).1.ih.ident = s.ih.ident := fun room => by
    have live' : u.isLive = true := by rw [records.rest]; exact live
    have room' : u.clc.queue.length < 24 := by rw [records.rest]; exact room
    have stands := offerEntry_timing (p := p) (cfg := cfg) (figures := pointTiming p s slot e) live' room'
    have same : timingEntry p cfg (pointTiming p s slot e) u = timingEntry p cfg (pointTiming p s slot e) s := by
      unfold timingEntry
      rw [records.now]
    rw [same] at stands
    rw [offer, stands, records.rest]
    rfl
  generalize (offerTo (.timingSet (pointTiming p s slot e)) p none u).1 = v at *
  have fields := rechosen_fields p s (unstale s { s.coord p with commanded := true })
  have before := unstale_fields s { s.coord p with commanded := true }
  exact {
    queue := settled.trans joined
    room := fun room => ⟨settles.ident.trans (idents room),
      settled.trans (joined.trans (by rw [offerEntry_timing live room]; rfl))⟩
    commanded := by
      rw [coord, records.own]
      exact fields.2.2.2.trans before.2.2.2.2
    grant := by rw [coord, records.own]
    trim := by
      rw [coord, records.own]
      exact fields.2.1.trans before.2.2.1
    target := by
      rw [coord, records.own]
      exact fields.1.trans before.2.1
    others := fun q hq => (coord q).trans (records.others q hq)
    pt := settles.pt.trans (offered.pt.trans (by rw [records.rest]))
    qw := settles.qw.trans (offered.qw.trans (by rw [records.rest]))
    pm := settles.pm.trans (offered.pm.trans (by rw [records.rest]))
    ps := settles.ps.trans (offered.ps.trans (by rw [records.rest]))
    er := router
    health := settles.health.trans (offered.outcomes.health.trans (by rw [records.rest]))
    stores := stores }

/-! ### The adjustment (R30, R32) -/

theorem pointed_inStep {p : Pos} {s : State} (h : (s.coord p).state = .inStep) : (pointed p s).state = .inStep := by
  have state := (unstale_fields s { s.coord p with commanded := true }).1.trans h
  unfold pointed
  rw [rechosen_other (fun way _ _ hs _ _ => by rw [state] at hs; exact absurd hs nofun)]
  exact state

theorem adjustment_inStep {p : Pos} {s : State} (h : (s.coord p).state = .inStep) (limits : TransitionLimits) (e : PlanEntry)
    (cycle : Nat) : adjustment (pointed p s) limits e cycle = 0 := by
  unfold adjustment
  rw [pointed_inStep h]

theorem adjustment_unmeasured {p : Pos} {s : State} (h : (unstale s { s.coord p with commanded := true }).measured = none)
    (limits : TransitionLimits) (e : PlanEntry) (cycle : Nat) : adjustment (pointed p s) limits e cycle = 0 := by
  unfold pointed
  rw [rechosen_other (fun _ _ _ _ _ hm => by rw [h] at hm; exact absurd hm nofun)]
  unfold adjustment
  split
  · next hm => rw [h] at hm; exact absurd hm nofun
  · rfl

/-- The adjustment of a SEEKING position with a fresh measurement (R30, R32). -/
theorem adjustment_measured {p : Pos} {s : State} {way : SeekDirection} {t : Target} {m : Measured} {e : PlanEntry}
    (hs : (s.coord p).state = .seeking way) (ht : (s.coord p).target = some t) (hm : (s.coord p).measured = some m)
    (fresh : elapsed s.now m.time ≤ s.ctb.cycleLength) (entry : s.imageEntry p = some e) :
    adjustment (pointed p s) s.oc.limits e s.ctb.cycleLength =
      let d := seekDistance t.offset m.offset s.ctb.cycleLength
      match chooseDirection s.oc.limits e s.ctb.cycleLength d with
      | .lengthen => (min d (stepLimit s.oc.limits.lengthen s.ctb.cycleLength) : Nat)
      | .shorten => -((min (min (s.ctb.cycleLength - d) (stepLimit s.oc.limits.shorten s.ctb.cycleLength))
          (room e s.ctb.cycleLength) : Nat) : Int) := by
  have kept : unstale s { s.coord p with commanded := true } = { s.coord p with commanded := true } := by
    unfold unstale
    rw [show ({ s.coord p with commanded := true } : Coord).measured = some m from hm]
    exact if_neg (by omega)
  have chosen : freshDirection p t.offset m.offset s =
      chooseDirection s.oc.limits e s.ctb.cycleLength (seekDistance t.offset m.offset s.ctb.cycleLength) := by
    unfold freshDirection
    rw [entry]
  unfold pointed
  rw [kept, rechosen_seeking (c := { s.coord p with commanded := true }) hs ht hm, chosen]
  unfold adjustment
  dsimp only
  rw [ht, hm] <;> rfl

theorem chooseDirection_lengthens {limits : TransitionLimits} {e : PlanEntry} {c d : Nat}
    (h : room e c = 0 ∨ ceilDiv d (stepLimit limits.lengthen c) ≤ ceilDiv (c - d) (stepLimit limits.shorten c)) :
    chooseDirection limits e c d = .lengthen := by
  unfold chooseDirection
  split
  · rfl
  · next some => exact if_pos (h.resolve_left some)

theorem chooseDirection_shortens {limits : TransitionLimits} {e : PlanEntry} {c d : Nat}
    (h : ¬ (room e c = 0 ∨ ceilDiv d (stepLimit limits.lengthen c) ≤ ceilDiv (c - d) (stepLimit limits.shorten c))) :
    chooseDirection limits e c d = .shorten := by
  unfold chooseDirection
  rw [if_neg (fun none => h (.inl none)), if_neg (fun le => h (.inr le))]

/-- Settles O16: a command point offers the TIMING-SET of its adjustment; the main green by the order of R28. -/
theorem commandPointBuildsTimingSet : Obligations.CommandPointBuildsTimingSet := by
  unfold Obligations.CommandPointBuildsTimingSet
  refine ⟨fun p s slot plan e target cfg due image entry ht hc mode taken => ?_, fun s p slot e a le => ?_, fun s p slot e a g low high fits least green => ?_⟩
  · obtain ⟨t, run, h⟩ := commandPoint_handled due image entry hc mode taken
    have entry' : s.imageEntry p = some e := by
      unfold State.imageEntry
      rw [image]
      exact entry
    intro cycle lmax smax room' builds
    have built (a : Int) (adjusted : adjustment (pointed p s) s.oc.limits e s.ctb.cycleLength = a) (low : 0 ≤ (cycle : Int) + a) :
        builds a := by
      have figures : pointTiming p s slot e = timingFor s p slot e a := by
        unfold pointTiming
        rw [adjusted]
      rw [figures] at h
      exact ⟨t, timingFor s p slot e a, run, rfl, rfl, Int.toNat_of_nonneg low, rfl, ⟨h.queue, h.room⟩, h.commanded, h.grant,
        h.trim, h.target, h.others, h.pt, h.qw, h.pm, h.ps, h.er, h.health, h.stores⟩
    refine ⟨fun hs => built 0 (adjustment_inStep hs _ _ _) (by omega), fun way hs => ⟨fun hm => ?_, fun m hm => ⟨fun stale => ?_,
      fun fresh => ⟨fun lengthens => ?_, fun shortens => ?_⟩⟩⟩⟩
    · refine built 0 (adjustment_unmeasured ?_ _ _ _) (by omega)
      unfold unstale
      rw [show ({ s.coord p with commanded := true } : Coord).measured = none from hm]
      exact hm
    · refine built 0 (adjustment_unmeasured ?_ _ _ _) (by omega)
      unfold unstale
      rw [show ({ s.coord p with commanded := true } : Coord).measured = some m from hm]
      dsimp only
      rw [if_pos stale]
    · refine built _ ?_ (by omega)
      rw [adjustment_measured hs ht hm fresh entry']
      dsimp only
      rw [chooseDirection_lengthens (c := s.ctb.cycleLength) (d := seekDistance target.offset m.offset s.ctb.cycleLength) lengthens]
      rfl
    · refine built _ ?_ (by omega)
      rw [adjustment_measured hs ht hm fresh entry']
      dsimp only
      rw [chooseDirection_shortens (c := s.ctb.cycleLength) (d := seekDistance target.offset m.offset s.ctb.cycleLength) shortens]
      rfl
  · refine (timingFor_mainGreen le s p slot a).trans ?_
    by_cases paced : (s.ident p).mode = some .paced
    · rw [if_pos paced, if_pos paced]
    · rw [if_neg paced, if_neg paced, targetMain_unpaced paced]
      rfl
  · rw [timingFor_mainGreen (low.trans high)] at green
    split at green
    · exact absurd green nofun
    · have whole : (room e s.ctb.cycleLength : Int) = s.ctb.cycleLength - (e.minMain + e.sideMin + e.lostTime) := by
        unfold room
        omega
      rw [Option.some.injEq] at green
      omega

end Sys2Proof.Proofs.CommandPoints
end

section
/-! PROOF. The round deadline, the due polls and the choice of the arbiter (O32). -/

open Sys2Proof Sys2Proof.Machine

namespace Sys2Proof.Proofs.Polls

open Answers Roads Coordination RouteEnds Identifications Forgetting LineResets

/-! ### The next due poll (R135) -/

/-- The earlier due poll of `best` and `p`, the one before where they fall together. -/
def earlierPoll (s : State) (best : Option (Pos × Nat)) (p : Pos) : Option (Pos × Nat) :=
  match s.clc.due.get p with
  | none => best
  | some t =>
    match best with
    | none => some (p, elapsed s.now t)
    | some (q, age) => if elapsed s.now t > age then some (p, elapsed s.now t) else some (q, age)

theorem nextDue_eq (s : State) : nextDue s = positions.foldl (earlierPoll s) none := rfl

/-- Among the positions of `l` the due poll of `p` is the earliest, with `age` ds since its due time, and the first of those. -/
def Earliest (s : State) (l : List Pos) (p : Pos) (age : Nat) : Prop :=
  (∃ time, s.clc.due.get p = some time ∧ age = elapsed s.now time) ∧ p ∈ l ∧
    ∀ q ∈ l, ∀ other, s.clc.due.get q = some other → elapsed s.now other < age ∨ (elapsed s.now other = age ∧ p ≤ q)

/-- What `best` says of the positions of `l`. -/
def BestOf (s : State) (l : List Pos) : Option (Pos × Nat) → Prop
  | none => ∀ q ∈ l, s.clc.due.get q = none
  | some (p, age) => Earliest s l p age

theorem bestOf_snoc {s : State} {l : List Pos} {p : Pos} (after : ∀ q ∈ l, q ≤ p) {best : Option (Pos × Nat)}
    (h : BestOf s l best) : BestOf s (l ++ [p]) (earlierPoll s best p) := by
  unfold earlierPoll
  cases due : s.clc.due.get p with
  | none =>
    cases best with
    | none =>
      intro q hq
      rcases List.mem_append.1 hq with old | new
      · exact h q old
      · rw [List.mem_singleton.1 new, due]
    | some b =>
      obtain ⟨own, mem, least⟩ := h
      refine ⟨own, List.mem_append_left _ mem, fun q hq other is => ?_⟩
      rcases List.mem_append.1 hq with old | new
      · exact least q old other is
      · rw [List.mem_singleton.1 new, due] at is
        exact absurd is nofun
  | some t =>
    cases best with
    | none =>
      refine ⟨⟨t, due, rfl⟩, List.mem_append_right _ List.mem_cons_self, fun q hq other is => ?_⟩
      rcases List.mem_append.1 hq with old | new
      · rw [h q old] at is
        exact absurd is nofun
      · rw [List.mem_singleton.1 new, due, Option.some.injEq] at is
        rw [← is, List.mem_singleton.1 new]
        exact .inr ⟨rfl, le_rfl⟩
    | some b =>
      obtain ⟨q₀, age⟩ := b
      obtain ⟨own, mem, least⟩ := h
      dsimp only
      split
      · next older =>
        refine ⟨⟨t, due, rfl⟩, List.mem_append_right _ List.mem_cons_self, fun q hq other is => ?_⟩
        rcases List.mem_append.1 hq with old | new
        · have := least q old other is
          omega
        · rw [List.mem_singleton.1 new, due, Option.some.injEq] at is
          rw [← is, List.mem_singleton.1 new]
          exact .inr ⟨rfl, le_rfl⟩
      · next younger =>
        refine ⟨own, List.mem_append_left _ mem, fun q hq other is => ?_⟩
        rcases List.mem_append.1 hq with old | new
        · exact least q old other is
        · rw [List.mem_singleton.1 new, due, Option.some.injEq] at is
          rw [← is, List.mem_singleton.1 new]
          rcases Nat.lt_or_ge (elapsed s.now t) age with less | more
          · exact .inl less
          · exact .inr ⟨by omega, after q₀ mem⟩

theorem nextDue_best (s : State) : BestOf s positions (nextDue s) := by
  have fold : ∀ (rest done : List Pos) (best : Option (Pos × Nat)), (done ++ rest).Pairwise (· ≤ ·) → BestOf s done best →
      BestOf s (done ++ rest) (rest.foldl (earlierPoll s) best) := by
    intro rest
    induction rest with
    | nil =>
      intro done best _ h
      rw [List.append_nil]
      exact h
    | cons p rest ih =>
      intro done best sorted h
      have after : ∀ q ∈ done, q ≤ p := fun q hq =>
        (List.pairwise_append.1 sorted).2.2 q hq p List.mem_cons_self
      have next := ih (done ++ [p]) (earlierPoll s best p) (by rwa [List.append_assoc]) (bestOf_snoc after h)
      rwa [List.append_assoc] at next
  rw [nextDue_eq]
  exact fold positions [] none (by decide) (fun q hq => absurd hq List.not_mem_nil)

theorem nextDue_some {s : State} {p : Pos} {time : Time} (due : s.clc.due.get p = some time)
    (first : ∀ q other, s.clc.due.get q = some other →
      elapsed s.now other < elapsed s.now time ∨ (elapsed s.now other = elapsed s.now time ∧ p ≤ q)) :
    nextDue s = some (p, elapsed s.now time) := by
  have best := nextDue_best s
  cases found : nextDue s with
  | none =>
    rw [found] at best
    rw [best p (mem_positions p)] at due
    exact absurd due nofun
  | some b =>
    obtain ⟨q, age⟩ := b
    rw [found] at best
    obtain ⟨⟨other, is, rfl⟩, -, least⟩ := best
    have mine := first q other is
    have his := least p (mem_positions p) time due
    have same : q = p := by
      rcases mine with less | ⟨together, mine⟩
      · rcases his with less' | ⟨equal, -⟩ <;> omega
      · rcases his with less' | ⟨equal, his⟩
        · omega
        · exact le_antisymm his mine
    rw [same] at is ⊢
    rw [due, Option.some.injEq] at is
    rw [is]

theorem nextDue_sound {s : State} {p : Pos} {age : Nat} (h : nextDue s = some (p, age)) :
    ∃ time, s.clc.due.get p = some time ∧ age = elapsed s.now time := by
  have best := nextDue_best s
  rw [h] at best
  exact best.1

theorem overduePoll_none {s : State} (h : ∀ p time, s.clc.due.get p = some time → elapsed s.now time ≤ 5) :
    overduePoll s = none := by
  unfold overduePoll
  split
  · next p age found =>
    obtain ⟨time, due, rfl⟩ := nextDue_sound found
    exact if_neg (by have := h p time due; omega)
  · rfl

/-! ### The choice of the arbiter (R140) -/

theorem choose_entry {s : State} {e : QueueEntry} {rest : List QueueEntry} (queue : s.clc.queue = e :: rest)
    (h : 3 ≤ e.rank ∨ overduePoll s = none) : choose s = .entry e rest := by
  unfold choose
  rw [queue]
  cases late : overduePoll s with
  | none => rfl
  | some p => exact if_pos (h.resolve_right (by rw [late]; nofun))

theorem choose_poll {s : State} {p : Pos} {age : Nat} (next : nextDue s = some (p, age))
    (h : s.clc.queue = [] ∨ (5 < age ∧ ∀ e, s.clc.queue.head? = some e → e.rank < 3)) : choose s = .poll p := by
  have late : overduePoll s = if age > 5 then some p else none := by
    unfold overduePoll
    rw [next]
  unfold choose
  rw [late]
  rcases h with empty | ⟨old, low⟩
  · rw [empty]
    by_cases old : age > 5
    · rw [if_pos old]
    · rw [if_neg old]
      dsimp only
      rw [next]
  · rw [if_pos old]
    cases queue : s.clc.queue with
    | nil => rfl
    | cons e rest => exact if_neg (by
        have := low e (by rw [queue]; rfl)
        have rank : classRank .beacon = 3 := rfl
        omega)

/-- The exchange of a scheduled poll. -/
def pollOf (p : Pos) (cfg : PositionConfig) (s : State) : Exchange :=
  { work := .poll, position := some p, address := cfg.address, frame := .poll (s.clc.accepted.get p), phase := .sending }

theorem beginPoll_begins {p : Pos} {cfg : PositionConfig} {s : State} (hc : s.config.get p = some cfg) :
    beginPoll p s =
      { s with clc := ({ s.clc with due := s.clc.due.set p.val none } : LineController).begin (pollOf p cfg s) } := by
  unfold beginPoll
  dsimp only
  rw [hc]
  rfl

/-- The state as the arbiter sees it at the end of a handling. -/
def settled (s : State) : State := followSilence (dropDue s)

theorem settled_due (s : State) (p : Pos) : (settled s).clc.due.get p = if pollEligible s p then s.clc.due.get p else none :=
  get_ofFn _ p

theorem settled_queue (s : State) : (settled s).clc.queue = s.clc.queue := rfl

theorem finish_entry {s : State} {e : QueueEntry} {rest : List QueueEntry} (idle : s.clc.line = .idle) (beacon : dropBeacon s = s)
    (first : choose (settled s) = .entry e rest) : (finish s).clc = (beginEntry e rest (settled s)).clc := by
  rw [finish_clc]
  unfold settleLine
  rw [beacon]
  unfold arbiterRun
  rw [if_pos (show (followSilence (dropDue s)).clc.line = .idle from idle),
    show choose (followSilence (dropDue s)) = .entry e rest from first]
  rfl

theorem finish_poll {s : State} {p : Pos} (idle : s.clc.line = .idle) (beacon : dropBeacon s = s)
    (first : choose (settled s) = .poll p) : (finish s).clc = (beginPoll p (settled s)).clc := by
  rw [finish_clc]
  unfold settleLine
  rw [beacon]
  unfold arbiterRun
  rw [if_pos (show (followSilence (dropDue s)).clc.line = .idle from idle),
    show choose (followSilence (dropDue s)) = .poll p from first]
  rfl

/-- A poll that begins: its due time goes, and the others stand as they are. -/
theorem poll_begins {s t : State} {p : Pos} {cfg : PositionConfig} (clc : t.clc = (beginPoll p (settled s)).clc)
    (hc : s.config.get p = some cfg) :
    t.clc.queue = s.clc.queue ∧ t.clc.due.get p = none ∧
      (∀ q, q ≠ p → t.clc.due.get q = if pollEligible s q then s.clc.due.get q else none) ∧
      t.clc.line = .exchange { work := .poll, position := some p, address := cfg.address,
                               frame := .poll (s.clc.accepted.get p), phase := .sending } ∧
      t.clc.driverEnable = true ∧ t.clc.txLevel = .frame := by
  rw [clc, beginPoll_begins (s := settled s) hc]
  refine ⟨rfl, (get_set _ p p _).trans (if_pos rfl), fun q hq => ?_, rfl, rfl, rfl⟩
  exact (get_set _ p q _).trans ((if_neg (Ne.symm hq)).trans (settled_due s q))

/-! ### The round deadline (R135) -/

theorem roundExpiry_due (s : State) (p : Pos) :
    (roundExpiry s).clc.due.get p = if pollEligible s p then some ((s.clc.due.get p).getD s.now) else s.clc.due.get p :=
  get_ofFn _ p

theorem roundEvent_runs {s : State} (h : s.clc.roundDeadline = s.now) : roundEvent s = finish (roundExpiry s) :=
  whenDue_due (by rw [h]; exact beq_self_eq_true _)

theorem roundExpiry_settles (s : State) :
    Settles { s with clc := { s.clc with roundDeadline := later s.now s.clc.pollRound } } (finish (roundExpiry s)) := by
  have begun : Settles { s with clc := { s.clc with roundDeadline := later s.now s.clc.pollRound } } (roundExpiry s) := by
    constructor <;> rfl
  exact begun.trans (settles_finish _)

/-- Settles O32: the round makes polls due, and the arbiter chooses by the earliest due poll. -/
theorem pollsMadeDueAndChosen : Obligations.PollsMadeDueAndChosen := by
  unfold Obligations.PollsMadeDueAndChosen
  refine ⟨fun s deadline => ⟨fun taken => ?_, fun p cfg idle empty undue eligible before hc => ?_⟩, fun s line flag beacon => ?_⟩
  · refine ⟨finish (roundExpiry s), congrArg Host.Outcome.next (roundEvent_runs deadline), roundExpiry_settles s, fun p => ?_⟩
    obtain ⟨-, -, -, -, due⟩ := finish_lineTaken (s := roundExpiry s) taken
    rw [due p, roundExpiry_due]
    have same : pollEligible (roundExpiry s) p = pollEligible s p := rfl
    rw [same]
    split <;> rfl
  · have due (q : Pos) : (roundExpiry s).clc.due.get q = if pollEligible s q then some s.now else none := by
      rw [roundExpiry_due, undue]
      rfl
    have settledDue (q : Pos) : (settled (roundExpiry s)).clc.due.get q = if pollEligible s q then some s.now else none := by
      rw [settled_due, due]
      have same : pollEligible (roundExpiry s) q = pollEligible s q := rfl
      rw [same]
      split <;> rfl
    have next : nextDue (settled (roundExpiry s)) = some (p, elapsed s.now s.now) :=
      nextDue_some ((settledDue p).trans (if_pos eligible)) (fun q other is => by
        rw [settledDue] at is
        split at is
        · next own =>
          rw [Option.some.injEq] at is
          rw [← is]
          refine .inr ⟨rfl, ?_⟩
          by_contra less
          rw [before q (lt_of_not_ge less)] at own
          exact Bool.false_ne_true own
        · exact absurd is nofun)
    have absent : dropBeacon (roundExpiry s) = roundExpiry s := dropBeacon_absent (fun e he => by
      rw [show (roundExpiry s).clc.queue = [] from empty] at he
      exact absurd he List.not_mem_nil)
    have clc := finish_poll (s := roundExpiry s) idle absent (choose_poll next (.inl empty))
    obtain ⟨-, own, others, begun, driver, -⟩ := poll_begins clc hc
    refine ⟨finish (roundExpiry s), congrArg Host.Outcome.next (roundEvent_runs deadline), roundExpiry_settles s, begun, driver, own,
      fun q hq => (others q hq).trans ?_⟩
    rw [due]
    have same : pollEligible (roundExpiry s) q = pollEligible s q := rfl
    rw [same]
    split <;> rfl
  · have undrained : reportIfDrained { s with clc := s.clc.released } = { s with clc := s.clc.released } :=
      if_neg (fun h => by
        have flagged : s.clc.drainFlag = true := h.1
        rw [flag] at flagged
        exact Bool.false_ne_true flagged)
    have run : breakEvent s = finish { s with clc := s.clc.released } := by
      unfold breakEvent
      rw [line]
      exact (if_pos rfl).trans (congrArg finish undrained)
    have absent : dropBeacon { s with clc := s.clc.released } = { s with clc := s.clc.released } := by
      rcases beacon with condition | none
      · unfold dropBeacon
        exact if_pos condition
      · exact dropBeacon_absent none
    have released : Settles s { s with clc := s.clc.released } := by constructor <;> rfl
    have due (q : Pos) : (settled { s with clc := s.clc.released }).clc.due.get q =
        if pollEligible s q then s.clc.due.get q else none := settled_due _ q
    refine ⟨_, congrArg Host.Outcome.next run, released.trans (settles_finish _), fun e rest queue h => ?_,
      fun p time cfg first hc h => ?_, fun empty undue => ?_⟩
    · have chosen : choose (settled { s with clc := s.clc.released }) = .entry e rest :=
        choose_entry queue (h.imp_right (fun not => overduePoll_none (fun p time is => by
          rw [due] at is
          by_contra late
          exact not ⟨p, time, is, lt_of_not_ge late⟩)))
      have clc := finish_entry (s := { s with clc := s.clc.released }) rfl absent chosen
      rw [clc]
      exact ⟨rfl, due, rfl, rfl, rfl⟩
    · have next : nextDue (settled { s with clc := s.clc.released }) = some (p, elapsed s.now time) :=
        nextDue_some ((due p).trans first.1) (fun q other is => first.2 q other ((due q).symm.trans is))
      exact poll_begins (s := { s with clc := s.clc.released }) (finish_poll rfl absent (choose_poll next h)) hc
    · obtain ⟨idle, driver, level, -⟩ := finish_unemployed (s := { s with clc := s.clc.released }) empty (fun p eligible => by
        exact (if_pos eligible).symm.trans (undue p))
      exact ⟨idle, driver, level⟩

end Sys2Proof.Proofs.Polls
end

section
/-! PROOF. The passes of a cycle mark over the positions: what they leave, and what each makes of a coordination record (used by
O11 to O14). -/

open Sys2Proof Sys2Proof.Machine

namespace Sys2Proof.Proofs.MarkPasses

open Settings Answers Roads Coordination StatusReplies CommandPoints

/-! ### What the steps of the Offset Coordinator leave -/

/-- From `s` to `t` coordination records, the queue, retry deadlines and the notices apart, nothing differs. -/
structure Steers (s t : State) : Prop where
  pending : t.pending = s.pending
  ctb : t.ctb = s.ctb
  limits : t.oc.limits = s.oc.limits
  pt : t.pt = s.pt
  qw : t.qw = s.qw
  pm : t.pm = s.pm
  pl : t.pl = s.pl
  ps : t.ps = s.ps
  er : t.er = s.er
  config : t.config = s.config
  accepted : t.clc.accepted = s.clc.accepted
  outcomes : LeavesOutcomes s t
  sli : { t.sli with notices := [], overrun := 0 } = { s.sli with notices := [], overrun := 0 }
  ident : ∀ q, { t.ident q with retry := none } = { s.ident q with retry := none }

namespace Steers

theorem rfl' (s : State) : Steers s s := by constructor <;> first | rfl | exact .rfl' s | exact fun _ => rfl

theorem trans {a b c : State} (h : Steers a b) (g : Steers b c) : Steers a c :=
  ⟨g.pending.trans h.pending, g.ctb.trans h.ctb, g.limits.trans h.limits, g.pt.trans h.pt, g.qw.trans h.qw,
    g.pm.trans h.pm, g.pl.trans h.pl, g.ps.trans h.ps, g.er.trans h.er, g.config.trans h.config,
    g.accepted.trans h.accepted, h.outcomes.trans g.outcomes, g.sli.trans h.sli, fun q => (g.ident q).trans (h.ident q)⟩

theorem ofCoord {s t : State} (h : CoordOnly s t) : Steers s t where
  pending := h.pending
  ctb := h.ctb
  limits := h.limits
  pt := h.pt
  qw := h.qw
  pm := h.pm
  pl := h.pl
  ps := h.ps
  er := h.er
  config := h.config
  accepted := by rw [h.clc]
  outcomes := by
    have draining := congrArg Supervisory.draining h.sli
    constructor <;> first | rw [h.ih] | rw [h.clc] | exact draining
  sli := h.sli
  ident q := by rw [show t.ident q = s.ident q from congrArg (fun ih : Machine.Identification => ih.ident.get q) h.ih]

theorem withdraw (w : QueueEntry → Bool) (s : State) : Steers s (withdraw w s) := by
  constructor <;> first | rfl | exact (Offered.withdraw w s).outcomes | exact fun _ => rfl

theorem offerTo (c : LineCommand) (p : Pos) (route : Option RouteRef) (s : State) : Steers s (offerTo c p route s).1 where
  pending := (Offered.offerTo c p route s).pending
  ctb := (Offered.offerTo c p route s).ctb
  limits := congrArg Coordinator.limits (Offered.offerTo c p route s).oc
  pt := (Offered.offerTo c p route s).pt
  qw := (Offered.offerTo c p route s).qw
  pm := (Offered.offerTo c p route s).pm
  pl := (Offered.offerTo c p route s).pl
  ps := (Offered.offerTo c p route s).ps
  er := (Offered.offerTo c p route s).er
  config := (Offered.offerTo c p route s).config
  accepted := (Offered.offerTo c p route s).accepted
  outcomes := (Offered.offerTo c p route s).outcomes
  sli := by rw [(Offered.offerTo c p route s).sli]
  ident := (Road.offerTo (wide := false) (A := fun _ => True) (C := fun _ => True) trivial trivial route s).ident

theorem now {s t : State} (h : Steers s t) : t.now = s.now := congrArg TimeBase.runningTime h.ctb

theorem mode {s t : State} (h : Steers s t) : t.sli.mode = s.sli.mode := (congrArg Supervisory.mode h.sli :)

theorem isLive {s t : State} (h : Steers s t) : t.isLive = s.isLive := by
  unfold State.isLive
  rw [h.mode]

theorem imageEntry {s t : State} (h : Steers s t) (p : Pos) : t.imageEntry p = s.imageEntry p := by
  unfold State.imageEntry
  rw [h.ps]

theorem owner {s t : State} (h : Steers s t) (p : Pos) : t.owner p = s.owner p :=
  congrArg (fun pm : Priority => pm.owners.get p) h.pm

theorem health {s t : State} (h : Steers s t) (p : Pos) : t.health p = s.health p :=
  congrArg (fun v : Vector Health 12 => v.get p) h.outcomes.health

theorem identMode {s t : State} (h : Steers s t) (p : Pos) : (t.ident p).mode = (s.ident p).mode :=
  (congrArg Ident.mode (h.ident p) :)

theorem identState {s t : State} (h : Steers s t) (p : Pos) : (t.ident p).state = (s.ident p).state :=
  (congrArg Ident.state (h.ident p) :)

theorem offerOpen {s t : State} (h : Steers s t) (c : LineCommand) : offerOpen t c = offerOpen s c := by
  unfold Machine.offerOpen
  rw [h.isLive, h.outcomes.drainFlag]

end Steers

/-! ### A handling of one position -/

/-- A handling of the record of one position: of the coordination records only its own differs. -/
structure SteersAt (p : Pos) (s t : State) : Prop where
  steers : Steers s t
  others : ∀ q, q ≠ p → t.coord q = s.coord q

namespace SteersAt

variable {p : Pos} {a b c s t : State}

theorem rfl' (p : Pos) (s : State) : SteersAt p s s := ⟨.rfl' s, fun _ _ => rfl⟩

theorem trans (h : SteersAt p a b) (g : SteersAt p b c) : SteersAt p a c :=
  ⟨h.steers.trans g.steers, fun q hq => (g.others q hq).trans (h.others q hq)⟩

theorem ofCoord (h : CoordAt p s t) : SteersAt p s t := ⟨.ofCoord h.only, h.others⟩

theorem withCoord (s : State) (f : Coord → Coord) : SteersAt p s (s.withCoord p f) := .ofCoord (.withCoord p s f)

theorem notePosition (s : State) : SteersAt p s (notePosition p s) := ⟨.ofCoord (.notePosition p s), fun _ _ => rfl⟩

theorem withdraw (w : QueueEntry → Bool) (s : State) : SteersAt p s (withdraw w s) := ⟨.withdraw w s, fun _ _ => rfl⟩

theorem offerTo (c : LineCommand) (route : Option RouteRef) (s : State) : SteersAt p s (offerTo c p route s).1 :=
  ⟨.offerTo c p route s, fun q _ => congrArg (fun oc : Coordinator => oc.positions.get q) (Offered.offerTo c p route s).oc⟩

theorem leaveToLocal (reason : LocalReason) (b : Bool) (s : State) : SteersAt p s (leaveToLocal p reason b s) := by
  have left : SteersAt p s (Machine.notePosition p ((Machine.withdrawTiming p s).withCoord p
      (fun c => { c.unsteered (.inLocal reason) with commanded := false }))) :=
    ((withdraw _ s).trans (withCoord _ _)).trans (notePosition _)
  unfold Machine.leaveToLocal
  dsimp only
  split
  · exact left.trans (offerTo _ none _)
  · exact left

theorem takeReason (reason : LocalReason) (s : State) : SteersAt p s (takeReason p reason s) := by
  unfold Machine.takeReason
  split
  · exact rfl' p s
  · exact (withCoord s _).trans (notePosition _)

theorem handleCommandPoint (s : State) : SteersAt p s (handleCommandPoint p s) := by
  have stale (u : State) : SteersAt p u (dropStale p u) := by
    unfold dropStale
    split
    · split
      · exact withCoord u _
      · exact rfl' p u
    · exact rfl' p u
  have chosen (u : State) : SteersAt p u (rechoose p u) := by
    unfold rechoose
    dsimp only
    split
    · exact withCoord u _
    · exact rfl' p u
  have examined : SteersAt p s (rechoose p (dropStale p (s.withCoord p (fun c => { c with commanded := true })))) :=
    ((withCoord s _).trans (stale _)).trans (chosen _)
  unfold Machine.handleCommandPoint
  dsimp only
  split
  · exact (examined.trans (withCoord _ _)).trans (offerTo _ none _)
  · exact examined

end SteersAt

/-- A pass over the positions that handles each by its own record: what it makes of a record, and what it leaves. -/
theorem pass_coord {f : Pos → State → State} {R : Pos → Coord → Coord → Prop} {s : State}
    (at' : ∀ p u, Steers s u → SteersAt p u (f p u)) (own : ∀ p u, Steers s u → R p (u.coord p) ((f p u).coord p)) :
    Steers s (forPositions f s) ∧ ∀ p, R p (s.coord p) ((forPositions f s).coord p) := by
  refine forPositions_each (f := f) (look := fun u p => u.coord p) (P := fun p c => R p (s.coord p) c)
    (K := fun _ u => Steers s u) (.rfl' s) (fun p rest u kept fresh => ?_)
  have one := at' p u kept
  have record := own p u kept
  rw [show u.coord p = s.coord p from fresh] at record
  exact ⟨kept.trans one.steers, record, one.others⟩

/-! ### A plan takes effect at a position (R38, R39) -/

/-- What a plan that takes effect makes of a record, with the entry that the new image has for the position. -/
structure PlanTaken (entry : Option PlanEntry) (cycle : Nat) (lengthChanged : Bool) (c d : Coord) : Prop where
  trim : d.trim = 0
  grant : d.grant = none
  target : d.target = entry.map (fun e => targetOf e 0 cycle)
  refusals : d.refusals = if c.refusals = 4 ∨ c.state = .inLocal .refusing then 0 else c.refusals
  commanded : c.commanded = false → d.commanded = false
  dropped : coordinated c.state = true → entry = none → d.state = .inLocal .notInPlan ∧ d.measured = none ∧ d.settle = none
  preempted : c.state = .preempted → entry ≠ none → d.state = .preempted
  restarted : steered c.state = true → entry ≠ none → lengthChanged = true →
    d.state = .seeking .lengthen ∧ d.measured = none ∧ d.settle = none
  seeking : ∀ way, c.state = .seeking way → entry ≠ none → lengthChanged = false →
    d = { c with trim := 0, grant := none, target := entry.map (fun e => targetOf e 0 cycle),
                 refusals := if c.refusals = 4 then 0 else c.refusals }
  inStep : c.state = .inStep → entry ≠ none → lengthChanged = false →
    steered d.state = true ∧ (c.target = entry.map (fun e => targetOf e 0 cycle) → d.state = .inStep)
  rests : coordinated c.state = false → coordinated d.state = false

/-- The record before the state of the position is looked at (R38). -/
def planned (entry : Option PlanEntry) (cycle : Nat) (c : Coord) : Coord :=
  { c with
    trim := 0, grant := none, target := entry.map (fun e => targetOf e 0 cycle),
    state := if c.state = .inLocal .refusing then .inLocal .awaitingMark else c.state,
    refusals := if c.refusals = 4 ∨ c.state = .inLocal .refusing then 0 else c.refusals }

theorem planTakesEffect_eq (b : Bool) (p : Pos) (s : State) :
    ∃ u, SteersAt p s u ∧ u.clc = s.clc ∧ u.coord p = planned (s.imageEntry p) s.ctb.cycleLength (s.coord p) ∧
      planTakesEffect b p s =
        match (u.coord p).state, u.imageEntry p with
        | .seeking _, none => leaveToLocal p .notInPlan true u
        | .inStep, none => leaveToLocal p .notInPlan true u
        | .preempted, none => leaveToLocal p .notInPlan true u
        | .seeking _, some _ =>
          if b then u.withCoord p (fun c => { c with state := .seeking .lengthen, measured := none, settle := none }) else u
        | .inStep, some _ =>
          if b then notePosition p
            (u.withCoord p (fun c => { c with state := .seeking .lengthen, measured := none, settle := none }))
          else if (u.coord p).target = (s.coord p).target then u else testBand p u
        | _, _ => u := by
  have zeroed : CoordAt p s (s.withCoord p (fun c => { c with trim := 0, grant := none })) := .withCoord p s _
  have own : (s.withCoord p (fun c => { c with trim := 0, grant := none })).coord p = { s.coord p with trim := 0, grant := none } :=
    (State.withCoord_coord s p p _).trans (if_pos rfl)
  have cleared := zeroed.trans (.clearRefusing p _)
  have record : (clearRefusing p (s.withCoord p (fun c => { c with trim := 0, grant := none }))).coord p =
      { planned (s.imageEntry p) s.ctb.cycleLength (s.coord p) with target := (s.coord p).target } := by
    by_cases refusing : (s.coord p).state = .inLocal .refusing
    · rw [clearRefusing_refusing (by rw [own]; exact refusing), own]
      unfold planned
      rw [if_pos refusing, if_pos (.inr refusing)]
    · rw [clearRefusing_other (by rw [own]; exact refusing), own]
      unfold planned
      rw [if_neg refusing]
      simp [refusing]
  refine ⟨_, .ofCoord (cleared.trans (.setTarget p _)), (cleared.trans (.setTarget p _)).only.clc, ?_, ?_⟩
  · rw [setTarget_coord, record, cleared.only.imageEntry, cleared.only.ctb]
    rfl
  · unfold planTakesEffect
    dsimp only
    rw [show ((clearRefusing p (s.withCoord p (fun c => { c with trim := 0, grant := none }))).coord p).target =
      (s.coord p).target by rw [record]] <;> rfl

theorem planned_state {c : Coord} (h : c.state ≠ .inLocal .refusing) (entry : Option PlanEntry) (cycle : Nat) :
    (planned entry cycle c).state = c.state := if_neg h

theorem planned_resting {c : Coord} (h : coordinated c.state = false) (entry : Option PlanEntry) (cycle : Nat) :
    coordinated (planned entry cycle c).state = false := by
  by_cases refusing : c.state = .inLocal .refusing
  · rw [show (planned entry cycle c).state = .inLocal .awaitingMark from if_pos refusing]
    rfl
  · rw [planned_state refusing]
    exact h

theorem refusing_rests {c : Coord} (h : coordinated c.state = true) : c.state ≠ .inLocal .refusing := fun is => by
  rw [is] at h
  exact Bool.false_ne_true h

theorem PlanTaken.resting {entry : Option PlanEntry} {cycle : Nat} {b : Bool} {c : Coord} (h : coordinated c.state = false) :
    PlanTaken entry cycle b c (planned entry cycle c) where
  trim := rfl
  grant := rfl
  target := rfl
  refusals := rfl
  commanded := fun off => off
  dropped := fun is => by rw [h] at is; exact absurd is Bool.false_ne_true
  preempted := fun is => by rw [is] at h; exact absurd h.symm Bool.false_ne_true
  restarted := fun is => by
    rw [Handled.coordinated_of_steered is] at h
    exact absurd h.symm Bool.false_ne_true
  seeking := fun way is => by rw [is] at h; exact absurd h.symm Bool.false_ne_true
  inStep := fun is => by rw [is] at h; exact absurd h.symm Bool.false_ne_true
  rests := fun _ => planned_resting h entry cycle

/-- A coordinated position without an entry is dropped (R38). -/
theorem PlanTaken.out {cycle : Nat} {b : Bool} {c : Coord} (h : coordinated c.state = true) :
    PlanTaken none cycle b c { planned none cycle c with
      state := .inLocal .notInPlan, measured := none, settle := none, grant := none, commanded := false } where
  trim := rfl
  grant := rfl
  target := rfl
  refusals := rfl
  commanded := fun _ => rfl
  dropped := fun _ _ => ⟨rfl, rfl, rfl⟩
  preempted := fun _ some => absurd rfl some
  restarted := fun _ some => absurd rfl some
  seeking := fun _ _ some => absurd rfl some
  inStep := fun _ some => absurd rfl some
  rests := fun is => by rw [h] at is; exact absurd is.symm Bool.false_ne_true

theorem PlanTaken.kept {e : PlanEntry} {cycle : Nat} {b : Bool} {c : Coord}
    (h : c.state = .preempted ∨ (b = false ∧ steered c.state = true)) :
    PlanTaken (some e) cycle b c (planned (some e) cycle c) := by
  have coord : coordinated c.state = true := by
    rcases h with is | ⟨-, is⟩
    · rw [is]
      rfl
    · exact Handled.coordinated_of_steered is
  have state := planned_state (refusing_rests coord) (some e) cycle
  exact {
    trim := rfl
    grant := rfl
    target := rfl
    refusals := rfl
    commanded := fun off => off
    dropped := fun _ none => absurd none nofun
    preempted := fun is _ => state.trans is
    restarted := fun steer _ changed => by
      rcases h with is | ⟨same, -⟩
      · rw [is] at steer
        exact absurd steer Bool.false_ne_true
      · rw [same] at changed
        exact absurd changed Bool.false_ne_true
    seeking := fun way is _ _ => by
      unfold planned
      rw [is]
      simp
    inStep := fun is _ _ => by
      rw [state, is]
      exact ⟨rfl, fun _ => rfl⟩
    rests := fun is => by rw [coord] at is; exact absurd is.symm Bool.false_ne_true }

/-- Under another C a steered position starts seeking again (R39). -/
theorem PlanTaken.again {e : PlanEntry} {cycle : Nat} {c : Coord} (h : steered c.state = true) :
    PlanTaken (some e) cycle true c
      { planned (some e) cycle c with state := .seeking .lengthen, measured := none, settle := none } where
  trim := rfl
  grant := rfl
  target := rfl
  refusals := rfl
  commanded := fun off => off
  dropped := fun _ none => absurd none nofun
  preempted := fun is => by rw [is] at h; exact absurd h Bool.false_ne_true
  restarted := fun _ _ _ => ⟨rfl, rfl, rfl⟩
  seeking := fun _ _ _ same => absurd same.symm Bool.false_ne_true
  inStep := fun _ _ same => absurd same.symm Bool.false_ne_true
  rests := fun is => by rw [Handled.coordinated_of_steered h] at is; exact absurd is.symm Bool.false_ne_true

/-- An IN-STEP position outside its band seeks again (R26). -/
theorem PlanTaken.outside {e : PlanEntry} {cycle : Nat} {c : Coord} {way : SeekDirection} (h : c.state = .inStep)
    (moved : c.target ≠ (some e).map (fun e => targetOf e 0 cycle)) :
    PlanTaken (some e) cycle false c { planned (some e) cycle c with state := .seeking way } where
  trim := rfl
  grant := rfl
  target := rfl
  refusals := rfl
  commanded := fun off => off
  dropped := fun _ none => absurd none nofun
  preempted := fun is => by rw [h] at is; exact absurd is nofun
  restarted := fun _ _ changed => absurd changed Bool.false_ne_true
  seeking := fun _ is => by rw [h] at is; exact absurd is nofun
  inStep := fun _ _ _ => ⟨rfl, fun same => absurd same moved⟩
  rests := fun is => by rw [h] at is; exact absurd is.symm Bool.false_ne_true

theorem planTakesEffect_takes (b : Bool) (p : Pos) (s : State) :
    SteersAt p s (planTakesEffect b p s) ∧
      PlanTaken (s.imageEntry p) s.ctb.cycleLength b (s.coord p) ((planTakesEffect b p s).coord p) := by
  obtain ⟨u, at', -, record, eq⟩ := planTakesEffect_eq b p s
  have entry := at'.steers.imageEntry p
  have drop (coord : coordinated (s.coord p).state = true) (absent : s.imageEntry p = none) :
      SteersAt p s (leaveToLocal p .notInPlan true u) ∧
        PlanTaken none s.ctb.cycleLength b (s.coord p) ((leaveToLocal p .notInPlan true u).coord p) := by
    refine ⟨at'.trans (.leaveToLocal _ _ u), ?_⟩
    rw [leaveToLocal_coord, record, absent]
    exact .out coord
  have rest (off : coordinated (s.coord p).state = false) :
      SteersAt p s u ∧ PlanTaken (s.imageEntry p) s.ctb.cycleLength b (s.coord p) (u.coord p) := ⟨at', record ▸ .resting off⟩
  rw [eq]
  cases state : (s.coord p).state with
  | unseen =>
    rw [record, planned_state (by rw [state]; nofun), state]
    cases u.imageEntry p <;> exact rest (by rw [state]; rfl)
  | inLocal reason =>
    obtain ⟨r, loc⟩ : ∃ r, (u.coord p).state = .inLocal r := by
      rw [record]
      by_cases refusing : (s.coord p).state = .inLocal .refusing
      · exact ⟨_, if_pos refusing⟩
      · exact ⟨reason, (planned_state refusing _ _).trans state⟩
    rw [loc]
    cases u.imageEntry p <;> exact rest (by rw [state]; rfl)
  | preempted =>
    have now : (u.coord p).state = .preempted := by rw [record, planned_state (by rw [state]; nofun), state]
    rw [now, entry]
    cases image : s.imageEntry p with
    | none => exact drop (by rw [state]; rfl) image
    | some e =>
      rw [image] at record
      exact ⟨at', record ▸ .kept (.inl state)⟩
  | seeking way =>
    have now : (u.coord p).state = .seeking way := by rw [record, planned_state (by rw [state]; nofun), state]
    rw [now, entry]
    cases image : s.imageEntry p with
    | none => exact drop (by rw [state]; rfl) image
    | some e =>
      rw [image] at record
      cases b with
      | true =>
        refine ⟨at'.trans (.withCoord u _), ?_⟩
        dsimp only
        rw [if_pos rfl, State.withCoord_coord, if_pos rfl, record]
        exact .again (by rw [state]; rfl)
      | false => exact ⟨at', record ▸ .kept (.inr ⟨rfl, by rw [state]; rfl⟩)⟩
  | inStep =>
    have now : (u.coord p).state = .inStep := by rw [record, planned_state (by rw [state]; nofun), state]
    rw [now, entry]
    cases image : s.imageEntry p with
    | none => exact drop (by rw [state]; rfl) image
    | some e =>
      rw [image] at record
      cases b with
      | true =>
        refine ⟨at'.trans ((SteersAt.withCoord u _).trans (.notePosition _)), ?_⟩
        dsimp only
        rw [if_pos rfl, notePosition_coord, State.withCoord_coord, if_pos rfl, record]
        exact .again (by rw [state]; rfl)
      | false =>
        dsimp only
        rw [if_neg Bool.false_ne_true]
        split
        · exact ⟨at', record ▸ .kept (.inr ⟨rfl, by rw [state]; rfl⟩)⟩
        · next moved =>
          rcases testBand_cases p u with same | ⟨t, m, -, -, -, -, tested⟩
          · rw [same]
            exact ⟨at', record ▸ .kept (.inr ⟨rfl, by rw [state]; rfl⟩)⟩
          · refine ⟨at'.trans (.ofCoord (.testBand p u)), ?_⟩
            rw [tested, notePosition_coord, State.withCoord_coord, if_pos rfl, record]
            rw [record] at moved
            exact .outside state (fun same => moved same.symm)

/-! ### A LOCAL position is examined (R15), and FREE (R19) -/

/-- A LOCAL position that waits for a mark. -/
def Waits (c : Coord) : Prop := ∃ reason, c.state = .inLocal reason ∧ (reason = .awaitingMark ∨ reason = .free ∨ reason = .notInPlan)

/-- Every condition of R15 but the flag of the position. -/
def mayTake (s : State) (p : Pos) : Bool :=
  s.isLive && s.ps.mode != .free && (s.imageEntry p).isSome && (s.health p).state != .cutOff &&
    (s.health p).quietTimer.isNone && steerable (s.ident p).mode && s.owner p == .none

theorem maySeek_eq (s : State) (p : Pos) : maySeek s p = (mayTake s p && !(s.coord p).fieldLocal) := by
  unfold maySeek mayTake
  rw [Bool.eq_iff_iff]
  simp only [Bool.and_eq_true]
  constructor
  · rintro ⟨⟨⟨⟨⟨⟨⟨a, b⟩, c⟩, d⟩, e⟩, f⟩, g⟩, h⟩
    exact ⟨⟨⟨⟨⟨⟨⟨a, b⟩, c⟩, d⟩, e⟩, g⟩, h⟩, f⟩
  · rintro ⟨⟨⟨⟨⟨⟨⟨a, b⟩, c⟩, d⟩, e⟩, g⟩, h⟩, f⟩
    exact ⟨⟨⟨⟨⟨⟨⟨a, b⟩, c⟩, d⟩, e⟩, f⟩, g⟩, h⟩

theorem Steers.mayTake {s t : State} (h : Steers s t) (p : Pos) : mayTake t p = mayTake s p := by
  unfold MarkPasses.mayTake
  rw [h.isLive, h.ps, h.imageEntry, h.health, h.identMode, h.owner]

theorem Steers.waitingReason {s t : State} (h : Steers s t) (p : Pos) : waitingReason t p = waitingReason s p := by
  unfold Machine.waitingReason
  rw [h.ps, h.imageEntry]

/-- A record that enters SEEKING at a mark. -/
def entered (s : State) (p : Pos) (c : Coord) : Coord :=
  { c with state := .seeking .lengthen, refusals := 0, measured := none, commanded := false,
           target := (s.imageEntry p).map (fun e => targetOf e c.trim s.ctb.cycleLength) }

/-- What examination makes of a record. -/
structure Examined (s : State) (p : Pos) (c d : Coord) : Prop where
  enters : Waits c → (mayTake s p && !c.fieldLocal) = true → d = entered s p c
  waits : Waits c → (mayTake s p && !c.fieldLocal) = false → d = { c with state := .inLocal (waitingReason s p) }
  other : ¬ Waits c → d = c

theorem examineLocal_waiting {p : Pos} {s : State} (h : Waits (s.coord p)) :
    examineLocal p s =
      if maySeek s p then
        notePosition p (setTarget p (s.withCoord p (fun c =>
          { c with state := .seeking .lengthen, refusals := 0, measured := none, commanded := false })))
      else takeReason p (waitingReason s p) s := by
  obtain ⟨reason, state, one⟩ := h
  unfold examineLocal
  rw [state]
  exact if_pos one

theorem examineLocal_other {p : Pos} {s : State} (h : ¬ Waits (s.coord p)) : examineLocal p s = s := by
  unfold examineLocal
  split
  · next reason state => exact if_neg (fun one => h ⟨reason, state, one⟩)
  · rfl

theorem examineLocal_examines (p : Pos) (s : State) :
    SteersAt p s (examineLocal p s) ∧ Examined s p (s.coord p) ((examineLocal p s).coord p) := by
  by_cases h : Waits (s.coord p)
  · rw [examineLocal_waiting h, maySeek_eq]
    by_cases may : (mayTake s p && !(s.coord p).fieldLocal) = true
    · rw [if_pos may]
      refine ⟨((SteersAt.withCoord s _).trans (.ofCoord (.setTarget p _))).trans (.notePosition _), fun _ _ => ?_,
        fun _ not => absurd (may.symm.trans not) (by decide), fun not => absurd h not⟩
      rw [notePosition_coord, setTarget_coord, State.withCoord_coord, if_pos rfl]
      rfl
    · rw [if_neg may]
      exact ⟨.takeReason _ s, fun _ is => absurd is may, fun _ _ => takeReason_coord p _ s, fun not => absurd h not⟩
  · rw [examineLocal_other h]
    exact ⟨.rfl' p s, fun is => absurd is h, fun is => absurd is h, fun _ => rfl⟩

theorem Examined.congr {s t : State} {p : Pos} {c d : Coord} (h : Examined t p c d) (same : Steers s t) : Examined s p c d where
  enters waits may := by
    have d' := h.enters waits (by rw [same.mayTake]; exact may)
    unfold entered at d' ⊢
    rw [same.imageEntry, same.ctb] at d'
    exact d'
  waits waits not := by
    rw [← same.waitingReason]
    exact h.waits waits (by rw [same.mayTake]; exact not)
  other := h.other

/-- What FREE makes of a record at a mark (R19). -/
def freed (s : State) (c : Coord) : Coord :=
  if s.ps.mode = .free ∧ coordinated c.state = true then
    { c with state := .inLocal .free, measured := none, settle := none, grant := none, commanded := false }
  else c

theorem freeAtMark_frees (p : Pos) (s : State) :
    SteersAt p s (freeAtMark p s) ∧ (freeAtMark p s).coord p = freed s (s.coord p) := by
  unfold freeAtMark freed
  split
  · exact ⟨.leaveToLocal _ _ s, leaveToLocal_coord p _ _ s⟩
  · exact ⟨.rfl' p s, rfl⟩

/-! ### Trim steps (R62) -/

/-- What a trim makes of a record, with the entry that the image has for the position (R26). -/
structure Trimmed (entry : Option PlanEntry) (cycle : Nat) (value : Int) (c d : Coord) : Prop where
  trim : d.trim = value
  same : c.trim = value → d = c
  target : c.trim ≠ value → d.target = entry.map (fun e => targetOf e value cycle)
  state : c.state ≠ .inStep → d.state = c.state
  steered : steered d.state = steered c.state
  rest : d.measured = c.measured ∧ d.settle = c.settle ∧ d.refusals = c.refusals ∧ d.grant = c.grant ∧
    d.commanded = c.commanded

theorem retarget_retargets (p : Pos) (s : State) :
    ((retarget p s).coord p).target = (s.imageEntry p).map (fun e => targetOf e (s.coord p).trim s.ctb.cycleLength) ∧
      ((s.coord p).state ≠ .inStep → ((retarget p s).coord p).state = (s.coord p).state) ∧
      steered ((retarget p s).coord p).state = steered (s.coord p).state ∧
      ((retarget p s).coord p).measured = (s.coord p).measured ∧ ((retarget p s).coord p).settle = (s.coord p).settle ∧
      ((retarget p s).coord p).refusals = (s.coord p).refusals ∧ ((retarget p s).coord p).grant = (s.coord p).grant ∧
      ((retarget p s).coord p).commanded = (s.coord p).commanded := by
  have set := setTarget_coord p s
  unfold retarget
  dsimp only
  split
  · rw [set]
    exact ⟨rfl, fun _ => rfl, rfl, rfl, rfl, rfl, rfl, rfl⟩
  · rcases testBand_cases p (setTarget p s) with same | ⟨t, m, hs, -, -, -, tested⟩
    · rw [same, set]
      exact ⟨rfl, fun _ => rfl, rfl, rfl, rfl, rfl, rfl, rfl⟩
    · rw [set] at hs
      rw [tested, notePosition_coord, State.withCoord_coord, if_pos rfl, set]
      exact ⟨rfl, fun not => absurd hs not, by rw [show (s.coord p).state = .inStep from hs]; rfl, rfl, rfl, rfl, rfl, rfl⟩

theorem withTrim_trims (p : Pos) (trim : Int) (s : State) :
    Trimmed (s.imageEntry p) s.ctb.cycleLength trim (s.coord p) ((withTrim p trim s).coord p) := by
  by_cases same : (s.coord p).trim = trim
  · rw [show withTrim p trim s = s from if_pos same]
    exact ⟨same, fun _ => rfl, fun not => absurd same not, fun _ => rfl, rfl, rfl, rfl, rfl, rfl, rfl⟩
  · have own : (s.withCoord p (fun c => { c with trim := trim })).coord p = { s.coord p with trim := trim } :=
      (State.withCoord_coord s p p _).trans (if_pos rfl)
    have eq : withTrim p trim s = retarget p (s.withCoord p (fun c => { c with trim := trim })) := if_neg same
    obtain ⟨target, state, steered, rest⟩ := retarget_retargets p (s.withCoord p (fun c => { c with trim := trim }))
    rw [own] at target state steered rest
    refine ⟨withTrim_trim p trim s, fun is => absurd is same, fun _ => ?_, fun not => ?_, ?_, ?_⟩
    · rw [eq, target] <;> rfl
    · rw [eq]
      exact state not
    · rw [eq]
      exact steered
    · rw [eq]
      exact rest

/-! ### Command points at the mark (R31) -/

/-- The command point of a record falls on the mark. -/
def Fires (s : State) (c : Coord) : Prop :=
  s.isLive = true ∧ steered c.state = true ∧ c.commanded = false ∧ c.target.map Target.commandPoint = some 0

/-- What the command points of a mark make of a record. -/
structure Pointed (s : State) (c d : Coord) : Prop where
  idle : ¬ Fires s c → d = c
  commanded : Fires s c → d.commanded = true
  steered : steered d.state = steered c.state
  kept : d.trim = c.trim ∧ d.target = c.target ∧ d.refusals = c.refusals ∧ d.settle = c.settle
  grant : c.grant = none → d.grant = none
  inStep : c.state = .inStep → d.state = .inStep
  unmeasured : c.measured = none → d.measured = none ∧ d.state = c.state

theorem handleCommandPoint_coord (p : Pos) (s : State) :
    (handleCommandPoint p s).coord p = pointed p s ∨
      (handleCommandPoint p s).coord p = { pointed p s with grant := none } := by
  have examined : Records p (pointed p s) s (rechoose p (dropStale p (s.withCoord p (fun c => { c with commanded := true })))) :=
    (((Records.rfl' p s).withCoord (fun c => { c with commanded := true })).dropStale).rechoose
  unfold handleCommandPoint
  dsimp only
  split
  · refine .inr ((congrArg (fun oc : Coordinator => oc.positions.get p) (Offered.offerTo _ p none _).oc).trans ?_)
    exact (examined.withCoord (fun c => { c with grant := none })).own
  · exact .inl examined.own

theorem unstale_rest (s : State) (c : Coord) :
    (unstale s c).refusals = c.refusals ∧ (unstale s c).settle = c.settle ∧ (c.measured = none → (unstale s c).measured = none) := by
  unfold unstale
  split
  · split
    · exact ⟨rfl, rfl, fun _ => rfl⟩
    · exact ⟨rfl, rfl, fun none => none⟩
  · exact ⟨rfl, rfl, fun none => none⟩

theorem rechosen_rest (p : Pos) (s : State) (c : Coord) :
    (rechosen p s c).refusals = c.refusals ∧ (rechosen p s c).settle = c.settle ∧ (rechosen p s c).measured = c.measured ∧
      steered (rechosen p s c).state = steered c.state ∧ (c.state = .inStep → (rechosen p s c).state = .inStep) ∧
      (c.measured = none → (rechosen p s c).state = c.state) := by
  unfold rechosen
  split
  · next hs ht hm =>
    exact ⟨rfl, rfl, rfl, by rw [hs]; rfl, fun is => by rw [hs] at is; exact absurd is nofun,
      fun none => by rw [hm] at none; exact absurd none nofun⟩
  · exact ⟨rfl, rfl, rfl, rfl, fun is => is, fun _ => rfl⟩

theorem commandPointAtMark_points (p : Pos) (s : State) :
    SteersAt p s (commandPointAtMark p s) ∧ Pointed s (s.coord p) ((commandPointAtMark p s).coord p) := by
  by_cases fires : Fires s (s.coord p)
  · rw [show commandPointAtMark p s = handleCommandPoint p s from if_pos fires]
    refine ⟨.handleCommandPoint s, ?_⟩
    obtain ⟨state, target, trim, grant, commanded⟩ := unstale_fields s { s.coord p with commanded := true }
    obtain ⟨target', trim', grant', commanded'⟩ := rechosen_fields p s (unstale s { s.coord p with commanded := true })
    obtain ⟨refusals, settle, measured⟩ := unstale_rest s { s.coord p with commanded := true }
    obtain ⟨refusals', settle', measured', steered', inStep', unmeasured'⟩ :=
      rechosen_rest p s (unstale s { s.coord p with commanded := true })
    have pointedOwn : Pointed s (s.coord p) (pointed p s) := {
      idle := fun not => absurd fires not
      commanded := fun _ => commanded'.trans commanded
      steered := steered'.trans (congrArg Machine.steered state)
      kept := ⟨trim'.trans trim, target'.trans target, refusals'.trans refusals, settle'.trans settle⟩
      grant := fun none => grant'.trans (grant.trans none)
      inStep := fun is => inStep' (state.trans is)
      unmeasured := fun none => ⟨measured'.trans (measured none), (unmeasured' (measured none)).trans state⟩ }
    rcases handleCommandPoint_coord p s with own | own
    · rw [own]
      exact pointedOwn
    · rw [own]
      exact { pointedOwn with grant := fun _ => rfl, idle := fun not => absurd fires not }
  · rw [show commandPointAtMark p s = s from if_neg fires]
    exact ⟨.rfl' p s, fun _ => rfl, fun is => absurd is fires, rfl, ⟨rfl, rfl, rfl, rfl⟩, fun none => none, fun is => is,
      fun none => ⟨none, rfl⟩⟩

end Sys2Proof.Proofs.MarkPasses
end

section
/-! PROOF. The stages of a cycle mark: what each block's work leaves, and the way of a coordination record through them (used by
O11 to O14). -/

open Sys2Proof Sys2Proof.Machine

namespace Sys2Proof.Proofs.MarkStages

open Settings Answers Roads Coordination StatusReplies CommandPoints MarkPasses

/-! ### The selector's stage -/

/-- The part when the selector has handled a mark and the new cycle has begun. -/
def opened (s : State) : State := beginCycle (selectAtMark s).1

/-- C changes at a mark. -/
def lengthens (s : State) : Bool := (opened s).ctb.cycleLength != s.ctb.cycleLength

/-- The selector's stage leaves the positions and the queue. -/
theorem opened_leaves (s : State) :
    (opened s).oc = s.oc ∧ (opened s).pt = s.pt ∧ (opened s).pm = s.pm ∧ (opened s).pl = s.pl ∧ (opened s).er = s.er ∧
      (opened s).config = s.config ∧ (opened s).ih = s.ih ∧ (opened s).clc = s.clc ∧ (opened s).qw = s.qw ∧
      { (opened s).sli with notices := [], overrun := 0 } = { s.sli with notices := [], overrun := 0 } ∧
      (opened s).ctb = { s.ctb with cycleLength := (opened s).ps.newLength, anchor := s.now } ∧
      (opened s).ps = (selectAtMark s).1.ps := by
  have h := selectAtMark_selects s
  have rest := h.rest
  have ctb : (selectAtMark s).1.ctb = s.ctb := (congrArg State.ctb rest :)
  refine ⟨(congrArg State.oc rest :), (congrArg State.pt rest :), (congrArg State.pm rest :), (congrArg State.pl rest :),
    (congrArg State.er rest :), (congrArg State.config rest :), (congrArg State.ih rest :), (congrArg State.clc rest :),
    (congrArg State.qw rest :), h.sli, ?_, rfl⟩
  unfold opened beginCycle State.now
  dsimp only
  rw [ctb]

/-! ### The coordinator's stage -/

/-- Every target is marked as not yet commanded in the new cycle. -/
def uncommanded (s : State) : State := forPositions (fun p s => s.withCoord p (fun c => { c with commanded := false })) s

/-- The records when a plan has taken effect, if one does. -/
def planPass (loaded changed : Bool) (s : State) : State :=
  if loaded then forPositions (planTakesEffect changed) (withdraw (fun e => e.command.isTimingSet) (uncommanded s))
  else uncommanded s

theorem coordAtMark_eq (loaded changed : Bool) (s : State) :
    coordAtMark loaded changed s = forPositions freeAtMark (forPositions examineLocal (planPass loaded changed s)) := rfl

/-- What the plan makes of a record. -/
def Replanned (b : State) (loaded changed : Bool) (p : Pos) (c d : Coord) : Prop :=
  if loaded then PlanTaken (b.imageEntry p) b.ctb.cycleLength changed { c with commanded := false } d
  else d = { c with commanded := false }

theorem uncommanded_coord (s : State) :
    Steers s (uncommanded s) ∧ ∀ p, (uncommanded s).coord p = { s.coord p with commanded := false } :=
  pass_coord (R := fun _ c d => d = { c with commanded := false }) (fun _ u _ => .withCoord u _)
    (fun p u _ => (State.withCoord_coord u p p _).trans (if_pos rfl))

/-- The plan takes effect at every position of a part that has gone on from `b`. -/
theorem takesEffect_coord (changed : Bool) (b u : State) (h : Steers b u) :
    Steers b (forPositions (planTakesEffect changed) u) ∧
      ∀ p, PlanTaken (b.imageEntry p) b.ctb.cycleLength changed (u.coord p)
        ((forPositions (planTakesEffect changed) u).coord p) := by
  obtain ⟨all, each⟩ := pass_coord (f := planTakesEffect changed)
    (R := fun p c d => PlanTaken (b.imageEntry p) b.ctb.cycleLength changed c d) (s := u)
    (fun p v _ => (planTakesEffect_takes changed p v).1) (fun p v kept => by
      have taken := (planTakesEffect_takes changed p v).2
      rw [(h.trans kept).imageEntry, (h.trans kept).ctb] at taken
      exact taken)
  exact ⟨h.trans all, each⟩

theorem planPass_coord (loaded changed : Bool) (b : State) :
    Steers b (planPass loaded changed b) ∧
      ∀ p, Replanned b loaded changed p (b.coord p) ((planPass loaded changed b).coord p) := by
  obtain ⟨base, own⟩ := uncommanded_coord b
  unfold Replanned planPass
  generalize uncommanded b = w at base own ⊢
  cases loaded with
  | false => exact ⟨base, own⟩
  | true =>
    simp only [if_true]
    obtain ⟨all, each⟩ := takesEffect_coord changed b _ (base.trans (.withdraw (fun e => e.command.isTimingSet) w))
    refine ⟨all, fun p => ?_⟩
    rw [← own p]
    exact each p

/-- What the coordinator's stage makes of a record. -/
def Coordinated (b : State) (loaded changed : Bool) (p : Pos) (c d : Coord) : Prop :=
  ∃ c₁ c₂, Replanned b loaded changed p c c₁ ∧ Examined b p c₁ c₂ ∧ d = freed b c₂

theorem freed_steers {s t : State} (h : Steers s t) (c : Coord) : freed t c = freed s c := by
  unfold MarkPasses.freed
  rw [h.ps]

theorem examinePass_coord (b u : State) (h : Steers b u) :
    Steers b (forPositions examineLocal u) ∧ ∀ p, Examined b p (u.coord p) ((forPositions examineLocal u).coord p) := by
  obtain ⟨all, each⟩ := pass_coord (f := examineLocal) (R := fun p c d => Examined b p c d) (s := u)
    (fun p v _ => (examineLocal_examines p v).1) (fun p v kept => (examineLocal_examines p v).2.congr (h.trans kept))
  exact ⟨h.trans all, each⟩

theorem freePass_coord (b u : State) (h : Steers b u) :
    Steers b (forPositions freeAtMark u) ∧ ∀ p, (forPositions freeAtMark u).coord p = freed b (u.coord p) := by
  obtain ⟨all, each⟩ := pass_coord (f := freeAtMark) (R := fun _ c d => d = freed b c) (s := u)
    (fun p v _ => (freeAtMark_frees p v).1) (fun p v kept => (freeAtMark_frees p v).2.trans (freed_steers (h.trans kept) _))
  exact ⟨h.trans all, each⟩

theorem coordAtMark_coord (loaded changed : Bool) (b : State) :
    Steers b (coordAtMark loaded changed b) ∧
      ∀ p, Coordinated b loaded changed p (b.coord p) ((coordAtMark loaded changed b).coord p) := by
  obtain ⟨planned, replanned⟩ := planPass_coord loaded changed b
  obtain ⟨examined, examines⟩ := examinePass_coord b _ planned
  obtain ⟨all, frees⟩ := freePass_coord b _ examined
  rw [coordAtMark_eq]
  exact ⟨all, fun p => ⟨_, _, replanned p, examines p, frees p⟩⟩

/-! ### The tracker's stage -/

/-- A position whose trim the tracker moves (R62). -/
def refined (s : State) (p : Pos) : Bool := (s.ident p).state = .identified ∧ (s.ident p).mode = some .full

/-- The trim that the tracker makes of a record's. -/
def steppedTrim (s : State) (p : Pos) (trim : Int) : Int :=
  clampInt (-(s.oc.limits.trimLimit : Int)) s.oc.limits.trimLimit (trim + trimStep (s.pt.accumulators.get p))

/-- What the tracker's stage makes of a record. -/
def Stepped (b : State) (loaded : Bool) (p : Pos) (c d : Coord) : Prop :=
  if loaded = false ∧ refined b p = true then Trimmed (b.imageEntry p) b.ctb.cycleLength (steppedTrim b p c.trim) c d else d = c

/-- The trim steps of a mark, position by position. -/
def stepPass (s : State) : State :=
  forPositions (fun p s =>
    if (s.ident p).state = .identified ∧ (s.ident p).mode = some .full then stepTrim p (trimStep (s.pt.accumulators.get p)) s
    else s) s

theorem refined_steers {s t : State} (h : Steers s t) (p : Pos) : refined t p = refined s p := by
  unfold MarkStages.refined
  rw [h.identState, h.identMode]

theorem steppedTrim_steers {s t : State} (h : Steers s t) (p : Pos) (trim : Int) : steppedTrim t p trim = steppedTrim s p trim := by
  unfold MarkStages.steppedTrim
  rw [h.limits, h.pt]

theorem stepPass_coord (b u : State) (h : Steers b u) :
    Steers b (stepPass u) ∧ ∀ p, Stepped b false p (u.coord p) ((stepPass u).coord p) := by
  obtain ⟨all, each⟩ := pass_coord (R := fun p c d => Stepped b false p c d) (s := u)
    (f := fun p s => if (s.ident p).state = .identified ∧ (s.ident p).mode = some .full then
      stepTrim p (trimStep (s.pt.accumulators.get p)) s else s)
    (fun p v _ => by
      split
      · exact .ofCoord (.withTrim p _ v)
      · exact .rfl' p v)
    (fun p v kept => by
      have same := h.trans kept
      unfold Stepped
      rw [← refined_steers same p, ← same.imageEntry, ← same.ctb, ← steppedTrim_steers same]
      by_cases is : (v.ident p).state = .identified ∧ (v.ident p).mode = some .full
      · rw [if_pos is, if_pos ⟨rfl, decide_eq_true is⟩]
        exact withTrim_trims p _ v
      · rw [if_neg is, if_neg (fun both => is (of_decide_eq_true both.2))])
  exact ⟨h.trans all, each⟩

theorem trackAtMark_loaded (s : State) :
    trackAtMark true s = emptyAccumulators { s with pt := { s.pt with errorBase := some s.now } } := if_pos rfl

theorem trackAtMark_kept (s : State) : trackAtMark false s = emptyAccumulators (stepPass s) := if_neg Bool.false_ne_true

/-- The tracker's stage: the records, the error base and the accumulators. -/
theorem trackAtMark_coord (loaded : Bool) (b u : State) (h : Steers b u) :
    ∃ v pt, Steers b v ∧ trackAtMark loaded u = { v with pt := pt } ∧
      (∀ p, Stepped b loaded p (u.coord p) (v.coord p)) ∧
      pt = { b.pt with accumulators := Vector.replicate 12 { sum := 0, count := 0 },
                       errorBase := if loaded then some b.now else b.pt.errorBase } := by
  cases loaded with
  | true =>
    rw [trackAtMark_loaded]
    refine ⟨u, _, h, rfl, fun p => ?_, ?_⟩
    · simp [Stepped]
    · rw [h.pt, h.now]
      rfl
  | false =>
    rw [trackAtMark_kept]
    obtain ⟨all, each⟩ := stepPass_coord b u h
    generalize stepPass u = v at all each ⊢
    refine ⟨v, _, all, rfl, each, ?_⟩
    rw [all.pt]
    rfl

/-! ### The budgets -/

theorem countDown_budgets (s : State) :
    (∃ pm, countDown s = { s with pm := pm } ∧ pm.policy = s.pm.policy ∧ pm.owners = s.pm.owners) ∧
      ∀ p, (countDown s).budget p = s.budget p - 1 := by
  refine forPositions_each (f := fun p s => s.withBudget p (s.budget p - 1)) (look := fun u p => u.budget p)
    (P := fun p n => n = s.budget p - 1)
    (K := fun _ u => ∃ pm, u = { s with pm := pm } ∧ pm.policy = s.pm.policy ∧ pm.owners = s.pm.owners)
    ⟨s.pm, rfl, rfl, rfl⟩ (fun p rest u kept fresh => ?_)
  have fresh : u.budget p = s.budget p := fresh
  obtain ⟨pm, eq, policy, owners⟩ := kept
  refine ⟨⟨(u.withBudget p (u.budget p - 1)).pm, ?_, ?_, ?_⟩, ?_, fun q hq => ?_⟩
  · rw [eq]
    rfl
  · rw [eq]
    exact policy
  · rw [eq]
    exact owners
  · show (u.withBudget p (u.budget p - 1)).budget p = _
    rw [fresh]
    exact (State.withBudget_budget u p p _).trans (if_pos rfl)
  · exact (State.withBudget_budget u p q _).trans (if_neg hq.symm)

/-! ### The whole mark -/

/-- From `b`, the part with the new cycle begun, to the end of the mark, what the blocks leave. -/
structure Worked (b t : State) : Prop where
  pending : t.pending = b.pending
  limits : t.oc.limits = b.oc.limits
  qw : t.qw = b.qw
  pl : t.pl = b.pl
  ps : t.ps = b.ps
  er : t.er = b.er
  config : t.config = b.config
  policy : t.pm.policy = b.pm.policy
  sli : { t.sli with notices := [], overrun := 0, sending := none, draining := false } =
    { b.sli with notices := [], overrun := 0, sending := none, draining := false }
  ident : ∀ q, { t.ident q with retry := none } = { b.ident q with retry := none }

theorem Worked.ofSteers {b t : State} (h : Steers b t) : Worked b t where
  pending := h.pending
  limits := h.limits
  qw := h.qw
  pl := h.pl
  ps := h.ps
  er := h.er
  config := h.config
  policy := by rw [h.pm]
  sli := (congrArg (fun x : Supervisory => { x with sending := none, draining := false }) h.sli :)
  ident := h.ident

theorem Worked.trans {a b c : State} (h : Worked a b) (g : Worked b c) : Worked a c :=
  ⟨g.pending.trans h.pending, g.limits.trans h.limits, g.qw.trans h.qw, g.pl.trans h.pl, g.ps.trans h.ps, g.er.trans h.er,
    g.config.trans h.config, g.policy.trans h.policy, g.sli.trans h.sli, fun q => (g.ident q).trans (h.ident q)⟩

theorem Worked.ofSettles {s t : State} (h : Settles s t) : Worked s t where
  pending := h.pending
  limits := by rw [h.oc]
  qw := h.qw
  pl := h.pl
  ps := h.ps
  er := h.er
  config := h.config
  policy := by rw [h.pm]
  sli := (congrArg (fun x : Supervisory => { x with draining := false }) h.sli :)
  ident q := congrArg (fun v : Vector Ident 12 => { v.get q with retry := none }) h.ident

/-- What a mark makes of a record, from the part with the new cycle begun. -/
def MarkRecord (b : State) (loaded changed : Bool) (p : Pos) (c d : Coord) : Prop :=
  ∃ c₁ c₂, Coordinated b loaded changed p c c₁ ∧ Stepped b loaded p c₁ c₂ ∧ Pointed b c₂ d

/-- The mark up to its command points. -/
def beforePoints (s : State) : State :=
  countDown (trackAtMark (selectAtMark s).2 (coordAtMark (selectAtMark s).2 (lengthens s) (opened s)))

theorem cycleMark_eq (s : State) : cycleMark s = beaconRound (forPositions commandPointAtMark (beforePoints s)) := rfl

theorem beforePoints_coord (s : State) :
    ∃ v pt pm, Steers (opened s) v ∧ beforePoints s = { v with pt := pt, pm := pm } ∧
      (∀ p, ∃ c, Coordinated (opened s) (selectAtMark s).2 (lengthens s) p ((opened s).coord p) c ∧
        Stepped (opened s) (selectAtMark s).2 p c (v.coord p)) ∧
      pt = { (opened s).pt with accumulators := Vector.replicate 12 { sum := 0, count := 0 },
                                errorBase := if (selectAtMark s).2 then some (opened s).now else (opened s).pt.errorBase } ∧
      pm.policy = (opened s).pm.policy ∧ ∀ p, (beforePoints s).budget p = (opened s).budget p - 1 := by
  unfold beforePoints
  generalize opened s = b, lengthens s = changed, (selectAtMark s).2 = loaded
  obtain ⟨steered, coordinated⟩ := coordAtMark_coord loaded changed b
  generalize coordAtMark loaded changed b = u at steered coordinated ⊢
  obtain ⟨v, pt, kept, eq, stepped, tracker⟩ := trackAtMark_coord loaded b u steered
  rw [eq]
  obtain ⟨⟨pm, eq', policy, -⟩, budgets⟩ := countDown_budgets { v with pt := pt }
  refine ⟨v, pt, pm, kept, eq', fun p => ⟨_, coordinated p, stepped p⟩, tracker, ?_, fun p => (budgets p).trans ?_⟩
  · rw [policy]
    exact congrArg Priority.policy kept.pm
  · exact congrArg (fun pm : Priority => pm.budgets.get p - 1) kept.pm

/-! ### The command points and the beacon -/

theorem pointed_live {s t : State} {c d : Coord} (h : Pointed t c d) (live : t.isLive = s.isLive) : Pointed s c d := by
  have same : Fires t c ↔ Fires s c := by
    unfold Fires
    rw [live]
  exact { h with idle := fun not => h.idle (fun is => not (same.1 is)), commanded := fun is => h.commanded (same.2 is) }

theorem pointPass_coord (u : State) :
    Steers u (forPositions commandPointAtMark u) ∧
      ∀ p, Pointed u (u.coord p) ((forPositions commandPointAtMark u).coord p) :=
  pass_coord (R := fun _ c d => Pointed u c d) (fun p v _ => (commandPointAtMark_points p v).1)
    (fun p v kept => pointed_live (commandPointAtMark_points p v).2 kept.isLive)

theorem offerEntry_ident (e : QueueEntry) (s : State) (q : Pos) :
    { (offerEntry e s).1.ident q with retry := none } = { s.ident q with retry := none } := by
  unfold offerEntry
  dsimp only
  split
  · rfl
  · split
    · rfl
    · split
      · rfl
      · split
        · rfl
        · split
          · rfl
          · split
            · rfl
            · exact (Road.evicted (wide := false) (A := fun _ => True) (C := fun _ => True) _ _).ident q

theorem Worked.ofOffered {s t : State} (h : Offered s t) (ident : ∀ q, { t.ident q with retry := none } =
    { s.ident q with retry := none }) : Worked s t where
  pending := h.pending
  limits := by rw [h.oc]
  qw := h.qw
  pl := h.pl
  ps := h.ps
  er := h.er
  config := h.config
  policy := by rw [h.pm]
  sli := by rw [h.sli]
  ident := ident

/-- The beacon round sets the deadline and claims a BEACON (R9). -/
theorem beaconRound_worked (s : State) :
    Worked s (beaconRound s) ∧ (beaconRound s).ctb = { s.ctb with beaconDeadline := later s.now s.ctb.beaconInterval } ∧
      (beaconRound s).oc = s.oc ∧ (beaconRound s).pt = s.pt ∧ (beaconRound s).pm = s.pm := by
  have on : Worked s (deadlineOn s) := by constructor <;> first | rfl | exact fun _ => rfl
  rw [show beaconRound s = if beaconCondition (deadlineOn s) then claimBeacon (deadlineOn s) else deadlineOn s from rfl]
  split
  · have offered : Offered (deadlineOn s) (claimBeacon (deadlineOn s)) := .offerEntry _ _
    exact ⟨on.trans (.ofOffered offered (offerEntry_ident _ _)), offered.ctb, offered.oc, offered.pt, offered.pm⟩
  · exact ⟨on, rfl, rfl, rfl, rfl⟩

theorem markEvent_due {s : State} (due : elapsed s.now s.ctb.anchor = s.ctb.cycleLength) :
    markEvent s = finish (cycleMark s) := if_pos (beq_iff_eq.2 due)

/-- What a due CYCLE-MARK does, from the part with the new cycle begun. -/
theorem markEvent_marks {s : State} (due : elapsed s.now s.ctb.anchor = s.ctb.cycleLength) :
    Worked (opened s) (markEvent s) ∧
      (markEvent s).ctb = { (opened s).ctb with beaconDeadline := later s.now s.ctb.beaconInterval } ∧
      (∀ p, MarkRecord (opened s) (selectAtMark s).2 (lengthens s) p ((opened s).coord p) ((markEvent s).coord p)) ∧
      (markEvent s).pt = { (opened s).pt with accumulators := Vector.replicate 12 { sum := 0, count := 0 },
                                              errorBase := if (selectAtMark s).2 then some s.now else s.pt.errorBase } ∧
      ∀ p, (markEvent s).budget p = s.budget p - 1 := by
  obtain ⟨oc, tracker, priority, -, -, -, -, -, -, -, clock, -⟩ := opened_leaves s
  obtain ⟨v, pt, pm, steered, eq, records, pools, policy, budgets⟩ := beforePoints_coord s
  have before : Worked (opened s) (beforePoints s) := by
    rw [eq]
    exact { Worked.ofSteers steered with policy := policy }
  have ctb : (beforePoints s).ctb = (opened s).ctb := by
    rw [eq]
    exact steered.ctb
  have coord (p : Pos) : (beforePoints s).coord p = v.coord p := by
    rw [eq]
    rfl
  have tracked : (beforePoints s).pt = pt := by rw [eq]
  obtain ⟨points, pointed⟩ := pointPass_coord (beforePoints s)
  have live : (beforePoints s).isLive = (opened s).isLive := by
    rw [eq]
    exact steered.isLive
  rw [markEvent_due due, cycleMark_eq]
  generalize beforePoints s = u at before ctb coord tracked points pointed live budgets ⊢
  generalize forPositions commandPointAtMark u = w at points pointed ⊢
  obtain ⟨round, deadline, records', trackers, priorities⟩ := beaconRound_worked w
  generalize beaconRound w = x at round deadline records' trackers priorities ⊢
  have settled := settles_finish x
  refine ⟨((before.trans (.ofSteers points)).trans round).trans (.ofSettles settled), ?_, fun p => ?_, ?_, fun p => ?_⟩
  · rw [settled.ctb, deadline, points.now, points.ctb, State.now, ctb, clock]
    rfl
  · obtain ⟨c, coordinated, stepped⟩ := records p
    refine ⟨c, v.coord p, coordinated, stepped, ?_⟩
    have last := pointed_live (pointed p) live
    rw [coord p] at last
    rw [show (finish x).coord p = w.coord p from congrArg (fun oc : Coordinator => oc.positions.get p) (settled.oc.trans records')]
    exact last
  · rw [settled.pt, trackers, points.pt, tracked, pools, State.now, clock, tracker]
    rfl
  · calc (finish x).budget p = w.budget p := congrArg (fun pm : Priority => pm.budgets.get p) (settled.pm.trans priorities)
      _ = u.budget p := congrArg (fun pm : Priority => pm.budgets.get p) points.pm
      _ = (opened s).budget p - 1 := budgets p
      _ = s.budget p - 1 := congrArg (fun pm : Priority => pm.budgets.get p - 1) priority

end Sys2Proof.Proofs.MarkStages
end

section
/-! PROOF. The Plan Selector at a cycle mark: the pending plan taken up, the requested mode, the evaluation (used by O11 to O14). -/

open Sys2Proof Sys2Proof.Machine

namespace Sys2Proof.Proofs.SelectorMarks

open Answers MarkStages

/-! ### The stages on the selector alone -/

/-- The selector when its pending plan is taken up, and whether a plan was loaded (R126). -/
def taken (pl : Library) (ps : Selector) : Selector × Bool :=
  match ps.pendingPlan with
  | none => (ps, false)
  | some x =>
    match pl.load x.slot with
    | .copy plan =>
      ({ ps with image := some { slot := x.slot, plan := plan }, pendingPlan := none, persistenceCount := 0, deferrals := 0 }, true)
    | .busy => ({ ps with deferrals := saturate 255 (ps.deferrals + 1) }, false)
    | .notValid _ => (ps.dropPending.forgetCandidate, false)

/-- The selector after the evaluation of a mark, if its mode is RESPONSIVE (R125). -/
def evaluated (pl : Library) (ps : Selector) : Selector := if ps.mode = .responsive then ps.evaluate pl else ps

/-- The selector with its pending plan taken up and the requested mode in force. -/
def switched (pl : Library) (ended : Nat) (ps : Selector) : Selector := (taken pl (ps.closeDemand ended)).1.takeRequested

/-- The selector when it has handled a mark, and whether a plan took effect (R123). -/
def marked (pl : Library) (ended : Nat) (ps : Selector) : Selector × Bool :=
  let first := (taken pl (ps.closeDemand ended)).2
  let next := evaluated pl (switched pl ended ps)
  if ps.mode = .free ∧ next.mode ≠ .free ∧ next.pendingPlan.isSome ∧ first = false then taken pl next else (next, first)

theorem takeUpPending_taken (s : State) :
    (takeUpPending s).1.ps = (taken s.pl s.ps).1 ∧ (takeUpPending s).2 = (taken s.pl s.ps).2 ∧
      (takeUpPending s).1.pl = s.pl := by
  unfold takeUpPending taken
  rcases Option.eq_none_or_eq_some s.ps.pendingPlan with pending | ⟨x, pending⟩
  · simp only [pending, and_self]
  · simp only [pending]
    cases s.pl.load x.slot with
    | copy plan => exact ⟨rfl, rfl, rfl⟩
    | busy => exact ⟨rfl, rfl, rfl⟩
    | notValid found => exact ⟨rfl, rfl, rfl⟩

theorem selectAtMark_marked (s : State) :
    (selectAtMark s).1.ps = (marked s.pl s.ctb.cycleLength s.ps).1 ∧ (selectAtMark s).2 = (marked s.pl s.ctb.cycleLength s.ps).2 := by
  obtain ⟨ps, loaded, pl⟩ := takeUpPending_taken { s with ps := s.ps.closeDemand s.ctb.cycleLength }
  unfold selectAtMark marked
  extract_lets wasFree s₁ first s₂ s₃ s₄ first' next
  have third : s₃.ps = switched s.pl s.ctb.cycleLength s.ps := congrArg Selector.takeRequested ps
  have library : s₃.pl = s.pl := pl
  have fourth : s₄.ps = next ∧ s₄.pl = s.pl := by
    simp only [s₄, next]
    unfold evaluated
    split
    · next is =>
      rw [third] at is
      rw [if_pos is, ← third, ← library]
      exact ⟨rfl, rfl⟩
    · next not =>
      rw [third] at not
      rw [if_neg not]
      exact ⟨third, library⟩
  have flag : first.2 = first' := loaded
  have free : (wasFree = true) ↔ s.ps.mode = .free := beq_iff_eq
  rw [fourth.1, flag]
  by_cases again : s.ps.mode = .free ∧ next.mode ≠ .free ∧ next.pendingPlan.isSome ∧ first' = false
  · obtain ⟨ps', loaded', -⟩ := takeUpPending_taken s₄
    rw [if_pos ⟨free.2 again.1, again.2⟩, if_pos again, ps', loaded', fourth.1, fourth.2]
    exact ⟨rfl, rfl⟩
  · rw [if_neg (fun both => again ⟨free.1 both.1, both.2⟩), if_neg again]
    exact ⟨fourth.1, rfl⟩

/-! ### The pending plan taken up (R126) -/

/-- What the handling of a pending plan leaves. -/
theorem taken_keeps (pl : Library) (ps : Selector) :
    { (taken pl ps).1 with image := ps.image, pendingPlan := ps.pendingPlan, deferrals := ps.deferrals,
                           previousCandidate := ps.previousCandidate, persistenceCount := ps.persistenceCount } = ps := by
  unfold taken
  split
  · rfl
  · split <;> rfl

theorem taken_none {pl : Library} {ps : Selector} (h : ps.pendingPlan = none) : taken pl ps = (ps, false) := by
  unfold taken
  rw [h]

theorem load_busy {pl : Library} (h : pl.write ≠ .idle) (slot : SlotIx) : pl.load slot = .busy :=
  if_pos (by rw [Library.writing]; exact bne_iff_ne.2 h)

theorem load_valid {pl : Library} {slot : SlotIx} {plan : Plan} (idle : pl.write = .idle) (h : pl.slots.get slot = .valid plan) :
    pl.load slot = .copy plan := by
  unfold Library.load Library.writing
  rw [idle, h]
  rfl

theorem load_invalid {pl : Library} {slot : SlotIx} (idle : pl.write = .idle) (h : ∀ plan, pl.slots.get slot ≠ .valid plan) :
    ∃ found, pl.load slot = .notValid found := by
  unfold Library.load Library.writing
  rw [idle]
  cases state : pl.slots.get slot with
  | valid plan => exact absurd state (h plan)
  | empty => exact ⟨_, rfl⟩
  | damaged => exact ⟨_, rfl⟩

theorem taken_busy {pl : Library} {ps : Selector} {x : PendingPlan} (h : ps.pendingPlan = some x) (busy : pl.write ≠ .idle) :
    taken pl ps = ({ ps with deferrals := saturate 255 (ps.deferrals + 1) }, false) := by
  unfold taken
  rw [h]
  dsimp only
  rw [load_busy busy]

theorem taken_valid {pl : Library} {ps : Selector} {x : PendingPlan} {plan : Plan} (h : ps.pendingPlan = some x)
    (idle : pl.write = .idle) (valid : pl.slots.get x.slot = .valid plan) :
    taken pl ps = ({ ps with image := some { slot := x.slot, plan := plan }, pendingPlan := none, persistenceCount := 0,
                             deferrals := 0 }, true) := by
  unfold taken
  rw [h]
  dsimp only
  rw [load_valid idle valid]

theorem taken_invalid {pl : Library} {ps : Selector} {x : PendingPlan} (h : ps.pendingPlan = some x)
    (idle : pl.write = .idle) (invalid : ∀ plan, pl.slots.get x.slot ≠ .valid plan) :
    taken pl ps = (ps.dropPending.forgetCandidate, false) := by
  obtain ⟨found, load⟩ := load_invalid idle invalid
  unfold taken
  rw [h]
  dsimp only
  rw [load]

/-- With no plan pending, or while a write is in flight, the selector only counts a deferral. -/
theorem taken_waits {pl : Library} {ps : Selector} (h : ps.pendingPlan = none ∨ pl.write ≠ .idle) :
    taken pl ps =
      ({ ps with deferrals := if ps.pendingPlan = none then ps.deferrals else min 255 (ps.deferrals + 1) }, false) := by
  rcases Option.eq_none_or_eq_some ps.pendingPlan with pending | ⟨x, pending⟩
  · rw [taken_none pending, if_pos pending]
  · rcases h with none | busy
    · rw [pending] at none
      exact absurd none nofun
    · rw [taken_busy pending busy, if_neg (by rw [pending]; nofun), Failures.saturate_eq_min]

/-! ### The evaluation (R125) -/

/-- What an evaluation leaves. -/
theorem evaluate_keeps (ps : Selector) (pl : Library) :
    { ps.evaluate pl with pendingPlan := ps.pendingPlan, deferrals := ps.deferrals,
                          previousCandidate := ps.previousCandidate, persistenceCount := ps.persistenceCount } = ps := by
  have promoted (q : Selector) (slot : SlotIx) :
      { q.promote slot with pendingPlan := q.pendingPlan, deferrals := q.deferrals,
                            previousCandidate := q.previousCandidate, persistenceCount := q.persistenceCount } = q := by
    unfold Selector.promote
    split
    · dsimp only
      repeat' (first | rfl | split)
    · rfl
  unfold Selector.evaluate
  split
  · rfl
  · split
    · dsimp only
      repeat' (first | rfl | split)
    · split
      · next slot _ _ _ =>
        exact (congrArg (fun q : Selector => { q with persistenceCount := ps.persistenceCount })
          (promoted { ps with persistenceCount := ps.persistenceCount + 1 } slot) :)
      · next slot _ _ _ =>
        exact (congrArg (fun q : Selector => { q with persistenceCount := ps.persistenceCount, previousCandidate := ps.previousCandidate })
          (promoted { ps with persistenceCount := 1, previousCandidate := some slot } slot) :)

theorem evaluated_keeps (pl : Library) (ps : Selector) :
    { evaluated pl ps with pendingPlan := ps.pendingPlan, deferrals := ps.deferrals,
                           previousCandidate := ps.previousCandidate, persistenceCount := ps.persistenceCount } = ps := by
  unfold evaluated
  split
  · exact evaluate_keeps ps pl
  · rfl

/-- The selector without what a plan, pending or active, and a candidate make of it. -/
def unplanned (ps : Selector) : Selector :=
  { ps with image := none, pendingPlan := none, deferrals := 0, previousCandidate := none, persistenceCount := 0 }

/-- What the handling of a mark leaves of the selector when its demand is closed and the requested mode in force. -/
theorem marked_keeps (pl : Library) (ended : Nat) (ps : Selector) :
    unplanned (marked pl ended ps).1 = unplanned (switched pl ended ps) := by
  have next := (congrArg unplanned (evaluated_keeps pl (switched pl ended ps)) :)
  have last := (congrArg unplanned (taken_keeps pl (evaluated pl (switched pl ended ps))) :)
  unfold marked
  dsimp only
  split
  · exact last.trans next
  · exact next

/-! ### The requested mode (R124) -/

theorem takeRequested_none {ps : Selector} (h : ps.requested = none) : ps.takeRequested = ps := by
  unfold Selector.takeRequested
  rw [h]

theorem takeRequested_free {ps : Selector} (h : ps.requested = some .free) :
    ps.takeRequested = { ps.dropPending.forgetCandidate with mode := .free, requested := none } := by
  unfold Selector.takeRequested
  rw [h]

/-- The pending plan of a PIN. -/
def pinning (ps : Selector) (slot : SlotIx) : Selector :=
  if ps.mode = .free then ps.makePending slot .pin
  else if ps.activeSlot ≠ some slot then ps.makePending slot .pin
  else if ps.pendingPlan = some { slot := slot, cause := .reload } then ps
  else ps.dropPending

theorem pinning_image (ps : Selector) (slot : SlotIx) : (pinning ps slot).image = ps.image := by
  unfold pinning
  split
  · rfl
  · split
    · rfl
    · split <;> rfl

theorem pinning_moves {ps : Selector} {slot : SlotIx} (mode : ps.mode ≠ .free) (active : ps.activeSlot ≠ some slot) :
    pinning ps slot = ps.makePending slot .pin := (if_neg mode).trans (if_pos active)

theorem pinning_drops {ps : Selector} {slot : SlotIx} (mode : ps.mode ≠ .free) (active : ps.activeSlot = some slot)
    (other : ps.pendingPlan ≠ some { slot := slot, cause := .reload }) : pinning ps slot = ps.dropPending :=
  (if_neg mode).trans ((if_neg (not_not.2 active)).trans (if_neg other))

theorem pinning_reloads {ps : Selector} {slot : SlotIx} (mode : ps.mode ≠ .free) (active : ps.activeSlot = some slot)
    (reload : ps.pendingPlan = some { slot := slot, cause := .reload }) : pinning ps slot = ps :=
  (if_neg mode).trans ((if_neg (not_not.2 active)).trans (if_pos reload))

theorem takeRequested_pinned {ps : Selector} {slot : SlotIx} (h : ps.requested = some (.pinned slot)) :
    ps.takeRequested = { (pinning ps slot).forgetCandidate with mode := .pinned slot, requested := none } := by
  unfold Selector.takeRequested
  rw [h]
  rfl

theorem takeRequested_responsive {ps : Selector} {n : Nat} (h : ps.requested = some (.responsive n)) :
    ps.takeRequested =
      if ps.mode = .responsive then { ps with persistenceSetting := n, requested := none }
      else { ps.dropPending.forgetCandidate with mode := .responsive, persistenceSetting := n, requested := none } := by
  unfold Selector.takeRequested
  rw [h]

theorem takeRequested_requested (ps : Selector) : ps.takeRequested.requested = none := by
  cases h : ps.requested with
  | none => rw [takeRequested_none h, h]
  | some m =>
    cases m with
    | free => rw [takeRequested_free h]
    | pinned slot => rw [takeRequested_pinned h]
    | responsive n =>
      rw [takeRequested_responsive h]
      split <;> rfl

/-- The handling of a pending plan leaves the modes, the flows and the table. -/
theorem taken_fields (pl : Library) (ps : Selector) :
    (taken pl ps).1.mode = ps.mode ∧ (taken pl ps).1.requested = ps.requested ∧
      (taken pl ps).1.persistenceSetting = ps.persistenceSetting ∧ (taken pl ps).1.inboundFlow = ps.inboundFlow ∧
      (taken pl ps).1.outboundFlow = ps.outboundFlow ∧ (taken pl ps).1.inboundAccumulator = ps.inboundAccumulator ∧
      (taken pl ps).1.outboundAccumulator = ps.outboundAccumulator := by
  have h := taken_keeps pl ps
  exact ⟨(congrArg Selector.mode h :), (congrArg Selector.requested h :), (congrArg Selector.persistenceSetting h :),
    (congrArg Selector.inboundFlow h :), (congrArg Selector.outboundFlow h :), (congrArg Selector.inboundAccumulator h :),
    (congrArg Selector.outboundAccumulator h :)⟩

theorem takeRequested_flows (ps : Selector) :
    ps.takeRequested.inboundFlow = ps.inboundFlow ∧ ps.takeRequested.outboundFlow = ps.outboundFlow ∧
      ps.takeRequested.inboundAccumulator = ps.inboundAccumulator ∧
      ps.takeRequested.outboundAccumulator = ps.outboundAccumulator := by
  unfold Selector.takeRequested
  repeat' (first | exact ⟨rfl, rfl, rfl, rfl⟩ | split)

/-! ### What a mark does with a requested mode -/

variable {pl : Library} {ended : Nat} {ps : Selector}

theorem closed_taken (pl : Library) (ended : Nat) (ps : Selector) :
    (taken pl (ps.closeDemand ended)).1.mode = ps.mode ∧ (taken pl (ps.closeDemand ended)).1.requested = ps.requested ∧
      (taken pl (ps.closeDemand ended)).1.persistenceSetting = ps.persistenceSetting := by
  obtain ⟨mode, requested, setting, -⟩ := taken_fields pl (ps.closeDemand ended)
  exact ⟨mode, requested, setting⟩

/-- The selector with its demand closed, when its pending plan waits on. -/
def deferred (ended : Nat) (ps : Selector) : Selector :=
  { ps.closeDemand ended with deferrals := if ps.pendingPlan = none then ps.deferrals else min 255 (ps.deferrals + 1) }

theorem closed_waits (h : ps.pendingPlan = none ∨ pl.write ≠ .idle) (ended : Nat) :
    taken pl (ps.closeDemand ended) = (deferred ended ps, false) := taken_waits (ps := ps.closeDemand ended) h

/-- The modes after a mark are those in force before the evaluation. -/
theorem marked_fields (pl : Library) (ended : Nat) (ps : Selector) :
    (marked pl ended ps).1.mode = (switched pl ended ps).mode ∧
      (marked pl ended ps).1.requested = (switched pl ended ps).requested ∧
      (marked pl ended ps).1.persistenceSetting = (switched pl ended ps).persistenceSetting ∧
      (marked pl ended ps).1.inboundFlow = (switched pl ended ps).inboundFlow ∧
      (marked pl ended ps).1.outboundFlow = (switched pl ended ps).outboundFlow ∧
      (marked pl ended ps).1.inboundAccumulator = (switched pl ended ps).inboundAccumulator ∧
      (marked pl ended ps).1.outboundAccumulator = (switched pl ended ps).outboundAccumulator := by
  have h := marked_keeps pl ended ps
  exact ⟨(congrArg Selector.mode h :), (congrArg Selector.requested h :), (congrArg Selector.persistenceSetting h :),
    (congrArg Selector.inboundFlow h :), (congrArg Selector.outboundFlow h :), (congrArg Selector.inboundAccumulator h :),
    (congrArg Selector.outboundAccumulator h :)⟩

theorem marked_requested (pl : Library) (ended : Nat) (ps : Selector) : (marked pl ended ps).1.requested = none :=
  (marked_fields pl ended ps).2.1.trans (takeRequested_requested _)

theorem marked_flows (pl : Library) (ended : Nat) (ps : Selector) :
    (marked pl ended ps).1.inboundFlow = (ps.closeDemand ended).inboundFlow ∧
      (marked pl ended ps).1.outboundFlow = (ps.closeDemand ended).outboundFlow ∧
      (marked pl ended ps).1.inboundAccumulator = 0 ∧ (marked pl ended ps).1.outboundAccumulator = 0 := by
  obtain ⟨-, -, -, inbound, outbound, inboundCount, outboundCount⟩ := marked_fields pl ended ps
  obtain ⟨inbound', outbound', inboundCount', outboundCount'⟩ := takeRequested_flows (taken pl (ps.closeDemand ended)).1
  obtain ⟨-, -, -, inbound₀, outbound₀, inboundCount₀, outboundCount₀⟩ := taken_fields pl (ps.closeDemand ended)
  exact ⟨inbound.trans (inbound'.trans inbound₀), outbound.trans (outbound'.trans outbound₀),
    inboundCount.trans (inboundCount'.trans inboundCount₀), outboundCount.trans (outboundCount'.trans outboundCount₀)⟩

/-- No plan is taken up a second time. -/
theorem marked_once (h : ps.mode = .free → (evaluated pl (switched pl ended ps)).mode = .free ∨
      (evaluated pl (switched pl ended ps)).pendingPlan = none) :
    marked pl ended ps = (evaluated pl (switched pl ended ps), (taken pl (ps.closeDemand ended)).2) := by
  refine if_neg (fun again => ?_)
  rcases h again.1 with free | none
  · exact again.2.1 free
  · rw [none] at again
    exact absurd again.2.2.1 nofun

theorem evaluated_other (h : ps.mode ≠ .responsive) : evaluated pl ps = ps := if_neg h

/-- A requested FREE is taken up (R124). -/
theorem marked_free (h : ps.requested = some .free) :
    (marked pl ended ps).1 =
      { (taken pl (ps.closeDemand ended)).1.dropPending.forgetCandidate with mode := .free, requested := none } := by
  have next : switched pl ended ps =
      { (taken pl (ps.closeDemand ended)).1.dropPending.forgetCandidate with mode := .free, requested := none } :=
    takeRequested_free ((closed_taken pl ended ps).2.1.trans h)
  have rest : evaluated pl (switched pl ended ps) = switched pl ended ps := evaluated_other (by rw [next]; nofun)
  rw [marked_once (fun _ => .inl (by rw [rest, next])), rest, next]

theorem switched_pinned {slot : SlotIx} (h : ps.requested = some (.pinned slot)) :
    evaluated pl (switched pl ended ps) =
      { (pinning (taken pl (ps.closeDemand ended)).1 slot).forgetCandidate with mode := .pinned slot, requested := none } := by
  have next : switched pl ended ps =
      { (pinning (taken pl (ps.closeDemand ended)).1 slot).forgetCandidate with mode := .pinned slot, requested := none } :=
    takeRequested_pinned ((closed_taken pl ended ps).2.1.trans h)
  rw [evaluated_other (by rw [next]; nofun), next]

/-- A requested PIN becomes the mode (R124). -/
theorem marked_pinned {slot : SlotIx} (h : ps.requested = some (.pinned slot)) :
    (marked pl ended ps).1.mode = .pinned slot := by
  rw [(marked_fields pl ended ps).1, switched, takeRequested_pinned ((closed_taken pl ended ps).2.1.trans h)]

/-- A PIN from FREE with no plan pending makes its slot pending, which is taken up at once (R124, R126). -/
theorem marked_pinned_free {slot : SlotIx} (h : ps.requested = some (.pinned slot)) (free : ps.mode = .free)
    (none' : ps.pendingPlan = none) :
    marked pl ended ps =
      taken pl { ((ps.closeDemand ended).makePending slot .pin).forgetCandidate with mode := .pinned slot, requested := none } := by
  have first := taken_none (pl := pl) (ps := ps.closeDemand ended) none'
  have next := switched_pinned (pl := pl) (ended := ended) h
  rw [first] at next
  rw [show pinning (ps.closeDemand ended) slot = (ps.closeDemand ended).makePending slot .pin from if_pos free] at next
  unfold marked
  dsimp only
  rw [next, first]
  exact if_pos ⟨free, nofun, rfl, rfl⟩

/-- A PIN from another mode than FREE while the pending plan waits (R124). -/
theorem marked_pinned_other {slot : SlotIx} (h : ps.requested = some (.pinned slot)) (free : ps.mode ≠ .free)
    (waits : ps.pendingPlan = none ∨ pl.write ≠ .idle) :
    (marked pl ended ps).1 =
      { (pinning (deferred ended ps) slot).forgetCandidate with mode := .pinned slot, requested := none } := by
  rw [marked_once (fun is => absurd is free), switched_pinned h, closed_waits waits]

/-- A requested RESPONSIVE becomes the mode, with its setting (R124). -/
theorem marked_responsive {n : Nat} (h : ps.requested = some (.responsive n)) :
    (marked pl ended ps).1.mode = .responsive ∧ (marked pl ended ps).1.persistenceSetting = n := by
  obtain ⟨mode, -, setting, -⟩ := marked_fields pl ended ps
  rw [mode, setting, switched, takeRequested_responsive ((closed_taken pl ended ps).2.1.trans h)]
  split
  · next is => exact ⟨is, rfl⟩
  · exact ⟨rfl, rfl⟩

theorem switched_unrequested (h : ps.requested = none) : switched pl ended ps = (taken pl (ps.closeDemand ended)).1 :=
  takeRequested_none ((closed_taken pl ended ps).2.1.trans h)

/-- With no mode requested the mode and the setting stay. -/
theorem marked_unrequested (h : ps.requested = none) :
    (marked pl ended ps).1.mode = ps.mode ∧ (marked pl ended ps).1.persistenceSetting = ps.persistenceSetting := by
  obtain ⟨mode, -, setting, -⟩ := marked_fields pl ended ps
  obtain ⟨mode', -, setting'⟩ := closed_taken pl ended ps
  rw [mode, setting, switched_unrequested h]
  exact ⟨mode', setting'⟩

/-- With no mode requested and a mode other than RESPONSIVE the mark only takes up the pending plan. -/
theorem marked_takes (h : ps.requested = none) (other : ps.mode ≠ .responsive) :
    marked pl ended ps = taken pl (ps.closeDemand ended) := by
  have mode := (closed_taken pl ended ps).1
  have rest : evaluated pl (switched pl ended ps) = (taken pl (ps.closeDemand ended)).1 := by
    rw [switched_unrequested h]
    exact evaluated_other (by rw [mode]; exact other)
  rw [marked_once (fun is => .inl (by rw [rest, mode]; exact is)), rest]

/-! ### The candidate (R125) -/

/-- An entry of the selection table fits, with its slot VALID. -/
def Fitting (ps : Selector) (pl : Library) (i : SelectIx) (slot : SlotIx) : Prop :=
  ∃ e, ps.table.get i = some e ∧ e.slot = slot ∧ (∃ plan, pl.slots.get slot = .valid plan) ∧ e.minTotal ≤ ps.totalFlow ∧
    ps.totalFlow ≤ e.maxTotal ∧ e.minShare ≤ ps.inboundShare ∧ ps.inboundShare ≤ e.maxShare

/-- What a place of the table offers to the choice of a candidate. -/
def offered (ps : Selector) (pl : Library) (i : SelectIx) : Option SlotIx :=
  match ps.table.get i with
  | none => none
  | some e => if fits ps e && slotState (pl.slots.get e.slot) == .valid then some e.slot else none

theorem slotState_valid {x : Slot} : slotState x = .valid ↔ ∃ plan, x = .valid plan := by
  cases x with
  | valid plan => exact ⟨fun _ => ⟨plan, rfl⟩, fun _ => rfl⟩
  | empty => exact ⟨fun h => absurd h nofun, fun ⟨_, h⟩ => absurd h nofun⟩
  | damaged => exact ⟨fun h => absurd h nofun, fun ⟨_, h⟩ => absurd h nofun⟩

theorem fits_iff (ps : Selector) (e : SelectEntry) :
    fits ps e = true ↔ e.minTotal ≤ ps.totalFlow ∧ ps.totalFlow ≤ e.maxTotal ∧ e.minShare ≤ ps.inboundShare ∧
      ps.inboundShare ≤ e.maxShare := by
  unfold fits inRange
  simp only [Bool.and_eq_true, decide_eq_true_eq, and_assoc]

theorem offered_iff (ps : Selector) (pl : Library) (i : SelectIx) (slot : SlotIx) :
    offered ps pl i = some slot ↔ Fitting ps pl i slot := by
  unfold offered Fitting
  rcases Option.eq_none_or_eq_some (ps.table.get i) with none | ⟨e, some⟩
  · rw [none]
    exact ⟨fun h => absurd h nofun, fun ⟨_, h, _⟩ => absurd h nofun⟩
  · rw [some]
    dsimp only
    constructor
    · intro h
      obtain ⟨good, same⟩ := Option.ite_none_right_eq_some.1 h
      obtain rfl := Option.some.inj same
      obtain ⟨fit, valid⟩ := Bool.and_eq_true_iff.1 good
      exact ⟨e, rfl, rfl, slotState_valid.1 (beq_iff_eq.1 valid), (fits_iff ps e).1 fit⟩
    · rintro ⟨x, eq, rfl, valid, fit⟩
      cases eq
      exact if_pos (Bool.and_eq_true_iff.2 ⟨(fits_iff ps e).2 fit, beq_iff_eq.2 (slotState_valid.2 valid)⟩)

theorem mem_selectPlaces : ∀ i : SelectIx, i ∈ selectPlaces := by decide

theorem selectPlaces_ordered : selectPlaces.Pairwise (· < ·) := by decide

/-- In an ordered list the first place that offers a value is found. -/
theorem findSome?_first {ι β : Type} [LT ι] {f : ι → Option β} {b : β} {i : ι} (hb : f i = some b)
    (first : ∀ j, j < i → f j = none) : ∀ {l : List ι}, l.Pairwise (· < ·) → i ∈ l → l.findSome? f = some b
  | j :: l, ordered, mem => by
    rcases List.mem_cons.1 mem with rfl | mem
    · rw [List.findSome?_cons, hb]
    · rw [List.findSome?_cons, first j (List.rel_of_pairwise_cons ordered mem)]
      exact findSome?_first hb first ordered.tail mem

theorem candidate_eq (ps : Selector) (pl : Library) : candidate ps pl = selectPlaces.findSome? (offered ps pl) := rfl

theorem candidate_chosen {i : SelectIx} {slot : SlotIx} (fit : Fitting ps pl i slot)
    (first : ∀ j other, j < i → ¬ Fitting ps pl j other) : candidate ps pl = some slot :=
  findSome?_first ((offered_iff ps pl i slot).2 fit)
    (fun j lt => Option.eq_none_iff_forall_ne_some.2 (fun other is => first j other lt ((offered_iff ps pl j other).1 is)))
    selectPlaces_ordered (mem_selectPlaces i)

theorem candidate_none (h : ∀ i slot, ¬ Fitting ps pl i slot) : candidate ps pl = none :=
  List.findSome?_eq_none_iff.2 (fun i _ =>
    Option.eq_none_iff_forall_ne_some.2 (fun slot is => h i slot ((offered_iff ps pl i slot).1 is)))

/-! ### The evaluation of a candidate (R125) -/

/-- The marks through which a candidate has been seen. -/
def seenThrough (ps : Selector) (slot : SlotIx) : Nat :=
  if ps.previousCandidate = some slot then ps.persistenceCount + 1 else 1

theorem evaluate_none (h : candidate ps pl = none) : ps.evaluate pl = ps.forgetCandidate := by
  unfold Selector.evaluate
  rw [h]

theorem evaluate_active {slot : SlotIx} (h : candidate ps pl = some slot) (active : ps.activeSlot = some slot) :
    (ps.evaluate pl).previousCandidate = some slot ∧ (ps.evaluate pl).persistenceCount = 0 ∧
      (ps.pendingPlan.map PendingPlan.cause = some .demand →
        (ps.evaluate pl).pendingPlan = none ∧ (ps.evaluate pl).deferrals = 0) ∧
      (ps.pendingPlan.map PendingPlan.cause ≠ some .demand →
        (ps.evaluate pl).pendingPlan = ps.pendingPlan ∧ (ps.evaluate pl).deferrals = ps.deferrals) := by
  unfold Selector.evaluate
  rw [h]
  dsimp only
  rw [if_pos active]
  refine ⟨rfl, rfl, ?_⟩
  rcases Option.eq_none_or_eq_some ps.pendingPlan with none | ⟨x, some⟩
  · simp [none]
  · by_cases demand : x.cause = .demand <;> simp [some, demand, Selector.dropPending]

theorem evaluate_other {slot : SlotIx} (h : candidate ps pl = some slot) (active : ps.activeSlot ≠ some slot) :
    ps.evaluate pl =
      ({ ps with persistenceCount := seenThrough ps slot, previousCandidate := some slot } : Selector).promote slot := by
  unfold Selector.evaluate seenThrough
  rw [h]
  dsimp only
  rw [if_neg active]
  by_cases seen : ps.previousCandidate = some slot
  · rw [if_pos seen, if_pos seen, ← seen]
  · rw [if_neg seen, if_neg seen]

theorem promote_waits {slot : SlotIx} (h : ps.persistenceCount < ps.persistenceSetting) : ps.promote slot = ps :=
  if_neg (by omega)

theorem promote_acts {slot : SlotIx} (h : ps.persistenceSetting ≤ ps.persistenceCount) :
    (ps.promote slot).persistenceCount = 0 ∧ (ps.promote slot).previousCandidate = ps.previousCandidate ∧
      (ps.pendingPlan.map PendingPlan.slot = some slot →
        (ps.promote slot).pendingPlan = ps.pendingPlan ∧ (ps.promote slot).deferrals = ps.deferrals) ∧
      (ps.pendingPlan.map PendingPlan.slot ≠ some slot →
        (ps.promote slot).pendingPlan = some { slot := slot, cause := .demand } ∧ (ps.promote slot).deferrals = 0) := by
  unfold Selector.promote
  rw [if_pos h]
  dsimp only
  rcases Option.eq_none_or_eq_some ps.pendingPlan with none | ⟨x, some⟩
  · simp [none, Selector.makePending]
  · by_cases same : x.slot = slot <;> simp [some, same, Selector.makePending]

end Sys2Proof.Proofs.SelectorMarks
end

section
/-! PROOF. A cycle mark in RESPONSIVE mode, and the Plan Selector at the mark (O14). -/

open Sys2Proof Sys2Proof.Machine

namespace Sys2Proof.Proofs.SelectionMarks

open SelectorMarks MarkStages

variable {pl : Library} {ended : Nat} {ps r : Selector}

/-! ### The selector before an evaluation -/

/-- The selector `r` before the evaluation of a mark in RESPONSIVE mode, from the selector `ps` before the mark. -/
structure Follows (ended : Nat) (ps r : Selector) : Prop where
  mode : r.mode = .responsive
  image : r.image = ps.image
  table : r.table = ps.table
  inbound : r.inboundFlow = (ps.closeDemand ended).inboundFlow
  outbound : r.outboundFlow = (ps.closeDemand ended).outboundFlow
  pending : r.pendingPlan = if ps.mode = .responsive then ps.pendingPlan else none
  deferrals : r.deferrals =
    if ps.mode = .responsive then (if ps.pendingPlan = none then ps.deferrals else min 255 (ps.deferrals + 1)) else 0
  seen : r.previousCandidate = if ps.mode = .responsive then ps.previousCandidate else none
  count : ps.mode = .responsive → r.persistenceCount = ps.persistenceCount

theorem switched_follows (responsive : (ps.requested = none ∧ ps.mode = .responsive) ∨ ∃ n, ps.requested = some (.responsive n))
    (waits : ps.pendingPlan = none ∨ pl.write ≠ .idle) (ended : Nat) : Follows ended ps (switched pl ended ps) := by
  have first := closed_waits waits ended
  rcases responsive with ⟨none, is⟩ | ⟨n, request⟩
  · rw [switched_unrequested none, first]
    exact ⟨is, rfl, rfl, rfl, rfl, (if_pos is).symm, (if_pos is).symm, (if_pos is).symm, fun _ => rfl⟩
  · rw [switched, takeRequested_responsive ((closed_taken pl ended ps).2.1.trans request), first]
    by_cases is : ps.mode = .responsive
    · rw [if_pos (show (deferred ended ps).mode = .responsive from is)]
      exact ⟨is, rfl, rfl, rfl, rfl, (if_pos is).symm, (if_pos is).symm, (if_pos is).symm, fun _ => rfl⟩
    · rw [if_neg (show (deferred ended ps).mode ≠ .responsive from is)]
      exact ⟨rfl, rfl, rfl, rfl, rfl, (if_neg is).symm, (if_neg is).symm, (if_neg is).symm, fun now => absurd now is⟩

theorem Follows.seenFor (h : Follows ended ps r) (slot : SlotIx) :
    seenThrough r slot =
      if (if ps.mode = .responsive then ps.previousCandidate else none) = some slot then ps.persistenceCount + 1 else 1 := by
  unfold SelectorMarks.seenThrough
  rw [h.seen]
  by_cases is : ps.mode = .responsive
  · rw [if_pos is, h.count is]
  · rw [if_neg is]
    rfl

/-- From FREE a candidate on its first mark leaves no plan pending while the setting asks for more. -/
theorem Follows.evaluate_pending (h : Follows ended ps r) (free : ps.mode = .free) (more : 1 < r.persistenceSetting) :
    (r.evaluate pl).pendingPlan = none := by
  have other : ps.mode ≠ .responsive := by
    rw [free]
    nofun
  have none' : r.pendingPlan = none := h.pending.trans (if_neg other)
  cases chosen : candidate r pl with
  | none =>
    rw [evaluate_none chosen]
    exact none'
  | some slot =>
    by_cases active : r.activeSlot = some slot
    · exact ((evaluate_active chosen active).2.2.2 (by rw [none']; nofun)).1.trans none'
    · have once : seenThrough r slot = 1 := (h.seenFor slot).trans (if_neg (by rw [if_neg other]; nofun))
      rw [evaluate_other chosen active, promote_waits (by rw [once]; exact more)]
      exact none'

theorem marked_evaluates (h : Follows ended ps (switched pl ended ps))
    (more : ps.mode = .free → 1 < (switched pl ended ps).persistenceSetting) :
    (marked pl ended ps).1 = (switched pl ended ps).evaluate pl := by
  have eq : evaluated pl (switched pl ended ps) = (switched pl ended ps).evaluate pl := if_pos h.mode
  rw [marked_once (fun free => .inr (by rw [eq]; exact h.evaluate_pending free (more free))), eq]

/-- From FREE a setting of 1 loads the candidate at once (R125, R126). -/
theorem marked_loads (h : Follows ended ps (switched pl ended ps)) (free : ps.mode = .free) (none' : ps.pendingPlan = none)
    (idle : pl.write = .idle) {slot : SlotIx} {plan : Plan} (setting : (switched pl ended ps).persistenceSetting ≤ 1)
    (chosen : candidate (switched pl ended ps) pl = some slot) (active : ps.activeSlot ≠ some slot)
    (valid : pl.slots.get slot = .valid plan) :
    (marked pl ended ps).1.image = some { slot := slot, plan := plan } ∧ (marked pl ended ps).1.pendingPlan = none ∧
      (marked pl ended ps).1.deferrals = 0 := by
  have other : ps.mode ≠ .responsive := by
    rw [free]
    nofun
  have eq : evaluated pl (switched pl ended ps) = (switched pl ended ps).evaluate pl := if_pos h.mode
  have mode : (evaluated pl (switched pl ended ps)).mode = .responsive :=
    (congrArg Selector.mode (evaluated_keeps pl (switched pl ended ps)) :).trans h.mode
  have once : seenThrough (switched pl ended ps) slot = 1 :=
    (h.seenFor slot).trans (if_neg (by rw [if_neg other]; nofun))
  have inactive : (switched pl ended ps).activeSlot ≠ some slot := by
    unfold Selector.activeSlot
    rw [h.image]
    exact active
  obtain ⟨-, -, -, acts⟩ := promote_acts (slot := slot)
    (ps := { switched pl ended ps with persistenceCount := seenThrough (switched pl ended ps) slot, previousCandidate := some slot })
    (by rw [once]; exact setting)
  have pending : (evaluated pl (switched pl ended ps)).pendingPlan = some { slot := slot, cause := .demand } := by
    rw [eq, evaluate_other chosen inactive]
    exact (acts (by rw [h.pending, if_neg other]; nofun)).1
  have first : (taken pl (ps.closeDemand ended)).2 = false := by rw [taken_none (ps := ps.closeDemand ended) none']
  rw [show marked pl ended ps = taken pl (evaluated pl (switched pl ended ps)) from
    if_pos ⟨free, by rw [mode]; nofun, by rw [pending]; rfl, first⟩, taken_valid pending idle valid]
  exact ⟨rfl, rfl, rfl⟩

theorem Follows.fitting (h : Follows ended ps r) (pl : Library) (i : SelectIx) (slot : SlotIx) :
    Fitting r pl i slot ↔
      ∃ e, ps.table.get i = some e ∧ e.slot = slot ∧ (∃ plan, pl.slots.get slot = .valid plan) ∧
        e.minTotal ≤ r.inboundFlow + r.outboundFlow ∧ r.inboundFlow + r.outboundFlow ≤ e.maxTotal ∧
        e.minShare ≤ (if r.inboundFlow + r.outboundFlow = 0 then 0 else r.inboundFlow * 100 / (r.inboundFlow + r.outboundFlow)) ∧
        (if r.inboundFlow + r.outboundFlow = 0 then 0 else r.inboundFlow * 100 / (r.inboundFlow + r.outboundFlow)) ≤ e.maxShare := by
  unfold Fitting
  rw [h.table]
  rfl

/-! ### The obligation -/

theorem execCycleMark_ps (s : State) (due : elapsed s.now s.ctb.anchor = s.ctb.cycleLength) :
    (markEvent s).ps = (marked s.pl s.ctb.cycleLength s.ps).1 :=
  (markEvent_marks due).1.ps.trans ((opened_leaves s).2.2.2.2.2.2.2.2.2.2.2.trans (selectAtMark_marked s).1)

/-- Settles O14, on the selector alone: the taking up of the pending plan, the requested mode and the evaluation in turn. -/
theorem selectorActsAtTheMark : Obligations.SelectorActsAtTheMark := by
  unfold Obligations.SelectorActsAtTheMark
  intro s due
  have table : (markEvent s).ps.table = s.ps.table :=
    (congrArg Selector.table (markEvent_marks due).1.ps).trans (selectAtMark_selects s).table
  have eq := execCycleMark_ps s due
  refine ⟨markEvent s, rfl, ?_⟩
  generalize markEvent s = t at table eq ⊢
  rw [eq] at table ⊢
  generalize s.ctb.cycleLength = ended at table ⊢
  have fields := marked_fields s.pl ended s.ps
  refine ⟨marked_requested _ _ _, table, fun request => ?_, fun slot request => marked_pinned request,
    fun slot plan request free none' idle valid => ?_, fun slot request free none' busy => ?_,
    fun slot request free waits => ?_, fun n request => marked_responsive request, marked_unrequested,
    fun x pending idle invalid none' other => ?_, fun x pending busy none' other => ?_, fun responsive waits => ?_⟩
  · rw [marked_free request]
    exact ⟨rfl, rfl, rfl, rfl, rfl⟩
  · rw [marked_pinned_free request free none', taken_valid rfl idle valid]
    exact ⟨rfl, rfl, rfl⟩
  · rw [marked_pinned_free request free none', taken_busy rfl busy]
    exact ⟨rfl, rfl, rfl⟩
  · rw [marked_pinned_other request free waits]
    refine ⟨pinning_image _ slot, rfl, rfl, fun inactive => ?_, fun active fresh => ?_, fun active reload => ?_⟩
    · rw [pinning_moves (ps := deferred ended s.ps) free inactive]
      exact ⟨rfl, rfl⟩
    · rw [pinning_drops (ps := deferred ended s.ps) free active fresh]
      exact ⟨rfl, rfl⟩
    · rw [pinning_reloads (ps := deferred ended s.ps) free active reload]
      exact ⟨rfl, if_neg (by rw [reload]; nofun)⟩
  · rw [marked_takes none' other, taken_invalid (ps := s.ps.closeDemand ended) pending idle invalid]
    exact ⟨rfl, rfl, rfl, rfl, rfl⟩
  · rw [marked_takes none' other, taken_busy (ps := s.ps.closeDemand ended) pending busy]
    exact ⟨rfl, pending, Failures.saturate_eq_min _ _, rfl, rfl⟩
  · obtain ⟨-, -, setting, inbound, outbound, -⟩ := fields
    have follows := switched_follows responsive waits ended
    rw [setting, inbound, outbound]
    have fitting (i : SelectIx) (slot : SlotIx) := follows.fitting s.pl i slot
    have evaluates := marked_evaluates follows
    have loads := @marked_loads s.pl ended s.ps follows
    have counts (slot : SlotIx) := follows.seenFor slot
    have activeSlot : (switched s.pl ended s.ps).activeSlot = s.ps.activeSlot := by
      unfold Selector.activeSlot
      rw [follows.image]
    have pending := follows.pending
    have deferrals := follows.deferrals
    have image := follows.image
    generalize switched s.pl ended s.ps = r at fitting evaluates loads counts activeSlot pending deferrals image ⊢
    intro setting total share fitting' chosen active follows standing waited seen
    have chosenSlot {i : SelectIx} {slot : SlotIx} (is : chosen i slot) : candidate r s.pl = some slot :=
      candidate_chosen ((fitting i slot).2 is.1) (fun j other lt fit => is.2 j other lt ((fitting j other).1 fit))
    refine ⟨fun free none' idle small i slot plan is inactive valid =>
      loads free none' idle small (chosenSlot is) inactive valid, fun more => ?_⟩
    rw [evaluates more]
    have keptImage : (r.evaluate s.pl).image = s.ps.image := (evaluate_kept r s.pl).2.trans image
    refine ⟨keptImage, fun noFit => ?_, fun i slot is => ?_⟩
    · rw [evaluate_none (candidate_none (fun i slot fit => noFit i slot ((fitting i slot).1 fit)))]
      exact ⟨⟨pending, deferrals⟩, rfl, rfl⟩
    · by_cases isActive : r.activeSlot = some slot
      · obtain ⟨previous, count, demand, other⟩ := evaluate_active (chosenSlot is) isActive
        rw [pending, deferrals] at other
        rw [pending] at demand
        exact ⟨previous, fun _ => ⟨count, demand, other⟩, fun not => absurd (activeSlot.symm.trans isActive) not⟩
      · rw [evaluate_other (chosenSlot is) isActive]
        by_cases acts : r.persistenceSetting ≤ seenThrough r slot
        · obtain ⟨count, previous, kept, made⟩ := promote_acts (slot := slot)
            (ps := { r with persistenceCount := seenThrough r slot, previousCandidate := some slot }) acts
          refine ⟨previous, fun now => absurd (activeSlot.trans now) isActive, fun _ => ⟨fun less => ?_, fun _ => ⟨count, fun same => ?_, fun differs => ?_⟩⟩⟩
          · rw [← counts slot] at less
            exact absurd less (by omega)
          · obtain ⟨one, two⟩ := kept (by rw [pending]; exact same)
            exact ⟨one.trans pending, two.trans deferrals⟩
          · exact made (by rw [pending]; exact differs)
        · rw [promote_waits (by show seenThrough r slot < r.persistenceSetting; omega)]
          refine ⟨rfl, fun now => absurd (activeSlot.trans now) isActive, fun _ => ⟨fun _ => ⟨⟨pending, deferrals⟩, counts slot⟩, fun enough => ?_⟩⟩
          rw [← counts slot] at enough
          exact absurd enough acts

end Sys2Proof.Proofs.SelectionMarks
end

section
/-! PROOF. The new cycle, and the beacon deadline (O11). -/

open Sys2Proof Sys2Proof.Machine

namespace Sys2Proof.Proofs.CycleMarks

open SelectorMarks MarkStages Answers Roads Identifications LineResets

variable {pl : Library} {ended : Nat} {ps : Selector}

/-! ### The image at a mark (R126) -/

theorem evaluated_image (pl : Library) (ps : Selector) : (evaluated pl ps).image = ps.image :=
  (congrArg Selector.image (evaluated_keeps pl ps) :)

/-- While a write is in flight the image stays. -/
theorem marked_image_busy (busy : pl.write ≠ .idle) (ended : Nat) (ps : Selector) : (marked pl ended ps).1.image = ps.image := by
  have next : (evaluated pl (switched pl ended ps)).image = ps.image := by
    rw [evaluated_image, switched, (takeRequested_kept _).2, closed_waits (.inr busy)]
    rfl
  unfold marked
  dsimp only
  split
  · rw [taken_waits (.inr busy)]
    exact next
  · exact next

/-- A pending plan whose slot is VALID takes effect. -/
theorem marked_loaded {x : PendingPlan} {plan : Plan} (pending : ps.pendingPlan = some x) (idle : pl.write = .idle)
    (valid : pl.slots.get x.slot = .valid plan) (ended : Nat) :
    (marked pl ended ps).1.image = some { slot := x.slot, plan := plan } ∧ (marked pl ended ps).2 = true := by
  have first := taken_valid (ps := ps.closeDemand ended) pending idle valid
  have next : (evaluated pl (switched pl ended ps)).image = some { slot := x.slot, plan := plan } := by
    rw [evaluated_image, switched, (takeRequested_kept _).2, first]
  have once : marked pl ended ps = (evaluated pl (switched pl ended ps), (taken pl (ps.closeDemand ended)).2) :=
    if_neg (fun again => by rw [first] at again; exact absurd again.2.2.2 nofun)
  rw [once]
  exact ⟨next, by rw [first]⟩

theorem newLength_eq (ps : Selector) : ps.newLength = ps.image.elim 900 (fun i => i.plan.header.cycleLength) := by
  unfold Selector.newLength
  cases ps.image <;> rfl

theorem markEvent_ctb {s : State} (due : elapsed s.now s.ctb.anchor = s.ctb.cycleLength) :
    (markEvent s).ctb = { s.ctb with
      anchor := s.now, beaconDeadline := later s.now s.ctb.beaconInterval,
      cycleLength := (markEvent s).ps.image.elim 900 (fun i => i.plan.header.cycleLength) } := by
  obtain ⟨worked, ctb, -⟩ := markEvent_marks due
  obtain ⟨-, -, -, -, -, -, -, -, -, -, clock, -⟩ := opened_leaves s
  rw [ctb, clock, newLength_eq, worked.ps]

theorem markEvent_closes {s : State} (due : elapsed s.now s.ctb.anchor = s.ctb.cycleLength) :
    (markEvent s).ps.inboundFlow = moveToward s.ps.inboundFlow (min 9999 (s.ps.inboundAccumulator * 36000 / s.ctb.cycleLength)) 4 ∧
      (markEvent s).ps.outboundFlow =
        moveToward s.ps.outboundFlow (min 9999 (s.ps.outboundAccumulator * 36000 / s.ctb.cycleLength)) 4 ∧
      (markEvent s).ps.inboundAccumulator = 0 ∧ (markEvent s).ps.outboundAccumulator = 0 := by
  rw [SelectionMarks.execCycleMark_ps s due]
  obtain ⟨inbound, outbound, inboundCount, outboundCount⟩ := marked_flows s.pl s.ctb.cycleLength s.ps
  rw [inbound, outbound]
  refine ⟨?_, ?_, inboundCount, outboundCount⟩ <;>
    rw [← Failures.saturate_eq_min] <;> rfl

theorem markEvent_stores {s : State} (due : elapsed s.now s.ctb.anchor = s.ctb.cycleLength) :
    (markEvent s).pl = s.pl ∧ (markEvent s).config = s.config ∧ (markEvent s).er = s.er ∧
      (markEvent s).oc.limits = s.oc.limits ∧ (markEvent s).pm.policy = s.pm.policy ∧
      (markEvent s).sli.mode = s.sli.mode ∧ (markEvent s).sli.replySlot = s.sli.replySlot := by
  obtain ⟨worked, -⟩ := markEvent_marks due
  obtain ⟨oc, -, pm, pl, er, config, -, -, -, sli, -⟩ := opened_leaves s
  exact ⟨worked.pl.trans pl, worked.config.trans config, worked.er.trans er,
    worked.limits.trans (congrArg Coordinator.limits oc), worked.policy.trans (congrArg Priority.policy pm),
    (congrArg Supervisory.mode worked.sli :).trans (congrArg Supervisory.mode sli :),
    (congrArg Supervisory.replySlot worked.sli :).trans (congrArg Supervisory.replySlot sli :)⟩

/-! ### The beacon deadline (R9) -/

theorem settleLine_beaconless {s : State} (off : beaconCondition s = false) : ∀ e ∈ (settleLine s).clc.queue, e.command ≠ .beacon := by
  have dropped : ∀ e ∈ (dropBeacon s).clc.queue, e.command ≠ .beacon := by
    intro e he is
    unfold dropBeacon at he
    rw [if_neg (by rw [off]; exact Bool.false_ne_true)] at he
    obtain ⟨-, keeps⟩ := List.mem_filter.1 he
    exact absurd keeps (by simp [is])
  rcases settleLine_queue s with same | ⟨e, rest, split, -, begun⟩
  · rw [same]
    exact dropped
  · rw [split] at dropped
    rw [begun]
    intro x hx
    rcases List.mem_cons.1 hx with rfl | hx
    · exact dropped e List.mem_cons_self
    · exact dropped x (List.mem_cons_of_mem _ hx)

theorem claimBeacon_queue {s : State} (on : beaconCondition s = true) (room : s.clc.queue.length < 24) :
    claimBeacon s = s.withQueue (joinQueue
      { command := .beacon, address := 0, position := none, route := none, joined := s.now, attempts := 0, onLine := false }
      (s.clc.queue.filter (fun e => e.command != .beacon))) := by
  have live : s.isLive = true := by
    unfold beaconCondition at on
    simp only [Bool.and_eq_true] at on
    exact on.1.1
  have opens : offerOpen s .beacon = true := by
    unfold offerOpen
    rw [live]
    rfl
  have free : ¬ (LineCommand.beacon = .runLocal ∧ ∃ x ∈ s.clc.queue, x.command = .quiet ∧ x.position = none) :=
    fun both => absurd both.1 nofun
  unfold claimBeacon
  by_cases queued : ∃ x ∈ s.clc.queue, replaces .beacon none x = true
  · rw [Offers.offerEntry_replaces opens free queued]
    rfl
  · have absent : ∀ x ∈ s.clc.queue, replaces .beacon none x ≠ true := fun x hx is => queued ⟨x, hx, is⟩
    rw [(Offers.offerEntry_room opens free absent).1 room, List.filter_eq_self.2 (fun x hx => bne_iff_ne.2
      (fun is => absent x hx (beq_iff_eq.2 is)))]

/-- Settles O11. -/
theorem cycleMarkAndBeaconDeadline : Obligations.CycleMarkAndBeaconDeadline := by
  unfold Obligations.CycleMarkAndBeaconDeadline
  refine ⟨fun s due => ?_, fun s early => ?_, fun s due => ⟨fun slot cause plan pending idle valid => ?_, fun busy => ?_⟩,
    fun s due => ?_⟩
  · obtain ⟨inbound, outbound, inboundCount, outboundCount⟩ := markEvent_closes due
    obtain ⟨pl, config, er, limits, policy, mode, slot⟩ := markEvent_stores due
    obtain ⟨-, -, -, -, budgets⟩ := markEvent_marks due
    exact ⟨markEvent s, rfl, markEvent_ctb due, inbound, outbound, inboundCount, outboundCount, budgets, pl, config, er, limits,
      policy, mode, slot⟩
  · exact congrArg Host.Outcome.next (if_neg (fun due => early (beq_iff_eq.1 due)))
  · have image : (markEvent s).ps.image = some { slot := slot, plan := plan } := by
      rw [SelectionMarks.execCycleMark_ps s due]
      exact (marked_loaded pending idle valid _).1
    refine ⟨markEvent s, rfl, image, ?_⟩
    rw [markEvent_ctb due, image]
    rfl
  · refine ⟨markEvent s, rfl, ?_⟩
    rw [SelectionMarks.execCycleMark_ps s due]
    exact marked_image_busy busy _ _
  · intro s'
    have event : exec .beaconDeadlineExpiry s = .next (finish (beaconRound s)) :=
      congrArg Host.Outcome.next (whenDue_due (beq_iff_eq.2 due))
    refine ⟨fun off => ?_, fun on taken room => ?_⟩
    · have round : beaconRound s = s' := if_neg (fun on : beaconCondition s' = true => Bool.false_ne_true (off.symm.trans on))
      rw [round] at event
      refine ⟨finish s', event, settles_finish s', settleLine_beaconless off, fun taken => ?_⟩
      obtain ⟨-, -, -, queue, -⟩ := finish_lineTaken (s := s') taken
      rw [queue]
      have drop : dropBeacon s' = withdraw (fun e => e.command == .beacon) s' :=
        if_neg (fun on : beaconCondition s' = true => Bool.false_ne_true (off.symm.trans on))
      rw [drop]
      rfl
    · have round : beaconRound s = claimBeacon s' := if_pos on
      rw [round, claimBeacon_queue (s := s') on room] at event
      generalize claim : (joinQueue _ _ : List QueueEntry) = q at event
      refine ⟨finish (s'.withQueue q), event, ?_, finish_lineTaken_line (s := s'.withQueue q) taken, ?_⟩
      · exact (Settles.queue s' q).trans (settles_finish _)
      · rw [finish_lineTaken_queue (s := s'.withQueue q) taken on]
        exact claim.symm

end Sys2Proof.Proofs.CycleMarks
end

section
/-! PROOF. The Link Command Queue at a cycle mark: which offers are made, and that a RUN-LOCAL finds its place behind them (used
by O12 and O13). -/

open Sys2Proof Sys2Proof.Machine

namespace Sys2Proof.Proofs.MarkQueue

open Answers Roads Coordination MarkPasses MarkStages SetupEntry Clearing

/-! ### Passes and the queue -/

/-- A pass each of whose handlings grows the queue by `n` at most keeps the entries of `P`, as far as there is room for all. -/
theorem pass_kept {f : Pos → State → State} {P : QueueEntry → Prop} {n : Pos → Nat} {s : State}
    (at' : ∀ q u, Steers s u → SteersAt q u (f q u))
    (keeps : ∀ q u, Steers s u → u.coord q = s.coord q → Keeps P (n q) u (f q u)) :
    Keeps P (positions.map n).sum s (forPositions f s) := by
  have passed := forPositions_each (f := f) (s := s) (look := fun u q => u.coord q) (P := fun _ _ => True)
    (K := fun rest u => Steers s u ∧ (∃ m, m + (rest.map n).sum = (positions.map n).sum ∧ Keeps P m s u))
    ⟨.rfl' s, 0, Nat.zero_add _, .rfl' s⟩ (fun q rest u kept fresh => ?_)
  · obtain ⟨⟨-, m, total, kept⟩, -⟩ := passed
    exact kept.le (by simpa using total.le)
  · obtain ⟨steers, m, total, kept⟩ := kept
    have one := at' q u steers
    rw [List.map_cons, List.sum_cons] at total
    exact ⟨⟨steers.trans one.steers, m + n q, by omega, kept.trans (keeps q u steers fresh)⟩, trivial, one.others⟩

/-- No QUIET stands for `p`. -/
def NoQuiet (p : Pos) (s : State) : Prop := ∀ e ∈ s.clc.queue, e.position = some p → e.command ≠ .quiet

/-- A pass that offers a RUN-LOCAL for `p` leaves one queued, when there is room for all the offers of the pass. -/
theorem pass_queued {f : Pos → State → State} {n : Pos → Nat} {p : Pos} {s : State}
    (at' : ∀ q u, Steers s u → SteersAt q u (f q u))
    (grows : ∀ q u, Steers s u → u.coord q = s.coord q → Keeps (fun _ => False) (n q) u (f q u))
    (keeps : ∀ q u, q ≠ p → Steers s u → u.coord q = s.coord q → Keeps (RunsLocal p) (n q) u (f q u))
    (calm : ∀ q u, Steers s u → NoQuiet p u → NoQuiet p (f q u))
    (put : ∀ u, Steers s u → u.coord p = s.coord p → NoQuiet p u → u.clc.queue.length + n p ≤ 24 → runLocalQueued (f p u) p)
    (free : NoQuiet p s) (room : s.clc.queue.length + (positions.map n).sum ≤ 24) : runLocalQueued (forPositions f s) p := by
  have passed := forPositions_each (f := f) (s := s) (look := fun u q => u.coord q) (P := fun _ _ => True)
    (K := fun rest u => Steers s u ∧ NoQuiet p u ∧
      u.clc.queue.length + (rest.map n).sum ≤ s.clc.queue.length + (positions.map n).sum ∧ (p ∉ rest → runLocalQueued u p))
    ⟨.rfl' s, free, le_rfl, fun h => absurd (mem_positions p) h⟩ (fun q rest u kept fresh => ?_)
  · obtain ⟨⟨-, -, -, queued⟩, -⟩ := passed
    exact queued List.not_mem_nil
  · obtain ⟨steers, quiet, length, queued⟩ := kept
    have one := at' q u steers
    have grown := (grows q u steers fresh).length
    rw [List.map_cons, List.sum_cons] at length
    refine ⟨⟨steers.trans one.steers, calm q u steers quiet, by omega, fun out => ?_⟩, trivial, one.others⟩
    by_cases own : q = p
    · subst own
      exact put u steers fresh quiet (by omega)
    · obtain ⟨e, he, hp, hr⟩ := queued (fun mem => (List.mem_cons.1 mem).elim (fun same => own same.symm) out)
      exact ⟨e, (keeps q u own steers fresh).kept (by omega) e he ⟨hr, hp⟩, hp, hr⟩

theorem pass_clc {f : Pos → State → State} (same : ∀ q u, (f q u).clc = u.clc) (s : State) : (forPositions f s).clc = s.clc :=
  forPositions_keeps (K := fun u => u.clc = s.clc) (fun q u h => (same q u).trans h) rfl

/-! ### A position goes LOCAL with a RUN-LOCAL offered -/

theorem leaveToLocal_keeps {p q : Pos} (hq : q ≠ p) (reason : LocalReason) (b : Bool) (s : State) :
    Keeps (RunsLocal p) 1 s (leaveToLocal q reason b s) :=
  Keeps.leaveToLocal q reason b s (fun e he => by rw [he.1]; rfl) (fun e he => by simp [replaces, he.1, he.2, Ne.symm hq])

theorem leaveToLocal_noQuiet {p q : Pos} {reason : LocalReason} {b : Bool} {s : State} (h : NoQuiet p s) :
    NoQuiet p (leaveToLocal q reason b s) := fun e he hp => by
  rcases (Road.leaveToLocal (wide := false) (A := fun _ => True) (C := (· = .runLocal)) (p := q) trivial reason (b := b)
    (fun _ => rfl) s).queue e he with old | ⟨command, -⟩
  · exact h e old hp
  · rw [command]
    nofun

/-! ### The stages of the mark -/

theorem uncommanded_clc (s : State) : (uncommanded s).clc = s.clc := by
  unfold uncommanded
  refine pass_clc (fun p u => ?_) s
  rfl

theorem takeReason_clc (p : Pos) (reason : LocalReason) (s : State) : (takeReason p reason s).clc = s.clc := by
  unfold takeReason
  split <;> rfl

theorem examineLocal_clc (p : Pos) (s : State) : (examineLocal p s).clc = s.clc := by
  by_cases h : Waits (s.coord p)
  · rw [examineLocal_waiting h]
    split
    · rfl
    · exact takeReason_clc _ _ _
  · rw [examineLocal_other h]

theorem stepPass_clc (s : State) : (stepPass s).clc = s.clc := by
  unfold stepPass
  refine pass_clc (fun p u => ?_) s
  split
  · exact (CoordAt.withTrim p _ u).only.clc
  · rfl

theorem trackAtMark_clc (loaded : Bool) (s : State) : (trackAtMark loaded s).clc = s.clc := by
  cases loaded with
  | true => rw [trackAtMark_loaded]; rfl
  | false =>
    rw [trackAtMark_kept, ← stepPass_clc s]
    generalize stepPass s = u
    rfl

theorem countDown_clc (s : State) : (countDown s).clc = s.clc := by
  unfold countDown
  refine pass_clc (fun p u => ?_) s
  rfl

theorem beforePoints_clc (s : State) :
    (beforePoints s).clc = (coordAtMark (selectAtMark s).2 (lengthens s) (opened s)).clc :=
  (countDown_clc _).trans (trackAtMark_clc _ _)

/-- A pass over LOCAL positions makes no offer, nor does one over the others outside FREE. -/
theorem coordAtMark_clc {b : State} (loaded changed : Bool) (mode : b.ps.mode ≠ .free) :
    (coordAtMark loaded changed b).clc = (planPass loaded changed b).clc := by
  obtain ⟨planned, -⟩ := planPass_coord loaded changed b
  obtain ⟨examined, -⟩ := examinePass_coord b _ planned
  have same : (forPositions examineLocal (planPass loaded changed b)).clc = (planPass loaded changed b).clc :=
    pass_clc examineLocal_clc _
  rw [coordAtMark_eq]
  refine (forPositions_keeps (K := fun u => u.ps = b.ps ∧ u.clc = (planPass loaded changed b).clc)
    (fun q u kept => ?_) ⟨examined.ps, same⟩).2
  rw [show freeAtMark q u = u from if_neg (fun both => mode (kept.1 ▸ both.1))]
  exact kept

/-! ### FREE (R19) -/

/-- In FREE a RUN-LOCAL is queued for a coordinated position. -/
theorem freePass_queued {p : Pos} {s : State} (mode : s.ps.mode = .free) (coord : coordinated (s.coord p).state = true)
    (fits : runLocalFits s p 12) : runLocalQueued (forPositions freeAtMark s) p := by
  obtain ⟨live, config, room, quiet⟩ := fits
  refine pass_queued (n := fun _ => 1) (fun q u _ => (freeAtMark_frees q u).1) (fun q u _ _ => ?_) (fun q u own _ _ => ?_)
    (fun q u _ calm => ?_) (fun u steers fresh calm length => ?_) quiet room
  · unfold freeAtMark
    split
    · exact .leaveToLocal q _ _ u nofun nofun
    · exact .rfl' u
  · unfold freeAtMark
    split
    · exact leaveToLocal_keeps own _ _ u
    · exact .rfl' u
  · unfold freeAtMark
    split
    · exact leaveToLocal_noQuiet calm
    · exact calm
  · rw [show freeAtMark p u = leaveToLocal p .free true u from
      if_pos ⟨(congrArg Selector.mode steers.ps).trans mode, by rw [fresh]; exact coord⟩]
    refine leaveToLocal_queued ?_ (by rw [steers.config]; exact config) length calm
    rw [steers.offerOpen]
    exact (Offers.offerOpen_iff s .runLocal).2 (.inl live)

/-- In FREE no command point falls on the mark. -/
theorem pointPass_free {s : State} (off : ∀ p, steered (s.coord p).state = false) :
    (forPositions commandPointAtMark s).clc = s.clc := by
  have passed := forPositions_each (f := commandPointAtMark) (s := s) (look := fun u q => u.coord q) (P := fun _ _ => True)
    (K := fun _ u => u.clc = s.clc) rfl (fun q rest u kept fresh => ?_)
  · exact passed.1
  · have idle : ¬ Fires u (u.coord q) := fun fires => by
      have steers := fires.2.1
      rw [show u.coord q = s.coord q from fresh, off q] at steers
      exact Bool.false_ne_true steers
    rw [show commandPointAtMark q u = u from if_neg idle]
    exact ⟨kept, trivial, fun _ _ => rfl⟩

/-! ### A plan that takes effect (R38) -/

theorem planTakesEffect_drops {b : Bool} {p : Pos} {s : State} (coord : coordinated (s.coord p).state = true)
    (entry : s.imageEntry p = none) :
    ∃ u, Steers s u ∧ u.clc = s.clc ∧ planTakesEffect b p s = leaveToLocal p .notInPlan true u := by
  obtain ⟨u, at', clc, record, eq⟩ := planTakesEffect_eq b p s
  refine ⟨u, at'.steers, clc, ?_⟩
  have state : (u.coord p).state = (s.coord p).state := by rw [record, planned_state (refusing_rests coord)]
  rw [eq, at'.steers.imageEntry, entry, state]
  cases is : (s.coord p).state with
  | unseen => rw [is] at coord; exact absurd coord Bool.false_ne_true
  | inLocal reason => rw [is] at coord; exact absurd coord Bool.false_ne_true
  | seeking way => rfl
  | inStep => rfl
  | preempted => rfl

theorem planTakesEffect_clc {b : Bool} {p : Pos} {s : State}
    (h : coordinated (s.coord p).state = false ∨ s.imageEntry p ≠ none) : (planTakesEffect b p s).clc = s.clc := by
  obtain ⟨u, at', clc, record, eq⟩ := planTakesEffect_eq b p s
  have resting (off : coordinated (s.coord p).state = false) : coordinated (u.coord p).state = false := by
    rw [record]
    exact planned_resting off _ _
  rw [eq, at'.steers.imageEntry, ← clc]
  cases is : (u.coord p).state with
  | unseen => cases s.imageEntry p <;> rfl
  | inLocal reason => cases s.imageEntry p <;> rfl
  | preempted =>
    cases entry : s.imageEntry p with
    | none =>
      have off := resting (h.resolve_right (not_not.2 entry))
      rw [is] at off
      exact absurd off.symm Bool.false_ne_true
    | some e => rfl
  | seeking way =>
    cases entry : s.imageEntry p with
    | none =>
      have off := resting (h.resolve_right (not_not.2 entry))
      rw [is] at off
      exact absurd off.symm Bool.false_ne_true
    | some e =>
      dsimp only
      split <;> rfl
  | inStep =>
    cases entry : s.imageEntry p with
    | none =>
      have off := resting (h.resolve_right (not_not.2 entry))
      rw [is] at off
      exact absurd off.symm Bool.false_ne_true
    | some e =>
      dsimp only
      split
      · rfl
      · split
        · rfl
        · exact (CoordAt.testBand p u).only.clc

/-- A handling of a plan that takes effect: the position is dropped, or the queue stays. -/
theorem planTakesEffect_queue (b : Bool) (p : Pos) (s : State) :
    (s.imageEntry p = none ∧ ∃ u, Steers s u ∧ u.clc = s.clc ∧ planTakesEffect b p s = leaveToLocal p .notInPlan true u) ∨
      (planTakesEffect b p s).clc = s.clc := by
  by_cases h : coordinated (s.coord p).state = true ∧ s.imageEntry p = none
  · exact .inl ⟨h.2, planTakesEffect_drops h.1 h.2⟩
  · refine .inr (planTakesEffect_clc ?_)
    by_cases coord : coordinated (s.coord p).state = true
    · exact .inr (fun entry => h ⟨coord, entry⟩)
    · exact .inl (Bool.eq_false_iff.2 coord)

/-- The offers that a plan that takes effect may make for a position. -/
def dropWeight (s : State) (p : Pos) : Nat := if s.imageEntry p = none then 1 else 0

/-- The offers that the command point of a position may make when a plan has taken effect. -/
def pointWeight (s : State) (p : Pos) : Nat := if s.imageEntry p = none then 0 else 1

theorem weights_sum (s : State) : (positions.map (dropWeight s)).sum + (positions.map (pointWeight s)).sum = 12 := by
  have each (l : List Pos) : (l.map (dropWeight s)).sum + (l.map (pointWeight s)).sum = l.length := by
    induction l with
    | nil => rfl
    | cons p l ih =>
      have one : dropWeight s p + pointWeight s p = 1 := by
        unfold dropWeight pointWeight
        split <;> rfl
      simp only [List.map_cons, List.sum_cons, List.length_cons]
      omega
  exact each positions

theorem planTakesEffect_grows (b : Bool) (q : Pos) {s u : State} (steers : Steers s u) :
    Keeps (fun _ => False) (dropWeight s q) u (planTakesEffect b q u) := by
  rcases planTakesEffect_queue b q u with ⟨entry, v, -, clc, eq⟩ | same
  · rw [steers.imageEntry] at entry
    rw [eq, show dropWeight s q = 0 + 1 from if_pos entry]
    exact (Keeps.ofQueue (n := 0) (congrArg LineController.queue clc)).trans (.leaveToLocal q _ _ v nofun nofun)
  · exact .ofQueue (congrArg LineController.queue same)

theorem planTakesEffect_keeps (b : Bool) {p q : Pos} (own : q ≠ p) {s u : State} (steers : Steers s u) :
    Keeps (RunsLocal p) (dropWeight s q) u (planTakesEffect b q u) := by
  rcases planTakesEffect_queue b q u with ⟨entry, v, -, clc, eq⟩ | same
  · rw [steers.imageEntry] at entry
    rw [eq, show dropWeight s q = 0 + 1 from if_pos entry]
    exact (Keeps.ofQueue (n := 0) (congrArg LineController.queue clc)).trans (leaveToLocal_keeps own _ _ v)
  · exact .ofQueue (congrArg LineController.queue same)

/-- A RUN-LOCAL is queued for a coordinated position that the plan has no entry for. -/
theorem effectPass_queued {b : Bool} {p : Pos} {s : State} (coord : coordinated (s.coord p).state = true)
    (entry : s.imageEntry p = none) (live : s.sli.mode = .live) (config : s.config.get p ≠ none) (quiet : NoQuiet p s)
    (room : s.clc.queue.length + (positions.map (dropWeight s)).sum ≤ 24) :
    runLocalQueued (forPositions (planTakesEffect b) s) p := by
  refine pass_queued (fun q u _ => (planTakesEffect_takes b q u).1) (fun q u steers _ => planTakesEffect_grows b q steers)
    (fun q u own steers _ => planTakesEffect_keeps b own steers) (fun q u _ calm => ?_)
    (fun u steers fresh calm length => ?_) quiet room
  · rcases planTakesEffect_queue b q u with ⟨-, v, -, clc, eq⟩ | same
    · rw [eq]
      exact leaveToLocal_noQuiet (fun e he => calm e (by rw [← clc]; exact he))
    · unfold NoQuiet
      rw [same]
      exact calm
  · rw [show dropWeight s p = 1 from if_pos entry] at length
    obtain ⟨v, kept, clc, eq⟩ := planTakesEffect_drops (b := b) (by rw [fresh]; exact coord)
      ((steers.imageEntry p).trans entry)
    rw [eq]
    refine leaveToLocal_queued ?_ (by rw [kept.config, steers.config]; exact config) (by rw [clc]; exact length)
      (fun e he => calm e (by rw [← clc]; exact he))
    rw [kept.offerOpen, steers.offerOpen]
    exact (Offers.offerOpen_iff s .runLocal).2 (.inl live)

end Sys2Proof.Proofs.MarkQueue
end

section
/-! PROOF. A cycle mark at which no plan takes effect (O12). -/

open Sys2Proof Sys2Proof.Machine

namespace Sys2Proof.Proofs.MarkExaminations

open Answers Roads Coordination MarkPasses MarkStages MarkQueue SelectorMarks CycleMarks

/-! ### The part with the new cycle begun -/

/-- With no plan pending and no mode requested the image and the mode stand. -/
theorem marked_stands {pl : Library} {ended : Nat} {ps : Selector} (pending : ps.pendingPlan = none)
    (requested : ps.requested = none) :
    (marked pl ended ps).2 = false ∧ (marked pl ended ps).1.image = ps.image ∧ (marked pl ended ps).1.mode = ps.mode := by
  have first := taken_none (pl := pl) (ps := ps.closeDemand ended) pending
  by_cases responsive : ps.mode = .responsive
  · rw [marked_once (fun free => absurd (free.symm.trans responsive) nofun), first]
    refine ⟨rfl, ?_, ?_⟩
    · rw [evaluated_image, switched_unrequested requested, first]
      rfl
    · rw [(congrArg Selector.mode (evaluated_keeps pl (switched pl ended ps)) :), switched_unrequested requested, first]
      rfl
  · rw [marked_takes requested responsive, first]
    exact ⟨rfl, rfl, rfl⟩

/-- The part `b` stands for `s` at a mark that changes neither image, mode nor C. -/
structure Stands (s b : State) : Prop where
  coord : ∀ p, b.coord p = s.coord p
  imageEntry : ∀ p, b.imageEntry p = s.imageEntry p
  mode : b.ps.mode = s.ps.mode
  cycle : b.ctb.cycleLength = s.ctb.cycleLength
  live : b.isLive = s.isLive
  health : ∀ p, b.health p = s.health p
  ident : ∀ p, b.ident p = s.ident p
  owner : ∀ p, b.owner p = s.owner p
  limits : b.oc.limits = s.oc.limits
  pt : b.pt = s.pt

theorem opened_stands {s : State} (pending : s.ps.pendingPlan = none) (requested : s.ps.requested = none)
    (length : s.ctb.cycleLength = s.ps.newLength) : Stands s (opened s) := by
  obtain ⟨oc, pt, pm, -, -, -, ih, -, -, sli, clock, ps⟩ := opened_leaves s
  rw [(selectAtMark_marked s).1] at ps
  obtain ⟨-, image, mode⟩ := marked_stands (pl := s.pl) (ended := s.ctb.cycleLength) pending requested
  rw [← ps] at image mode
  exact {
    coord := fun p => congrArg (fun oc : Coordinator => oc.positions.get p) oc
    imageEntry := fun p => by
      unfold State.imageEntry
      rw [image]
    mode := mode
    cycle := by
      rw [clock, length]
      unfold Selector.newLength
      rw [image]
    live := by
      unfold State.isLive
      rw [show (opened s).sli.mode = s.sli.mode from (congrArg Supervisory.mode sli :)]
    health := fun p => congrArg (fun ih : Machine.Identification => ih.health.get p) ih
    ident := fun p => congrArg (fun ih : Machine.Identification => ih.ident.get p) ih
    owner := fun p => congrArg (fun pm : Priority => pm.owners.get p) pm
    limits := congrArg Coordinator.limits oc
    pt := pt }

/-! ### What the stages make of a record -/

/-- No plan takes effect, so that a record only loses its mark of a command point before it is examined. -/
theorem coordinated_examined {b : State} {changed : Bool} {p : Pos} {c d : Coord} (h : Coordinated b false changed p c d) :
    ∃ e, Examined b p { c with commanded := false } e ∧ d = freed b e := by
  obtain ⟨c₁, c₂, rfl, examined, rfl⟩ := h
  exact ⟨c₂, examined, rfl⟩

/-- The fields that trim steps leave, and what they leave of the state. -/
theorem stepped_rest {b : State} {loaded : Bool} {p : Pos} {c d : Coord} (h : Stepped b loaded p c d) :
    steered d.state = steered c.state ∧ (c.state ≠ .inStep → d.state = c.state) ∧ d.measured = c.measured ∧
      d.settle = c.settle ∧ d.refusals = c.refusals ∧ d.grant = c.grant ∧ d.commanded = c.commanded := by
  unfold Stepped at h
  split at h
  · obtain ⟨measured, settle, refusals, grant, commanded⟩ := h.rest
    exact ⟨h.steered, h.state, measured, settle, refusals, grant, commanded⟩
  · rw [h]
    exact ⟨rfl, fun _ => rfl, rfl, rfl, rfl, rfl, rfl⟩

/-- The target follows the trim. -/
theorem stepped_target {b : State} {loaded : Bool} {p : Pos} {c d : Coord} (h : Stepped b loaded p c d)
    (own : c.target = (b.imageEntry p).map (fun e => targetOf e c.trim b.ctb.cycleLength)) :
    d.target = (b.imageEntry p).map (fun e => targetOf e d.trim b.ctb.cycleLength) := by
  unfold Stepped at h
  split at h
  · by_cases same : c.trim = steppedTrim b p c.trim
    · rw [h.same same]
      exact own
    · rw [h.target same, h.trim]
  · rw [h]
    exact own

theorem stepped_trim {b : State} {p : Pos} {c d : Coord} (h : Stepped b false p c d) :
    d.trim = if refined b p = true then steppedTrim b p c.trim else c.trim := by
  unfold Stepped at h
  by_cases is : refined b p = true
  · rw [if_pos ⟨rfl, is⟩] at h
    rw [if_pos is]
    exact h.trim
  · rw [if_neg (fun both => is both.2)] at h
    rw [if_neg is, h]

/-- Without a steered state no command point falls on the mark. -/
theorem pointed_resting {b : State} {c d : Coord} (h : Pointed b c d) (off : steered c.state = false) : d = c :=
  h.idle (fun fires => Bool.false_ne_true (off.symm.trans fires.2.1))

theorem examined_trim {s : State} {p : Pos} {c d : Coord} (h : Examined s p c d) : d.trim = c.trim := by
  by_cases waits : Waits c
  · by_cases may : (mayTake s p && !c.fieldLocal) = true
    · rw [h.enters waits may]
      rfl
    · rw [h.waits waits (Bool.eq_false_iff.2 may)]
  · rw [h.other waits]

theorem freed_trim (s : State) (c : Coord) : (freed s c).trim = c.trim := by
  unfold freed
  split <;> rfl

theorem steppedTrim_eq (b : State) (p : Pos) (trim : Int) :
    steppedTrim b p trim = max (-(b.oc.limits.trimLimit : Int)) (min (b.oc.limits.trimLimit : Int) (trim +
      if 2 ≤ (b.pt.accumulators.get p).count then
        Int.tdiv (b.pt.accumulators.get p).sum (2 * (b.pt.accumulators.get p).count) else 0)) := by
  unfold steppedTrim trimStep
  rw [clampInt_eq (by omega)]
  by_cases few : (b.pt.accumulators.get p).count < 2
  · rw [if_pos few, if_neg (by omega)]
  · rw [if_neg few, if_pos (by omega)]

/-! ### The record of a position at such a mark -/

section

variable {b : State} {changed : Bool} {p : Pos} {c d : Coord}

theorem mayTake_image {b : State} {p : Pos} (h : mayTake b p = true) :
    b.isLive = true ∧ b.ps.mode ≠ .free ∧ (b.imageEntry p).isSome = true := by
  unfold mayTake at h
  simp only [Bool.and_eq_true, bne_iff_ne] at h
  exact ⟨h.1.1.1.1.1.1, h.1.1.1.1.1.2, h.1.1.1.1.2⟩

theorem coordinated_notWaits (h : coordinated c.state = true) : ¬ Waits c := fun ⟨_, state, _⟩ => by
  rw [state] at h
  exact Bool.false_ne_true h

theorem notCoordinated_notSteered {x : CoordState} (h : coordinated x = false) : steered x = false := by
  cases x <;> first | rfl | exact absurd h nofun

/-- In FREE nothing is steered after a mark, and its commands stand at none (R19). -/
theorem stepped_free {c₁ : Coord} (coordinates : Coordinated b false changed p c c₁) (stepped : Stepped b false p c₁ d)
    (mode : b.ps.mode = .free) :
    (coordinated c.state = true ∨ Waits c → d.state = .inLocal .free ∧
      (coordinated c.state = true → d.measured = none ∧ d.settle = none ∧ d.grant = none)) ∧
      d.refusals = c.refusals ∧ d.commanded = false ∧ steered d.state = false := by
  obtain ⟨e, examined, rfl⟩ := coordinated_examined coordinates
  obtain ⟨steers, state, measured, settle, refusals, grant, commanded⟩ := stepped_rest stepped
  have close {f : Coord} (is : freed b e = f) (off : coordinated f.state = false) :
      d.state = f.state ∧ d.measured = f.measured ∧ d.settle = f.settle ∧ d.refusals = f.refusals ∧ d.grant = f.grant ∧
        d.commanded = f.commanded ∧ steered d.state = false := by
    have rests := notCoordinated_notSteered off
    rw [is] at steers state measured settle refusals grant commanded
    exact ⟨state (fun inStep => by rw [inStep] at off; exact absurd off nofun), measured, settle, refusals, grant, commanded,
      steers.trans rests⟩
  by_cases coord : coordinated c.state = true
  · have same := examined.other (coordinated_notWaits (c := { c with commanded := false }) coord)
    obtain ⟨own, m, st, r, g, cmd, off⟩ := close (f := { c with
      state := .inLocal .free, measured := none, settle := none, grant := none, commanded := false })
      (by rw [same]; exact if_pos ⟨mode, coord⟩) rfl
    exact ⟨fun _ => ⟨own, fun _ => ⟨m, st, g⟩⟩, r, cmd, off⟩
  · by_cases waits : Waits c
    · have kept := examined.waits (c := { c with commanded := false }) waits (by
        have never : mayTake b p = false := Bool.eq_false_iff.2 (fun may => (mayTake_image may).2.1 mode)
        rw [never]
        rfl)
      rw [show waitingReason b p = .free from if_pos mode] at kept
      obtain ⟨own, m, st, r, g, cmd, off⟩ := close (f := { c with commanded := false, state := .inLocal .free })
        (by rw [kept]; exact if_neg (fun both => absurd both.2 nofun)) rfl
      exact ⟨fun _ => ⟨own, fun is => absurd is coord⟩, r, cmd, off⟩
    · have same := examined.other (c := { c with commanded := false }) waits
      obtain ⟨-, -, -, r, -, cmd, off⟩ := close (f := { c with commanded := false })
        (by rw [same]; exact if_neg (fun both => coord both.2)) (Bool.eq_false_iff.2 coord)
      exact ⟨fun is => (is.elim coord waits).elim, r, cmd, off⟩

theorem record_free (h : MarkRecord b false changed p c d) (mode : b.ps.mode = .free) :
    (coordinated c.state = true ∨ Waits c → d.state = .inLocal .free ∧
      (coordinated c.state = true → d.measured = none ∧ d.settle = none ∧ d.grant = none)) ∧
      d.refusals = c.refusals ∧ d.commanded = false := by
  obtain ⟨c₁, c₂, coordinates, stepped, pointed⟩ := h
  obtain ⟨own, refusals, commanded, off⟩ := stepped_free coordinates stepped mode
  rw [pointed_resting pointed off]
  exact ⟨own, refusals, commanded⟩

/-- Outside FREE the records go from the examination to the trim steps as they are. -/
theorem record_kept (h : MarkRecord b false changed p c d) (mode : b.ps.mode ≠ .free) :
    ∃ e f, Examined b p { c with commanded := false } e ∧ Stepped b false p e f ∧ Pointed b f d := by
  obtain ⟨c₁, c₂, coordinates, stepped, pointed⟩ := h
  obtain ⟨e, examined, rfl⟩ := coordinated_examined coordinates
  rw [show freed b e = e from if_neg (fun both => mode both.1)] at stepped
  exact ⟨e, c₂, examined, stepped, pointed⟩

/-- A position that waits and satisfies R15 enters SEEKING. -/
theorem record_enters (h : MarkRecord b false changed p c d) (waits : Waits c) (may : (mayTake b p && !c.fieldLocal) = true)
    {e : PlanEntry} (entry : b.imageEntry p = some e) :
    d.state = .seeking .lengthen ∧ d.refusals = 0 ∧ d.measured = none ∧
      d.target = some (targetOf e d.trim b.ctb.cycleLength) ∧
      (d.commanded = true ↔ ∃ x, d.target = some x ∧ x.commandPoint = 0) := by
  obtain ⟨live, mode, -⟩ := mayTake_image (Bool.and_eq_true_iff.1 may).1
  obtain ⟨e', f, examined, stepped, pointed⟩ := record_kept h mode
  have start := examined.enters (c := { c with commanded := false }) waits may
  rw [start] at stepped
  obtain ⟨steers, state, measured, settle, refusals, grant, commanded⟩ := stepped_rest stepped
  have target := stepped_target stepped rfl
  have own : f.state = .seeking .lengthen := state nofun
  obtain ⟨trim, sameTarget, sameRefusals, -⟩ := pointed.kept
  obtain ⟨unmeasured, sameState⟩ := pointed.unmeasured measured
  rw [entry] at target
  refine ⟨sameState.trans own, sameRefusals.trans refusals, unmeasured, by rw [sameTarget, trim]; exact target, ?_⟩
  have fires : Fires b f ↔ ∃ x, d.target = some x ∧ x.commandPoint = 0 := by
    unfold Fires
    rw [own, commanded, sameTarget]
    constructor
    · rintro ⟨-, -, -, zero⟩
      exact Option.map_eq_some_iff.1 zero
    · exact fun zero => ⟨live, rfl, rfl, Option.map_eq_some_iff.2 zero⟩
  rw [← fires]
  refine ⟨fun is => ?_, pointed.commanded⟩
  by_contra idle
  rw [pointed.idle idle, commanded] at is
  exact absurd is nofun

/-- A position that waits and does not satisfy R15 takes the reason of its waiting. -/
theorem record_waits (h : MarkRecord b false changed p c d) (mode : b.ps.mode ≠ .free) (waits : Waits c)
    (may : (mayTake b p && !c.fieldLocal) = false) : d.state = .inLocal (waitingReason b p) := by
  obtain ⟨e, f, examined, stepped, pointed⟩ := record_kept h mode
  have start := examined.waits (c := { c with commanded := false }) waits may
  rw [start] at stepped
  obtain ⟨steers, state, -⟩ := stepped_rest stepped
  rw [pointed_resting pointed (steers.trans rfl)]
  exact state nofun

/-- A position that is neither steered nor waiting keeps its state. -/
theorem record_rests (h : MarkRecord b false changed p c d) (mode : b.ps.mode ≠ .free) (waits : ¬ Waits c)
    (off : steered c.state = false) : d.state = c.state ∧ d.commanded = false := by
  obtain ⟨e, f, examined, stepped, pointed⟩ := record_kept h mode
  have start := examined.other (c := { c with commanded := false }) waits
  rw [start] at stepped
  obtain ⟨steers, state, -, -, -, -, commanded⟩ := stepped_rest stepped
  rw [pointed_resting pointed (steers.trans off)]
  exact ⟨state (fun is => by rw [show c.state = .inStep from is] at off; exact absurd off nofun), commanded⟩

/-- A steered position whose trim does not move and whose command point is not on the mark keeps its record. -/
theorem record_steered (h : MarkRecord b false changed p c d) (mode : b.ps.mode ≠ .free) (steers : steered c.state = true)
    (fixed : refined b p = false) (point : ∀ x, c.target = some x → x.commandPoint ≠ 0) : d = { c with commanded := false } := by
  obtain ⟨e, f, examined, stepped, pointed⟩ := record_kept h mode
  have start := examined.other (c := { c with commanded := false })
    (coordinated_notWaits (c := c) (Handled.coordinated_of_steered steers))
  have same : f = e := by
    unfold Stepped at stepped
    rwa [if_neg (fun both => Bool.false_ne_true (fixed.symm.trans both.2))] at stepped
  rw [same, start] at pointed
  refine pointed.idle (fun fires => ?_)
  obtain ⟨x, target, zero⟩ := Option.map_eq_some_iff.1 fires.2.2.2
  exact point x target zero

theorem record_trim (h : MarkRecord b false changed p c d) :
    d.trim = if refined b p = true then steppedTrim b p c.trim else c.trim := by
  obtain ⟨c₁, c₂, coordinates, stepped, pointed⟩ := h
  obtain ⟨e, examined, rfl⟩ := coordinated_examined coordinates
  rw [pointed.kept.1, stepped_trim stepped, freed_trim, examined_trim examined]

end

/-! ### The obligation -/

/-- R15 in the words of the statement. -/
theorem mayTake_iff {s b : State} (h : Stands s b) (p : Pos) {e : PlanEntry} (entry : s.imageEntry p = some e)
    (mode : s.ps.mode ≠ .free) :
    (mayTake b p && !(s.coord p).fieldLocal) = true ↔
      s.sli.mode = .live ∧ (s.health p).state ≠ .cutOff ∧ (s.health p).quietTimer = none ∧ (s.coord p).fieldLocal = false ∧
        ((s.ident p).mode = some .full ∨ (s.ident p).mode = some .timed ∨ (s.ident p).mode = some .paced) ∧
        s.owner p = .none := by
  have steer (m : Option ResolvedMode) : steerable m = true ↔ m = some .full ∨ m = some .timed ∨ m = some .paced := by
    rcases m with _ | m
    · exact ⟨fun is => absurd is nofun, fun is => by simp at is⟩
    · cases m <;> simp [steerable]
  unfold mayTake
  rw [h.live, h.mode, h.imageEntry, h.health, h.ident, h.owner, entry]
  simp only [Bool.and_eq_true, bne_iff_ne, Option.isSome_some, Option.isNone_iff_eq_none, beq_iff_eq, steer,
    Bool.not_eq_true', Offers.isLive_iff]
  constructor
  · rintro ⟨⟨⟨⟨⟨⟨⟨live, -⟩, -⟩, health⟩, timer⟩, ident⟩, owner⟩, flag⟩
    exact ⟨live, health, timer, flag, ident, owner⟩
  · rintro ⟨live, health, timer, flag, ident, owner⟩
    exact ⟨⟨⟨⟨⟨⟨⟨live, mode⟩, trivial⟩, health⟩, timer⟩, ident⟩, owner⟩, flag⟩

/-- The queue before the command points, when no plan takes effect in FREE. -/
theorem beforePoints_free {s : State} (loaded : (selectAtMark s).2 = false) :
    (beforePoints s).clc = (forPositions freeAtMark (forPositions examineLocal (uncommanded (opened s)))).clc := by
  rw [beforePoints_clc, coordAtMark_eq, loaded]
  rfl

/-- The mark's RUN-LOCAL for a coordinated position in FREE (R19). -/
theorem markEvent_free {s : State} (due : elapsed s.now s.ctb.anchor = s.ctb.cycleLength)
    (pending : s.ps.pendingPlan = none) (requested : s.ps.requested = none) (length : s.ctb.cycleLength = s.ps.newLength)
    (mode : s.ps.mode = .free) {p : Pos} (coord : coordinated (s.coord p).state = true) (fits : runLocalFits s p 12) :
    runLocalQueued (markEvent s) p := by
  have stands := opened_stands pending requested length
  have loaded : (selectAtMark s).2 = false := (selectAtMark_marked s).2.trans (marked_stands pending requested).1
  obtain ⟨-, -, -, -, -, config, -, clc, -, sli, -⟩ := opened_leaves s
  obtain ⟨cleared, own⟩ := uncommanded_coord (opened s)
  obtain ⟨examined, examines⟩ := examinePass_coord (opened s) _ cleared
  obtain ⟨live, configured, room, quiet⟩ := fits
  have free : (forPositions examineLocal (uncommanded (opened s))).ps.mode = .free :=
    (congrArg Selector.mode examined.ps).trans (stands.mode.trans mode)
  have kept : (forPositions examineLocal (uncommanded (opened s))).coord p = { s.coord p with commanded := false } := by
    have one := examines p
    rw [own p, stands.coord] at one
    exact one.other (coordinated_notWaits (c := { s.coord p with commanded := false }) coord)
  have queue : (forPositions examineLocal (uncommanded (opened s))).clc = s.clc :=
    ((pass_clc examineLocal_clc _).trans (uncommanded_clc _)).trans clc
  have queued : runLocalQueued (beforePoints s) p := by
    unfold runLocalQueued
    rw [beforePoints_free loaded]
    refine freePass_queued free (by rw [kept]; exact coord) ⟨?_, by rw [examined.config, config]; exact configured, ?_, ?_⟩
    · exact examined.mode.trans ((congrArg Supervisory.mode sli :).trans live)
    · rw [queue]
      exact room
    · rw [queue]
      exact quiet
  obtain ⟨v, pt, pm, steered, eq, records, -⟩ := beforePoints_coord s
  have mode' : (beforePoints s).ps.mode = .free := by
    rw [eq]
    exact (congrArg Selector.mode steered.ps).trans (stands.mode.trans mode)
  have off (q : Pos) : Machine.steered ((beforePoints s).coord q).state = false := by
    obtain ⟨c, coordinates, stepped⟩ := records q
    rw [loaded] at coordinates stepped
    rw [eq]
    exact (stepped_free coordinates stepped (stands.mode.trans mode)).2.2.2
  have points := pointPass_free off
  obtain ⟨pointed, -⟩ := pointPass_coord (beforePoints s)
  have mode'' : (forPositions commandPointAtMark (beforePoints s)).ps.mode = .free :=
    (congrArg Selector.mode pointed.ps).trans mode'
  rw [markEvent_due due, cycleMark_eq]
  generalize forPositions commandPointAtMark (beforePoints s) = u at points mode'' ⊢
  have round : beaconRound u = deadlineOn u := by
    refine if_neg (fun on : beaconCondition (deadlineOn u) = true => ?_)
    unfold beaconCondition at on
    rw [show (deadlineOn u).ps.mode = .free from mode''] at on
    exact absurd on (by simp)
  rw [round]
  refine runLocalQueued_finish (s := deadlineOn u) ?_
  obtain ⟨e, he, is⟩ := queued
  exact ⟨e, by rw [show (deadlineOn u).clc.queue = u.clc.queue from rfl, points]; exact he, is⟩

/-- Settles O12, from the way of the record through the stages of the mark. -/
theorem markExaminesThePositions : Obligations.MarkExaminesThePositions := by
  unfold Obligations.MarkExaminesThePositions
  intro p s due pending requested length
  have stands := opened_stands pending requested length
  have selector := (selectAtMark_marked s).2
  obtain ⟨none', image, mode⟩ := marked_stands (pl := s.pl) (ended := s.ctb.cycleLength) pending requested
  have ps := SelectionMarks.execCycleMark_ps s due
  have loaded : (selectAtMark s).2 = false := selector.trans none'
  obtain ⟨worked, ctb, records, tracker, -⟩ := markEvent_marks due
  rw [loaded] at records tracker
  have record := records p
  rw [stands.coord] at record
  obtain ⟨-, -, -, -, er, -, ih, -, -, -, -, -⟩ := opened_leaves s
  obtain ⟨-, config, -⟩ := markEvent_stores due
  have queued (free : s.ps.mode = .free) := markEvent_free (p := p) due pending requested length free
  intro c waits may errors refined' step limit
  have refines : refined (opened s) p = true ↔ refined' := by
    unfold refined
    rw [stands.ident]
    exact decide_eq_true_iff
  refine ⟨markEvent s, rfl, by rw [ps]; exact image, by rw [ps]; exact mode, by rw [ctb]; exact stands.cycle, fun free => ?_,
    fun other waiting => ⟨fun e entry takes => ?_, fun e entry refuses => ?_, fun absent => ?_⟩, fun other resting off => ?_,
    fun other steers fixed point => ?_, fun low high => ?_, ?_, ?_, ?_, fun q => ?_, config⟩
  · obtain ⟨own, refusals, commanded⟩ := record_free record (stands.mode.trans free)
    refine ⟨fun goes => ?_, refusals, commanded⟩
    obtain ⟨state, rest⟩ := own goes
    refine ⟨state, fun coord => ?_⟩
    obtain ⟨measured, settle, grant⟩ := rest coord
    exact ⟨measured, settle, grant, queued free coord⟩
  · rw [← stands.cycle]
    exact record_enters record waiting ((mayTake_iff stands p entry other).2 takes) (by rw [stands.imageEntry]; exact entry)
  · have reason : waitingReason (opened s) p = .awaitingMark := by
      unfold waitingReason
      rw [stands.mode, if_neg other, stands.imageEntry, entry]
      rfl
    rw [← reason]
    exact record_waits record (by rw [stands.mode]; exact other) waiting
      (Bool.eq_false_iff.2 (fun takes => refuses ((mayTake_iff stands p entry other).1 takes)))
  · have reason : waitingReason (opened s) p = .notInPlan := by
      unfold waitingReason
      rw [stands.mode, if_neg other, stands.imageEntry, absent]
      rfl
    rw [← reason]
    refine record_waits record (by rw [stands.mode]; exact other) waiting (Bool.eq_false_iff.2 (fun takes => ?_))
    have some := (mayTake_image (Bool.and_eq_true_iff.1 takes).1).2.2
    rw [stands.imageEntry, absent] at some
    exact absurd some nofun
  · exact record_rests record (by rw [stands.mode]; exact other) resting off
  · exact record_steered record (by rw [stands.mode]; exact other) steers
      (Bool.eq_false_iff.2 (fun is => fixed (refines.1 is))) point
  · rw [record_trim record, steppedTrim_eq, stands.limits, stands.pt]
    by_cases is : refined (opened s) p = true
    · rw [if_pos is, if_pos (refines.1 is)]
    · rw [if_neg is, if_neg (fun is' => is (refines.2 is'))]
  · rw [tracker]
    simp
  · rw [tracker]
    rfl
  · exact worked.er.trans er
  · rw [worked.ident q, stands.ident]

end Sys2Proof.Proofs.MarkExaminations
end
section
/-! PROOF. A cycle mark at which a plan takes effect (O13). -/

open Sys2Proof Sys2Proof.Machine

namespace Sys2Proof.Proofs.PlanMarks

open Answers Roads Coordination MarkPasses MarkStages MarkQueue SelectorMarks CycleMarks MarkExaminations SetupEntry Clearing

/-! ### The part with the new image -/

/-- At a mark of `s` the image `plan` has taken effect in `b`, outside FREE. -/
structure Loads (plan : Plan) (s b : State) : Prop where
  loaded : (selectAtMark s).2 = true
  coord : ∀ p, b.coord p = s.coord p
  imageEntry : ∀ p, b.imageEntry p = plan.entries.get p
  mode : b.ps.mode ≠ .free
  cycle : b.ctb.cycleLength = plan.header.cycleLength
  part : b.sli.mode = s.sli.mode
  clc : b.clc = s.clc
  config : b.config = s.config

theorem opened_loads {slot : SlotIx} {cause : PlanCause} {plan : Plan} {s : State}
    (pending : s.ps.pendingPlan = some { slot := slot, cause := cause }) (idle : s.pl.write = .idle)
    (valid : s.pl.slots.get slot = .valid plan) (requested : s.ps.requested = none) (mode : s.ps.mode ≠ .free) :
    Loads plan s (opened s) := by
  obtain ⟨oc, -, -, -, -, config, -, clc, -, sli, clock, ps⟩ := opened_leaves s
  rw [(selectAtMark_marked s).1] at ps
  obtain ⟨image, loaded⟩ := marked_loaded pending idle valid s.ctb.cycleLength
  have stays := (marked_unrequested (pl := s.pl) (ended := s.ctb.cycleLength) requested).1
  rw [← ps] at image stays
  exact {
    loaded := (selectAtMark_marked s).2.trans loaded
    coord := fun p => congrArg (fun oc : Coordinator => oc.positions.get p) oc
    imageEntry := fun p => by
      unfold State.imageEntry
      rw [image]
    mode := by
      rw [stays]
      exact mode
    cycle := by
      rw [clock]
      unfold Selector.newLength
      rw [image]
    part := (congrArg Supervisory.mode sli :)
    clc := clc
    config := config }

/-! ### The record of a position -/

section

variable {b : State} {changed : Bool} {p : Pos} {c d : Coord}

theorem stepped_loaded (h : Stepped b true p c d) : d = c := by
  unfold Stepped at h
  rwa [if_neg (fun both => Bool.noConfusion both.1)] at h

/-- A record goes from the plan through the examination to the command points. -/
theorem record_replanned (h : MarkRecord b true changed p c d) (mode : b.ps.mode ≠ .free) :
    ∃ e f, PlanTaken (b.imageEntry p) b.ctb.cycleLength changed { c with commanded := false } e ∧ Examined b p e f ∧
      Pointed b f d := by
  obtain ⟨c₁, c₂, ⟨e, f, planned, examined, rfl⟩, stepped, pointed⟩ := h
  rw [show freed b f = f from if_neg (fun both => mode both.1)] at stepped
  rw [stepped_loaded stepped] at pointed
  exact ⟨e, f, planned, examined, pointed⟩

/-- Before the command points every trim is 0, every grant absent, and every target comes from the new image (R38). -/
theorem coordinated_targets (h : Coordinated b true changed p c d) (mode : b.ps.mode ≠ .free) :
    d.trim = 0 ∧ d.grant = none ∧ d.target = (b.imageEntry p).map (fun e => targetOf e 0 b.ctb.cycleLength) ∧
      (c.refusals = 4 → d.refusals = 0) := by
  obtain ⟨e, f, planned, examined, eq⟩ := h
  have planned : PlanTaken (b.imageEntry p) b.ctb.cycleLength changed { c with commanded := false } e := planned
  have full (is : c.refusals = 4) : e.refusals = 0 := by
    rw [planned.refusals]
    exact if_pos (.inl is)
  rw [eq, show freed b f = f from if_neg (fun both => mode both.1)]
  by_cases waits : Waits e
  · by_cases may : (mayTake b p && !e.fieldLocal) = true
    · rw [examined.enters waits may]
      refine ⟨planned.trim, planned.grant, ?_, fun _ => rfl⟩
      unfold entered
      dsimp only
      rw [planned.trim]
    · rw [examined.waits waits (Bool.eq_false_iff.2 may)]
      exact ⟨planned.trim, planned.grant, planned.target, full⟩
  · rw [examined.other waits]
    exact ⟨planned.trim, planned.grant, planned.target, full⟩

theorem record_targets (h : MarkRecord b true changed p c d) (mode : b.ps.mode ≠ .free) :
    d.trim = 0 ∧ d.grant = none ∧ d.target = (b.imageEntry p).map (fun e => targetOf e 0 b.ctb.cycleLength) ∧
      (c.refusals = 4 → d.refusals = 0) := by
  obtain ⟨c₁, c₂, coordinates, stepped, pointed⟩ := h
  obtain ⟨trim', grant', target', refusals'⟩ := coordinated_targets coordinates mode
  obtain ⟨trim, target, refusals, -⟩ := pointed.kept
  rw [stepped_loaded stepped] at trim target refusals pointed
  exact ⟨trim.trans trim', pointed.grant grant', target.trans target', fun is => refusals.trans (refusals' is)⟩

/-- A coordinated position without an entry is dropped (R38). -/
theorem record_dropped (h : MarkRecord b true changed p c d) (mode : b.ps.mode ≠ .free)
    (coord : coordinated c.state = true) (entry : b.imageEntry p = none) :
    d.state = .inLocal .notInPlan ∧ d.measured = none ∧ d.settle = none := by
  obtain ⟨e, f, planned, examined, pointed⟩ := record_replanned h mode
  obtain ⟨state, measured, settle⟩ := planned.dropped coord entry
  have waits : Waits e := ⟨.notInPlan, state, .inr (.inr rfl)⟩
  have never : (mayTake b p && !e.fieldLocal) = false := by
    refine Bool.eq_false_iff.2 (fun may => ?_)
    have some := (mayTake_image (Bool.and_eq_true_iff.1 may).1).2.2
    rw [entry] at some
    exact absurd some nofun
  have kept := examined.waits waits never
  have reason : waitingReason b p = .notInPlan := by
    unfold waitingReason
    rw [if_neg mode, entry]
    rfl
  rw [reason] at kept
  rw [pointed_resting pointed (by rw [kept]; rfl), kept]
  exact ⟨rfl, measured, settle⟩

/-- A record in a coordinated state is not examined. -/
theorem record_coordinated (h : MarkRecord b true changed p c d) (mode : b.ps.mode ≠ .free) :
    ∃ e, PlanTaken (b.imageEntry p) b.ctb.cycleLength changed { c with commanded := false } e ∧
      (coordinated e.state = true → Pointed b e d) := by
  obtain ⟨e, f, planned, examined, pointed⟩ := record_replanned h mode
  refine ⟨e, planned, fun coord => ?_⟩
  rw [examined.other (coordinated_notWaits coord)] at pointed
  exact pointed

theorem record_preempted (h : MarkRecord b true changed p c d) (mode : b.ps.mode ≠ .free) (is : c.state = .preempted)
    (entry : b.imageEntry p ≠ none) : d.state = .preempted := by
  obtain ⟨e, planned, points⟩ := record_coordinated h mode
  have state := planned.preempted is entry
  rw [pointed_resting (points (by rw [state]; rfl)) (by rw [state]; rfl), state]

/-- Under another C a steered position starts again (R39). -/
theorem record_restarted (h : MarkRecord b true true p c d) (mode : b.ps.mode ≠ .free) (steers : steered c.state = true)
    (entry : b.imageEntry p ≠ none) : d.state = .seeking .lengthen ∧ d.measured = none ∧ d.settle = none := by
  obtain ⟨e, planned, points⟩ := record_coordinated h mode
  obtain ⟨state, measured, settle⟩ := planned.restarted steers entry rfl
  have pointed := points (by rw [state]; rfl)
  obtain ⟨unmeasured, same⟩ := pointed.unmeasured measured
  exact ⟨same.trans state, unmeasured, pointed.kept.2.2.2.trans settle⟩

/-- Under the same C a SEEKING position keeps its measurement. -/
theorem record_seeks (h : MarkRecord b true false p c d) (mode : b.ps.mode ≠ .free) {way : SeekDirection} (is : c.state = .seeking way)
    (entry : b.imageEntry p ≠ none) (few : c.refusals < 4)
    (point : ∀ x, (b.imageEntry p).map (fun e => targetOf e 0 b.ctb.cycleLength) = some x → x.commandPoint ≠ 0) :
    d = { c with trim := 0, grant := none, target := (b.imageEntry p).map (fun e => targetOf e 0 b.ctb.cycleLength),
                 commanded := false } := by
  obtain ⟨e, planned, points⟩ := record_coordinated h mode
  have own := planned.seeking way is entry rfl
  have pointed := points (by rw [own]; exact Handled.coordinated_of_steered (by rw [show c.state = _ from is]; rfl))
  rw [pointed.idle (fun fires => ?_), own]
  · dsimp only
    rw [if_neg (by omega)]
  · obtain ⟨x, target, zero⟩ := Option.map_eq_some_iff.1 fires.2.2.2
    rw [own] at target
    exact point x target zero

/-- Under the same C an IN-STEP position stays steered, and IN-STEP when its target stands. -/
theorem record_inStep (h : MarkRecord b true false p c d) (mode : b.ps.mode ≠ .free) (is : c.state = .inStep)
    (entry : b.imageEntry p ≠ none) :
    steered d.state = true ∧
      (c.target = (b.imageEntry p).map (fun e => targetOf e 0 b.ctb.cycleLength) → d.state = .inStep) := by
  obtain ⟨e, planned, points⟩ := record_coordinated h mode
  obtain ⟨steers, same⟩ := planned.inStep is entry rfl
  have pointed := points (Handled.coordinated_of_steered steers)
  exact ⟨pointed.steered.trans steers, fun stands => pointed.inStep (same stands)⟩

end

/-! ### The queue -/

/-- A TIMING-SET in the queue is one of this mark's command points. -/
def OwnTimings (s : State) : Prop :=
  ∀ e ∈ s.clc.queue, e.command.isTimingSet = true → ∃ p, e.position = some p ∧ (s.coord p).commanded = true

/-- No TIMING-SET stands in the queue. -/
def Untimed (s : State) : Prop := ∀ e ∈ s.clc.queue, e.command.isTimingSet = false

theorem leaveToLocal_untimed {p : Pos} {reason : LocalReason} {b : Bool} {s : State} (h : Untimed s) :
    Untimed (leaveToLocal p reason b s) := fun e he => by
  rcases (Road.leaveToLocal (wide := false) (A := fun _ => True) (C := (· = .runLocal)) (p := p) trivial reason (b := b)
    (fun _ => rfl) s).queue e he with old | ⟨command, -⟩
  · exact h e old
  · rw [command]
    rfl

/-- The part when no target is commanded and no TIMING-SET is queued any more. -/
def clearedPart (b : State) : State := withdraw (fun e => e.command.isTimingSet) (uncommanded b)

theorem planPass_loaded (changed : Bool) (b : State) :
    planPass true changed b = forPositions (planTakesEffect changed) (clearedPart b) := if_pos rfl

theorem clearedPart_leaves (b : State) :
    Steers b (clearedPart b) ∧ (∀ p, (clearedPart b).coord p = { b.coord p with commanded := false }) ∧
      (∀ e ∈ (clearedPart b).clc.queue, e ∈ b.clc.queue ∧ e.command.isTimingSet = false) ∧
      (clearedPart b).clc.queue.length ≤ b.clc.queue.length := by
  obtain ⟨cleared, own⟩ := uncommanded_coord b
  have clc := uncommanded_clc b
  unfold clearedPart
  generalize uncommanded b = u at cleared own clc ⊢
  refine ⟨cleared.trans (.withdraw _ _), own, fun e he => ?_, ?_⟩
  · obtain ⟨old, keeps⟩ := List.mem_filter.1 he
    rw [clc] at old
    exact ⟨old, by simpa using keeps⟩
  · rw [← clc]
    exact List.length_filter_le _ _

theorem planPass_untimed (changed : Bool) (b : State) : Untimed (planPass true changed b) := by
  rw [planPass_loaded]
  refine forPositions_keeps (K := Untimed) (fun p u h => ?_) (fun e he => ((clearedPart_leaves b).2.2.1 e he).2)
  · rcases planTakesEffect_queue changed p u with ⟨-, v, -, clc, eq⟩ | same
    · rw [eq]
      exact leaveToLocal_untimed (fun e he => h e (by rw [← clc]; exact he))
    · unfold Untimed
      rw [same]
      exact h

theorem handleCommandPoint_queue (p : Pos) (s : State) :
    (handleCommandPoint p s).clc = s.clc ∨
      ∃ figures u, u.clc = s.clc ∧ (handleCommandPoint p s).clc = (offerTo (.timingSet figures) p none u).1.clc := by
  have examined : CommandPoints.Records p (CommandPoints.pointed p s) s
      (rechoose p (dropStale p (s.withCoord p (fun c => { c with commanded := true })))) :=
    (((CommandPoints.Records.rfl' p s).withCoord (fun c => { c with commanded := true })).dropStale).rechoose
  have clc := (congrArg State.clc examined.rest :)
  unfold handleCommandPoint
  dsimp only
  generalize rechoose p (dropStale p (s.withCoord p (fun c => { c with commanded := true }))) = w at clc ⊢
  split
  · exact .inr ⟨_, w.withCoord p (fun c => { c with grant := none }), clc, rfl⟩
  · exact .inl clc

theorem mem_claimBeacon {s : State} {e : QueueEntry} (h : e ∈ (claimBeacon s).clc.queue) :
    e ∈ s.clc.queue ∨ e.command = .beacon := by
  have joins {q : List QueueEntry} (old : ∀ x ∈ q, x ∈ s.clc.queue) {b : QueueEntry} (is : b.command = .beacon)
      (he : e ∈ joinQueue b q) : e ∈ s.clc.queue ∨ e.command = .beacon := by
    rcases mem_joinQueue.1 he with rfl | he
    · exact .inr is
    · exact .inl (old e he)
  unfold claimBeacon offerEntry at h
  dsimp only at h
  split at h
  · exact .inl h
  · split at h
    · exact .inl h
    · split at h
      · exact joins (fun x hx => List.mem_of_mem_filter hx) rfl h
      · split at h
        · exact joins (fun x hx => hx) rfl h
        · split at h
          · exact .inl h
          · split at h
            · exact .inl h
            · next victim rest hv =>
              rw [Keeps.evicted_queue] at h
              exact joins (fun x hx => (evictYoungest_some hv).1.subset hx) rfl h

/-- What the command point of a position at the mark makes of the queue: nothing, or one offer for that position. -/
theorem commandPointAtMark_queue (p : Pos) (s : State) :
    (commandPointAtMark p s).clc = s.clc ∨
      (((commandPointAtMark p s).coord p).commanded = true ∧ (∃ x, (s.coord p).target = some x) ∧
        ∃ figures u, u.clc = s.clc ∧ (commandPointAtMark p s).clc = (offerTo (.timingSet figures) p none u).1.clc) := by
  by_cases fires : Fires s (s.coord p)
  · have commanded := (commandPointAtMark_points p s).2.commanded fires
    rw [show commandPointAtMark p s = handleCommandPoint p s from if_pos fires] at commanded ⊢
    have target : ∃ x, (s.coord p).target = some x := by
      obtain ⟨x, target, -⟩ := Option.map_eq_some_iff.1 fires.2.2.2
      exact ⟨x, target⟩
    rcases handleCommandPoint_queue p s with same | offered
    · exact .inl same
    · exact .inr ⟨commanded, target, offered⟩
  · exact .inl (congrArg State.clc (if_neg fires))

theorem commandPointAtMark_keeps (p q : Pos) {n : Nat} (s : State) (h : (s.coord q).target = none ∨ 1 ≤ n) :
    Keeps (RunsLocal p) n s (commandPointAtMark q s) := by
  rcases commandPointAtMark_queue q s with same | ⟨-, ⟨x, target⟩, figures, u, clc, eq⟩
  · exact .ofQueue (congrArg LineController.queue same)
  · have room : 1 ≤ n := h.resolve_left (by rw [target]; nofun)
    have offered : Keeps (RunsLocal p) 1 u (offerTo (.timingSet figures) q none u).1 :=
      .offerTo none u (fun e he => by simp [replaces, he.1, LineCommand.isTimingSet])
    have start : Keeps (RunsLocal p) 0 s u := .ofQueue (congrArg LineController.queue clc)
    have last : Keeps (RunsLocal p) 0 (offerTo (.timingSet figures) q none u).1 (commandPointAtMark q s) :=
      .ofQueue (congrArg LineController.queue eq)
    exact ((start.trans offered).trans last).le (by omega)

/-- The command points of the mark keep the RUN-LOCALs, and take a place for each position of the plan at most. -/
theorem pointPass_keeps {b s : State} (p : Pos) (target : ∀ q, b.imageEntry q = none → (s.coord q).target = none) :
    Keeps (RunsLocal p) (positions.map (pointWeight b)).sum s (forPositions commandPointAtMark s) :=
  pass_kept (fun q u _ => (commandPointAtMark_points q u).1) (fun q u _ fresh => by
    refine commandPointAtMark_keeps p q u ?_
    unfold pointWeight
    by_cases entry : b.imageEntry q = none
    · exact .inl (by rw [fresh]; exact target q entry)
    · rw [if_neg entry]
      exact .inr le_rfl)

/-- The TIMING-SETs in the queue after the command points of a mark are those of the points. -/
theorem pointPass_timings {s : State} (h : OwnTimings s) : OwnTimings (forPositions commandPointAtMark s) := by
  refine forPositions_keeps (K := OwnTimings) (fun p u own => ?_) h
  obtain ⟨at', points⟩ := commandPointAtMark_points p u
  have stays {q : Pos} (is : (u.coord q).commanded = true) : ((commandPointAtMark p u).coord q).commanded = true := by
    by_cases same : q = p
    · subst same
      by_cases fires : Fires u (u.coord q)
      · exact points.commanded fires
      · rw [points.idle fires]
        exact is
    · rw [at'.others q same]
      exact is
  intro e he timing
  rcases commandPointAtMark_queue p u with same | ⟨commanded, -, figures, v, clc, eq⟩
  · rw [same] at he
    obtain ⟨q, position, is⟩ := own e he timing
    exact ⟨q, position, stays is⟩
  · rw [eq] at he
    rcases (Road.offerTo (wide := false) (A := (· = p)) (C := fun _ => True) rfl trivial none v).queue e he with
      old | ⟨-, -, -, -, q, rfl, position⟩
    · rw [clc] at old
      obtain ⟨q, position, is⟩ := own e old timing
      exact ⟨q, position, stays is⟩
    · exact ⟨q, position, commanded⟩

/-- The beacon's claim takes one place at most. -/
theorem beaconRound_keeps (p : Pos) (s : State) : Keeps (RunsLocal p) 1 s (beaconRound s) := by
  rw [show beaconRound s = if beaconCondition (deadlineOn s) then claimBeacon (deadlineOn s) else deadlineOn s from rfl]
  split
  · have claimed : Keeps (RunsLocal p) 1 (deadlineOn s) (claimBeacon (deadlineOn s)) :=
      .offerEntry (deadlineOn s) (fun e he => by simp [replaces, he.1])
    exact (Keeps.ofQueue (n := 0) (s := s) (t := deadlineOn s) rfl).trans claimed
  · exact .ofQueue rfl

/-- The beacon's claim brings no TIMING-SET. -/
theorem beaconRound_timings {s : State} (h : OwnTimings s) : OwnTimings (beaconRound s) := by
  have coord : (beaconRound s).oc = s.oc := (beaconRound_worked s).2.2.1
  intro e he timing
  have old : e ∈ s.clc.queue := by
    rw [show beaconRound s = if beaconCondition (deadlineOn s) then claimBeacon (deadlineOn s) else deadlineOn s from rfl] at he
    split at he
    · rcases mem_claimBeacon he with old | beacon
      · exact old
      · rw [beacon] at timing
        exact absurd timing nofun
    · exact he
  obtain ⟨p, position, commanded⟩ := h e old timing
  refine ⟨p, position, ?_⟩
  unfold State.coord
  rw [coord]
  exact commanded

theorem finish_timings {s : State} (h : OwnTimings s) : OwnTimings (finish s) := by
  intro e he timing
  obtain ⟨x, hx, same⟩ := mem_finish he
  obtain ⟨p, position, commanded⟩ := h x hx (by rw [← core_command same]; exact timing)
  exact ⟨p, (core_position same).trans position, by rw [finish_coord]; exact commanded⟩

/-! ### The obligation -/

/-- The queue before the command points, when a plan takes effect outside FREE. -/
theorem beforePoints_loaded {plan : Plan} {s : State} (h : Loads plan s (opened s)) :
    (beforePoints s).clc = (planPass true (lengthens s) (opened s)).clc := by
  rw [beforePoints_clc, h.loaded]
  exact coordAtMark_clc true (lengthens s) h.mode

/-- The mark's RUN-LOCAL for a position that the plan drops (R38). -/
theorem markEvent_drops {plan : Plan} {s : State} (due : elapsed s.now s.ctb.anchor = s.ctb.cycleLength)
    (h : Loads plan s (opened s)) {p : Pos} (coord : coordinated (s.coord p).state = true) (entry : plan.entries.get p = none)
    (fits : runLocalFits s p 13) : runLocalQueued (markEvent s) p := by
  obtain ⟨live, config, room, quiet⟩ := fits
  have capacity : Config.queueCapacity = 24 := rfl
  have weights := weights_sum (opened s)
  obtain ⟨start, own, old, shorter⟩ := clearedPart_leaves (opened s)
  rw [h.clc] at old shorter
  have points (q : Pos) (absent : (opened s).imageEntry q = none) : ((beforePoints s).coord q).target = none := by
    obtain ⟨v, pt, pm, -, eq, records, -⟩ := beforePoints_coord s
    obtain ⟨c, coordinates, stepped⟩ := records q
    rw [h.loaded] at coordinates stepped
    rw [eq, show ({ v with pt := pt, pm := pm } : State).coord q = v.coord q from rfl, stepped_loaded stepped,
      (coordinated_targets coordinates h.mode).2.2.1, absent]
    rfl
  have queue := beforePoints_loaded h
  rw [planPass_loaded] at queue
  have own := own p
  rw [h.coord] at own
  generalize clearedPart (opened s) = u at start old shorter own queue
  have dropped : (positions.map (dropWeight u)).sum = (positions.map (dropWeight (opened s))).sum :=
    congrArg List.sum (List.map_congr_left (fun q _ => by
      unfold dropWeight
      rw [start.imageEntry]))
  have grown : Keeps (fun _ => False) (positions.map (dropWeight u)).sum u (forPositions (planTakesEffect (lengthens s)) u) :=
    pass_kept (fun q v _ => (planTakesEffect_takes _ q v).1) (fun q v steers _ => planTakesEffect_grows _ q steers)
  have queued : runLocalQueued (forPositions (planTakesEffect (lengthens s)) u) p :=
    effectPass_queued (by rw [own]; exact coord) (by rw [start.imageEntry, h.imageEntry]; exact entry) (by rw [start.mode, h.part]; exact live)
      (by rw [start.config, h.config]; exact config) (fun e he => quiet e (old e he).1) (by omega)
  have length := grown.length
  rw [← queue] at length
  have pointed := pointPass_keeps p points
  have claimed := beaconRound_keeps p (forPositions commandPointAtMark (beforePoints s))
  obtain ⟨e, he, position, command⟩ := queued
  rw [← queue] at he
  rw [markEvent_due due, cycleMark_eq]
  exact runLocalQueued_finish ⟨e, (pointed.trans claimed).kept (by omega) e he ⟨command, position⟩, position, command⟩

/-- The TIMING-SETs in the queue after the mark are those of its own command points. -/
theorem markEvent_timings {plan : Plan} {s : State} (due : elapsed s.now s.ctb.anchor = s.ctb.cycleLength)
    (h : Loads plan s (opened s)) : OwnTimings (markEvent s) := by
  have before : OwnTimings (beforePoints s) := by
    intro e he timing
    rw [beforePoints_loaded h] at he
    rw [planPass_untimed (lengthens s) (opened s) e he] at timing
    exact absurd timing nofun
  rw [markEvent_due due, cycleMark_eq]
  exact finish_timings (beaconRound_timings (pointPass_timings before))

/-- Settles O13, from the way of the records through the stages of the mark and the queue behind them. -/
theorem planTakesEffectAtTheMark : Obligations.PlanTakesEffectAtTheMark := by
  unfold Obligations.PlanTakesEffectAtTheMark
  intro slot cause plan s due pending idle valid requested mode cycle target
  have loads := opened_loads pending idle valid requested mode
  have ps := SelectionMarks.execCycleMark_ps s due
  obtain ⟨worked, ctb, records, tracker, -⟩ := markEvent_marks due
  rw [loads.loaded] at records tracker
  obtain ⟨-, -, -, -, er, -, ih, -⟩ := opened_leaves s
  obtain ⟨-, config, -⟩ := markEvent_stores due
  have record (p : Pos) := records p
  have other : lengthens s = (cycle != s.ctb.cycleLength) := by
    unfold lengthens
    rw [loads.cycle]
  have entry {p : Pos} (some : plan.entries.get p ≠ none) : (opened s).imageEntry p ≠ none := by
    rw [loads.imageEntry]
    exact some
  have targets (p : Pos) :
      ((opened s).imageEntry p).map (fun e => targetOf e 0 (opened s).ctb.cycleLength) = target p := by
    rw [loads.imageEntry, loads.cycle]
  simp only [loads.coord] at record
  refine ⟨markEvent s, rfl, by rw [ps]; exact (marked_loaded pending idle valid _).1, by rw [ctb]; exact loads.cycle,
    fun p => ?_, fun p full => ?_, fun p coord absent => ?_, fun p is some => ?_, fun p steers some changes => ?_,
    fun p way is some same point few => ?_, fun p is some same => ?_, markEvent_timings due loads, ?_, fun p => ?_, ?_,
    fun q => ?_, config⟩
  · obtain ⟨trim, grant, own, -⟩ := record_targets (record p) loads.mode
    exact ⟨trim, grant, own.trans (targets p)⟩
  · exact (record_targets (record p) loads.mode).2.2.2 full
  · obtain ⟨state, measured, settle⟩ := record_dropped (record p) loads.mode coord (by rw [loads.imageEntry]; exact absent)
    exact ⟨state, measured, settle, markEvent_drops due loads coord absent⟩
  · exact record_preempted (record p) loads.mode is (entry some)
  · have own := record p
    rw [other, bne_iff_ne.2 changes] at own
    exact record_restarted own loads.mode steers (entry some)
  · have own := record p
    rw [other, show (cycle != s.ctb.cycleLength) = false from by simpa using same] at own
    rw [record_seeks own loads.mode is (entry some) few (by rw [targets]; exact point), targets]
  · have own := record p
    rw [other, show (cycle != s.ctb.cycleLength) = false from by simpa using same] at own
    obtain ⟨steers, stands⟩ := record_inStep own loads.mode is (entry some)
    exact ⟨steers, fun at' => stands (by rw [targets]; exact at')⟩
  · rw [tracker]
    rfl
  · rw [tracker]
    simp
  · exact worked.er.trans er
  · rw [worked.ident q]
    exact congrArg (fun ih : Machine.Identification => { ih.ident.get q with retry := none }) ih

end Sys2Proof.Proofs.PlanMarks
end

section
/-! PROOF. What the completion of a decisecond leaves, and the clocks (O10). -/

open Sys2Proof Sys2Proof.Machine

namespace Sys2Proof.Proofs.Deciseconds

open Answers Roads Coordination MarkPasses MarkStages SelectorMarks Reports LineResets Links

/-! ### The settings of links, and the selector -/

/-- The settings of a link that the host has written. -/
def setting (r : LinkRecord) : Nat × Nat × Nat × Nat := (r.distance, r.speed, r.lead, r.depth)

/-- From `s` to `t` the selector and the settings of every link stand. -/
structure SettingsKept (s t : State) : Prop where
  selector : t.ps = s.ps
  links : ∀ l, setting (t.link l) = setting (s.link l)

namespace SettingsKept

theorem rfl' (s : State) : SettingsKept s s := ⟨rfl, fun _ => rfl⟩

theorem trans {a b c : State} (h : SettingsKept a b) (g : SettingsKept b c) : SettingsKept a c :=
  ⟨g.selector.trans h.selector, fun l => (g.links l).trans (h.links l)⟩

theorem ofSame {s t : State} (ps : t.ps = s.ps) (pt : t.pt = s.pt) : SettingsKept s t :=
  ⟨ps, fun l => congrArg setting (link_congr (congrArg Tracker.inboundLinks pt) (congrArg Tracker.outboundLinks pt) l)⟩

theorem ofPool {s t : State} (ps : t.ps = s.ps) (pool : Clearing.SamePool s t) : SettingsKept s t :=
  ⟨ps, fun l => congrArg setting (pool.link l)⟩

theorem ofRoad {A : Pos → Prop} {C : LineCommand → Prop} {s t : State} (h : Road false A C s t) : SettingsKept s t :=
  ofSame h.ps (h.pt rfl)

theorem ofOffered {s t : State} (h : Offered s t) : SettingsKept s t := ofSame h.ps h.pt

theorem ofSteers {s t : State} (h : Steers s t) : SettingsKept s t := ofSame h.ps h.pt

theorem ofSettles {s t : State} (h : Settles s t) : SettingsKept s t := ofSame h.ps h.pt

theorem finish (s : State) : SettingsKept s (finish s) := ofSettles (settles_finish s)

theorem withLink (s : State) (l : Link) (f : LinkRecord → LinkRecord) (hf : ∀ r, setting (f r) = setting r) :
    SettingsKept s (s.withLink l f) := by
  refine ⟨(TrackerOnly.withLink s l f).ps, fun m => ?_⟩
  rw [State.withLink_link]
  split
  · next same =>
    rw [hf, same]
  · rfl

theorem freeRecords (n : Nat) (s : State) : SettingsKept s (freeRecords n s) :=
  ⟨(TrackerOnly.freeRecords n s).ps, fun l => congrArg setting (freeRecords_link n s l)⟩

theorem forPositions {f : Pos → State → State} (hf : ∀ p u, SettingsKept u (f p u)) (s : State) :
    SettingsKept s (forPositions f s) :=
  Clearing.forPositions_keeps (K := SettingsKept s) (fun p u h => h.trans (hf p u)) (.rfl' s)

theorem foldl {α : Type} {f : State → α → State} (hf : ∀ u x, SettingsKept u (f u x)) (l : List α) (s : State) :
    SettingsKept s (l.foldl f s) := by
  induction l generalizing s with
  | nil => exact rfl' s
  | cons x l ih => exact (hf s x).trans (ih _)

theorem whenDue {due : State → Bool} {handle : State → State} (s : State) (h : SettingsKept s (handle s)) :
    SettingsKept s (whenDue due handle s) := by
  unfold Machine.whenDue
  split
  · exact h.trans (finish _)
  · exact rfl' s

theorem raiseNotice (body : NoticeBody) (s : State) : SettingsKept s (raiseNotice body s) := ofSame rfl rfl

theorem withIdent (s : State) (p : Pos) (f : Ident → Ident) : SettingsKept s (s.withIdent p f) := ofSame rfl rfl

theorem withHealth (s : State) (p : Pos) (f : Health → Health) : SettingsKept s (s.withHealth p f) := ofSame rfl rfl

theorem identification (s : State) (ih : Machine.Identification) : SettingsKept s { s with ih := ih } := ofSame rfl rfl

theorem line (s : State) (clc : LineController) : SettingsKept s { s with clc := clc } := ofSame rfl rfl

/-! #### The tracker -/

theorem emptyLink (l : Link) (s : State) : SettingsKept s (emptyLink l s) :=
  (withLink s l (fun r => { r with queue := [] }) (fun _ => rfl)).trans (freeRecords _ _)

theorem linksDown (p : Pos) (s : State) : SettingsKept s (linksDown p s) := foldl (fun s l => emptyLink l s) _ s

theorem emptyAccumulator (p : Pos) (s : State) : SettingsKept s (emptyAccumulator p s) :=
  ofPool rfl (Clearing.SamePool.emptyAccumulator p s)

theorem flushPool (s : State) : SettingsKept s (flushPool s) := by
  obtain ⟨pt, eq⟩ := flushPool_eq s
  refine ⟨by rw [eq], fun l => ?_⟩
  rw [(Clearing.flushPool_pool s).2 l]
  rfl

theorem losePlatoon (l : Link) (n : Nat) (s : State) : SettingsKept s (losePlatoon l n s) := by
  have lost (falls : Bool) : SettingsKept s (Machine.freeRecords 1 (s.withLink l (fun r =>
      { r with queue := removePlatoon n r.queue, lost := saturate 3 ((s.link l).lost + 1), tracked := r.tracked && !falls }))) :=
    (withLink s l (fun r =>
      { r with queue := removePlatoon n r.queue, lost := saturate 3 ((s.link l).lost + 1), tracked := r.tracked && !falls })
      (fun _ => rfl)).trans (freeRecords _ _)
  unfold Machine.losePlatoon
  dsimp only
  split
  · exact (lost _).trans (raiseNotice _ _)
  · exact lost _

/-! #### The watch -/

theorem settleGridlock (s : State) : SettingsKept s (settleGridlock s) :=
  ofSame (Beside.settleGridlock s).ps (Clearing.settleGridlock_approaches s).2

theorem approachesLost (p : Pos) (s : State) : SettingsKept s (approachesLost p s) :=
  ofPool (Beside.approachesLost p s).ps (Clearing.approachesLost_pool p s)

theorem changeApproach (p : Pos) (a : Approach) (r : ApproachRecord) (s : State) :
    SettingsKept s (changeApproach p a r s) := by
  have changed : SettingsKept s (s.withApproach p a r) := ofSame rfl rfl
  unfold Machine.changeApproach
  dsimp only
  split
  · exact changed
  · exact (changed.trans (raiseNotice _ _)).trans (settleGridlock _)

/-! #### Identification and health -/

theorem leftIdentified (p : Pos) (s : State) : SettingsKept s (leftIdentified p s) := by
  have serviced : SettingsKept s (withdrawServiced p s) := ofOffered (.withdraw _ s)
  have unseen : SettingsKept (withdrawServiced p s) (coordUnseen p (withdrawServiced p s)) :=
    ofRoad (Road.coordUnseen (A := fun _ => True) (C := fun _ => True) trivial _)
  have lost (u : State) : SettingsKept u (standingLost p u) :=
    ofRoad (Road.standingLost (A := fun _ => True) (C := fun _ => True) trivial (fun _ _ _ _ => trivial) trivial trivial)
  unfold Machine.leftIdentified
  exact ((((serviced.trans unseen).trans (lost _)).trans (linksDown p _)).trans (emptyAccumulator p _)).trans (approachesLost p _)

theorem liftCutOff (p : Pos) (s : State) : SettingsKept s (liftCutOff p s) := by
  unfold Machine.liftCutOff
  dsimp only
  split
  · exact (withHealth s p _).trans (raiseNotice _ _)
  · exact rfl' s

theorem beginIdentification (p : Pos) (s : State) : SettingsKept s (beginIdentification p s) := by
  unfold Machine.beginIdentification
  split
  · exact rfl' s
  · have begun (ih : Machine.Identification) :=
      ((((identification s ih).trans (withIdent _ p Ident.probing)).trans
        (withHealth _ p (fun h => { h with failures := 0 }))).trans (liftCutOff p _)).trans
        (withHealth _ p (fun h => { h with probeDeadline := none, probes := 0 }))
    dsimp only
    refine SettingsKept.trans ?_ (ofOffered (.offerIdentify p _))
    split
    · exact (begun _).trans (leftIdentified p _)
    · exact begun _

theorem offerAgain (p : Pos) (s : State) : SettingsKept s (offerAgain p s) := by
  have cleared : SettingsKept s (s.withIdent p (fun i => { i with retry := none })) := ofSame rfl rfl
  unfold Machine.offerAgain
  dsimp only
  split
  · exact cleared.trans (ofOffered (.offerQuiet p _))
  · split
    · exact cleared.trans (ofOffered (.offerIdentify p _))
    · exact cleared

theorem offerProbe (p : Pos) (s : State) : SettingsKept s (offerProbe p s) := by
  have set : SettingsKept s (s.withHealth p (fun h => { h with probeDeadline := some (later s.now 50) })) := ofSame rfl rfl
  unfold Machine.offerProbe
  dsimp only
  split
  · exact set
  · exact set.trans (ofOffered (.offerTo _ _ _ _))

theorem endQuiet (p : Pos) (s : State) : SettingsKept s (endQuiet p s) :=
  (withHealth s p _).trans (beginIdentification p _)

theorem forgetIdent (p : Pos) (s : State) : SettingsKept s (forgetIdent p s) := by
  have reset : SettingsKept s (s.withIdent p (fun _ => Ident.reset)) := ofSame rfl rfl
  unfold Machine.forgetIdent
  dsimp only
  split
  · exact reset.trans (leftIdentified p _)
  · exact reset

theorem forgetAll (s : State) : SettingsKept s (forgetAll s) := by
  have all := forPositions forgetIdent s
  unfold Machine.forgetAll
  generalize Machine.forPositions Machine.forgetIdent s = u at all ⊢
  exact all.trans (identification u _)

theorem drained (s : State) : SettingsKept s (drained s) := by
  have cleared : SettingsKept s
      { s with clc := { s.clc with drainFlag := false }, sli := { s.sli with draining := false } } := ofSame rfl rfl
  exact cleared.trans (forgetAll _)

/-! #### The line -/

theorem priorityLineReset (s : State) : SettingsKept s (priorityLineReset s) := by
  have emptied : SettingsKept s (s.withRoutes (fun _ => [])) := ofSame rfl rfl
  exact emptied.trans (forPositions (fun p u =>
    ofRoad (Road.setOwner (A := fun _ => True) (C := fun _ => True) trivial (fun _ => trivial) u)) _)

theorem lineResetLine (s : State) : SettingsKept s (lineResetLine s) := by
  have cut : SettingsKept s { s.withQueue [] with
      clc := ({ (s.withQueue []).clc with due := Vector.replicate 12 none } : LineController).broken (s.withQueue []).now } :=
    ofSame rfl rfl
  exact (cut.trans (priorityLineReset _)).trans (flushPool _)

theorem lineReset (s : State) : SettingsKept s (lineReset s) := by
  have noticed : SettingsKept s (lineResetNotice s) := ofSame rfl rfl
  have reset := (noticed.trans (lineResetLine _)).trans (forgetAll _)
  unfold Machine.lineReset
  dsimp only
  split
  · exact reset.trans (forPositions beginIdentification _)
  · exact reset

end SettingsKept

/-! ### What is still due in a decisecond -/

theorem beaconEvent_settings (s : State) : SettingsKept s (beaconEvent s) := by
  obtain ⟨worked, -, -, pt, -⟩ := beaconRound_worked s
  exact .whenDue s (.ofSame worked.ps pt)

theorem windowEvent_settings (n : Nat) (s : State) : SettingsKept s (windowEvent n s) := by
  unfold windowEvent
  split
  · exact .rfl' s
  · exact (SettingsKept.losePlatoon _ n s).trans (.finish _)

theorem routeEvent_settings (p : Pos) (s : State) : SettingsKept s (routeEvent p s) := by
  unfold routeEvent
  split
  · exact .rfl' s
  · next r _ =>
    split
    · exact (SettingsKept.ofRoad (RouteEnds.dropRoute_road r .timeout s)).trans (.finish _)
    · exact .rfl' s

theorem breakEvent_settings (s : State) : SettingsKept s (breakEvent s) := by
  have reported (u : State) : SettingsKept u (reportIfDrained u) := by
    unfold reportIfDrained
    split
    · exact .drained u
    · exact .rfl' u
  unfold breakEvent
  split
  · split
    · exact ((SettingsKept.line s s.clc.released).trans (reported _)).trans (.finish _)
    · exact .rfl' s
  · exact .rfl' s

theorem settleEvent_settings (p : Pos) (s : State) : SettingsKept s (settleEvent p s) :=
  .whenDue s (.ofSteers (SteersAt.withCoord (p := p) s (fun c => { c with settle := none })).steers)

theorem approachEvent_settings (p : Pos) (a : Approach) (s : State) : SettingsKept s (approachEvent p a s) :=
  .whenDue s (.changeApproach p a _ s)

theorem silenceEvent_settings (s : State) : SettingsKept s (silenceEvent s) := .whenDue s (.lineReset s)

theorem roundEvent_settings (s : State) : SettingsKept s (roundEvent s) := .whenDue s (.line s _)

theorem catchUp_settings (s : State) : SettingsKept (markEvent s) (catchUp s) := by
  unfold catchUp
  extract_lets s₁ s₂ s₃ s₄ s₅ s₆ s₇
  have h₁ : SettingsKept (markEvent s) s₁ := beaconEvent_settings _
  have h₂ : SettingsKept s₁ s₂ := .forPositions settleEvent_settings _
  have h₃ : SettingsKept s₂ s₃ := .foldl (fun u n => windowEvent_settings n u) _ _
  have h₄ : SettingsKept s₃ s₄ := .forPositions (fun p u =>
    ((approachEvent_settings p _ u).trans (approachEvent_settings p _ _)).trans (approachEvent_settings p _ _)) _
  have h₅ : SettingsKept s₄ s₅ := (SettingsKept.forPositions routeEvent_settings _).trans
    (.forPositions (fun p u => .whenDue u (.offerAgain p u)) _)
  have h₆ : SettingsKept s₅ s₆ := ((SettingsKept.forPositions (fun p u => .whenDue u (.beginIdentification p u)) _).trans
    (.forPositions (fun p u => .whenDue u (.offerProbe p u)) _)).trans
    (.forPositions (fun p u => .whenDue u (.endQuiet p u)) _)
  have h₇ : SettingsKept s₆ s₇ := ((silenceEvent_settings s₆).trans (breakEvent_settings _)).trans (roundEvent_settings _)
  have h₈ : SettingsKept s₇ (forPositions commandPointEvent s₇) :=
    .forPositions (fun p u => .whenDue u (.ofSteers (SteersAt.handleCommandPoint u).steers)) _
  exact (((((((h₁.trans h₂).trans h₃).trans h₄).trans h₅).trans h₆).trans h₇).trans h₈).trans (.whenDue _ (.drained _))

/-! ### The stores -/

/-- From `s` to `t` the clock and what the host has stored stand, the links apart. -/
structure Stored (s t : State) : Prop where
  now : t.now = s.now
  interval : t.ctb.beaconInterval = s.ctb.beaconInterval
  pl : t.pl = s.pl
  config : t.config = s.config
  rules : t.er.rules = s.er.rules
  limits : t.oc.limits = s.oc.limits
  policy : t.pm.policy = s.pm.policy
  arterialLimits : t.qw.arterialLimits = s.qw.arterialLimits
  sideLimits : t.qw.sideLimits = s.qw.sideLimits
  earlySlack : t.pt.earlySlack = s.pt.earlySlack
  lateSlack : t.pt.lateSlack = s.pt.lateSlack
  minimumSize : t.pt.minimumSize = s.pt.minimumSize
  table : t.ps.table = s.ps.table
  pollRound : t.clc.pollRound = s.clc.pollRound
  sli : { t.sli with draining := false, sending := none, notices := [], overrun := 0 } =
    { s.sli with draining := false, sending := none, notices := [], overrun := 0 }

namespace Stored

theorem rfl' (s : State) : Stored s s := by constructor <;> rfl

theorem trans {a b c : State} (h : Stored a b) (g : Stored b c) : Stored a c :=
  ⟨g.now.trans h.now, g.interval.trans h.interval, g.pl.trans h.pl, g.config.trans h.config, g.rules.trans h.rules,
    g.limits.trans h.limits, g.policy.trans h.policy, g.arterialLimits.trans h.arterialLimits,
    g.sideLimits.trans h.sideLimits, g.earlySlack.trans h.earlySlack, g.lateSlack.trans h.lateSlack,
    g.minimumSize.trans h.minimumSize, g.table.trans h.table, g.pollRound.trans h.pollRound, g.sli.trans h.sli⟩

theorem ofLeaves {s t : State} (h : LeavesStores s t) : Stored s t :=
  ⟨congrArg TimeBase.runningTime h.ctb, congrArg TimeBase.beaconInterval h.ctb, h.pl, h.config, h.rules, h.limits, h.policy,
    h.arterialLimits, h.sideLimits, h.earlySlack, h.lateSlack, h.minimumSize, h.table, h.pollRound, h.sli⟩

theorem ofMoves {rt st : Bool} {s t : State} (h : Moves rt st s t) : Stored s t := ofLeaves h.leavesStores

theorem deadlineOn (s : State) : Stored s (deadlineOn s) := by constructor <;> rfl

theorem finish (s : State) : Stored s (finish s) := ofMoves (Moves.finish (rt := true) (.refl _))

/-- The selector's stage of a mark. -/
theorem opened (s : State) : Stored s (opened s) := by
  obtain ⟨oc, pt, pm, pl, er, config, -, clc, qw, sli, clock, ps⟩ := opened_leaves s
  constructor
  · exact (congrArg TimeBase.runningTime clock :)
  · rw [clock]
  · exact pl
  · exact config
  · rw [er]
  · rw [oc]
  · rw [pm]
  · rw [qw]
  · rw [qw]
  · rw [pt]
  · rw [pt]
  · rw [pt]
  · rw [ps]
    exact (selectAtMark_selects s).table
  · rw [clc]
  · exact (congrArg (fun x : Supervisory => { x with draining := false, sending := none }) sli :)

theorem markEvent (s : State) : Stored s (markEvent s) := by
  obtain ⟨v, begun, ended⟩ := cycleMark_parts s
  unfold Machine.markEvent whenDue
  split
  · exact ((((opened s).trans (ofMoves begun)).trans (deadlineOn v)).trans (ofMoves ended)).trans (finish _)
  · exact rfl' s

theorem beaconEvent (s : State) : Stored s (beaconEvent s) := by
  unfold Machine.beaconEvent whenDue
  split
  · exact ((deadlineOn s).trans (ofMoves (beaconRound_moves s))).trans (finish _)
  · exact rfl' s

theorem catchUp (s : State) : Stored s (catchUp s) :=
  ((markEvent s).trans (beaconEvent _)).trans (ofMoves (catchUp_moves s))

end Stored

/-! ### The mark -/

theorem markEvent_early {s : State} (early : elapsed s.now s.ctb.anchor ≠ s.ctb.cycleLength) : markEvent s = s :=
  if_neg (fun due => early (beq_iff_eq.1 due))

theorem markEvent_links (s : State) (l : Link) : setting ((markEvent s).link l) = setting (s.link l) := by
  by_cases due : elapsed s.now s.ctb.anchor = s.ctb.cycleLength
  · obtain ⟨-, -, -, pt, -⟩ := markEvent_marks due
    obtain ⟨-, same, -⟩ := opened_leaves s
    refine congrArg setting (link_congr ?_ ?_ l)
    · rw [pt, same]
    · rw [pt, same]
  · rw [markEvent_early due]

theorem markEvent_setting {s : State} (h : s.ps.requested = none) :
    (markEvent s).ps.persistenceSetting = s.ps.persistenceSetting := by
  by_cases due : elapsed s.now s.ctb.anchor = s.ctb.cycleLength
  · rw [SelectionMarks.execCycleMark_ps s due]
    exact (marked_unrequested h).2
  · rw [markEvent_early due]

/-- Settles O10. -/
theorem tickAdvancesClocks : Obligations.TickAdvancesClocks := by
  unfold Obligations.TickAdvancesClocks
  intro s waits
  have undue : partResetDue s = false := by
    unfold partResetDue Library.writing
    rcases waits with reset | slot | write
    · rw [reset]
      rfl
    · cases held : s.sli.replySlot with
      | none => exact absurd held slot
      | some _ => simp
    · simp [write]
  have ticks : tick s = advanceClocks s.ctb (catchUp s) := by
    unfold tick
    rw [undue]
    exact if_neg Bool.false_ne_true
  have stored := Stored.catchUp s
  have kept := catchUp_settings s
  refine ⟨advanceClocks s.ctb (catchUp s), congrArg Host.Outcome.next ticks, ?_⟩
  generalize catchUp s = u at stored kept ⊢
  have links (l : Link) : setting (u.link l) = setting (s.link l) := (kept.links l).trans (markEvent_links s l)
  exact ⟨rfl, rfl, stored.interval, stored.pl, stored.config, stored.rules, stored.limits, stored.policy,
    stored.arterialLimits, stored.sideLimits, stored.earlySlack, stored.lateSlack, stored.minimumSize, stored.table,
    stored.pollRound, fun l => ⟨congrArg (fun x => x.1) (links l), congrArg (fun x => x.2.1) (links l),
      congrArg (fun x => x.2.2.1) (links l), congrArg (fun x => x.2.2.2) (links l)⟩,
    fun none' => (congrArg Selector.persistenceSetting kept.selector).trans (markEvent_setting none'),
    (congrArg Supervisory.supRate stored.sli :), (congrArg Supervisory.corRate stored.sli :),
    (congrArg Supervisory.mode stored.sli :), (congrArg Supervisory.replySlot stored.sli :),
    (congrArg Supervisory.enabled stored.sli :)⟩

end Sys2Proof.Proofs.Deciseconds
end

section
/-! PROOF. A STATUS that carries event records: what routing a record leaves, and the way through the reply (used by O43 to O49);
the routing itself (O43). -/

open Sys2Proof Sys2Proof.Machine

namespace Sys2Proof.Proofs.Records

open Answers Roads Coordination StatusReplies Reports Links

/-! ### A record delivered by the rule table -/

/-- From `s` to `t` a record has been delivered: the Platoon Tracker, Queue Watch, the Plan Selector and the notices apart, nothing
differs. -/
structure Delivered (s t : State) : Prop where
  pending : t.pending = s.pending
  ctb : t.ctb = s.ctb
  oc : t.oc = s.oc
  pm : t.pm = s.pm
  pl : t.pl = s.pl
  clc : t.clc = s.clc
  ih : t.ih = s.ih
  er : t.er = s.er
  config : t.config = s.config
  sli : { t.sli with notices := [], overrun := 0 } = { s.sli with notices := [], overrun := 0 }

namespace Delivered

theorem rfl' (s : State) : Delivered s s := by constructor <;> rfl

theorem trans {a b c : State} (h : Delivered a b) (g : Delivered b c) : Delivered a c :=
  ⟨g.pending.trans h.pending, g.ctb.trans h.ctb, g.oc.trans h.oc, g.pm.trans h.pm, g.pl.trans h.pl, g.clc.trans h.clc,
    g.ih.trans h.ih, g.er.trans h.er, g.config.trans h.config, g.sli.trans h.sli⟩

theorem ofBeside {s t : State} (h : Beside s t) : Delivered s t :=
  ⟨h.pending, h.ctb, h.oc, h.pm, h.pl, h.clc, h.ih, h.er, h.config, h.sli⟩

theorem now {s t : State} (h : Delivered s t) : t.now = s.now := congrArg TimeBase.runningTime h.ctb

theorem isLive {s t : State} (h : Delivered s t) : t.isLive = s.isLive := by
  unfold State.isLive
  rw [(congrArg Supervisory.mode h.sli :)]

theorem coord {s t : State} (h : Delivered s t) (p : Pos) : t.coord p = s.coord p :=
  congrArg (fun oc : Coordinator => oc.positions.get p) h.oc

theorem health {s t : State} (h : Delivered s t) (p : Pos) : t.health p = s.health p :=
  congrArg (fun ih : Machine.Identification => ih.health.get p) h.ih

end Delivered

/-! #### The Platoon Tracker -/

theorem holdPlatoon_only (l : Link) (x : Platoon) (s : State) : TrackerOnly s (holdPlatoon l x s) :=
  (TrackerOnly.withLink s l _).trans (.ofTracker _ _)

theorem displaceOldest_only (l : Link) (s : State) : TrackerOnly s (displaceOldest l s) := by
  unfold displaceOldest
  split
  · exact .rfl' s
  · exact (TrackerOnly.withLink s l _).trans (.freeRecords _ _)

theorem placePlatoon_only (l : Link) (x : Platoon) (s : State) : TrackerOnly s (placePlatoon l x s) := by
  unfold placePlatoon
  dsimp only
  split
  · split
    · exact .rfl' s
    · exact (displaceOldest_only l s).trans (holdPlatoon_only l x _)
  · split
    · split
      · exact .rfl' s
      · exact (TrackerOnly.ofTracker s _).trans (.raiseNotice _ _)
    · exact holdPlatoon_only l x s

theorem takeDeparture_only (p : Pos) (d : EventDirection) (duration size : Nat) (t : Time) (s : State) :
    TrackerOnly s (takeDeparture p d duration size t s) := by
  unfold takeDeparture
  split
  · exact .rfl' s
  · dsimp only
    split
    · split
      · exact placePlatoon_only _ _ s
      · exact .rfl' s
    · exact .rfl' s

theorem offerError_only (l : Link) (t : Time) (s : State) : TrackerOnly s (offerError l t s) := by
  unfold offerError
  dsimp only
  split
  · exact .rfl' s
  · split
    · exact .ofTracker s _
    · exact .rfl' s

/-- The link of a match, its record removed. -/
def matched (l : Link) (x : Platoon) (s : State) : State :=
  freeRecords 1 (s.withLink l (fun r => { r with queue := removePlatoon x.number r.queue, lost := 0, tracked := true }))

/-- The link of a match, tracked again with its notice. -/
def retracked (l : Link) (x : Platoon) (s : State) : State :=
  if (s.link l).tracked then matched l x s else noteTracking l (matched l x s)

/-- The link of a match, its estimate moved. -/
def reestimated (l : Link) (x : Platoon) (t : Time) (s : State) : State :=
  if (s.health (downstreamEnd l)).state = .sound then
    s.withLink l (fun r => { r with estimate := clampNat 50 1200 (moveToward r.estimate (elapsed t x.head) 4) })
  else s

theorem matchPlatoon_eq (l : Link) (x : Platoon) (t : Time) (s : State) :
    matchPlatoon l x t s = offerError l t (reestimated l x t (retracked l x s)) := rfl

theorem matched_only (l : Link) (x : Platoon) (s : State) : TrackerOnly s (matched l x s) :=
  (TrackerOnly.withLink s l _).trans (.freeRecords _ _)

theorem retracked_only (l : Link) (x : Platoon) (s : State) : TrackerOnly s (retracked l x s) := by
  unfold retracked
  split
  · exact matched_only l x s
  · exact (matched_only l x s).trans (.noteTracking l _)

theorem reestimated_only (l : Link) (x : Platoon) (t : Time) (s : State) : TrackerOnly s (reestimated l x t s) := by
  unfold reestimated
  split
  · exact .withLink s l _
  · exact .rfl' s

theorem takeArrival_only (p : Pos) (d : EventDirection) (t : Time) (s : State) : TrackerOnly s (takeArrival p d t s) := by
  unfold takeArrival
  split
  · exact .rfl' s
  · split
    · exact .rfl' s
    · rw [matchPlatoon_eq]
      exact ((retracked_only _ _ s).trans (reestimated_only _ _ _ _)).trans (offerError_only _ _ _)

theorem takePlatoonRecord_only (p : Pos) (tag : Nat) (d : EventDirection) (value extra : Nat) (t : Time) (s : State) :
    TrackerOnly s (takePlatoonRecord p tag d value extra t s) := by
  unfold takePlatoonRecord
  split
  · exact takeDeparture_only p d value extra t s
  · exact takeArrival_only p d t s
  · exact .rfl' s

/-! #### Queue Watch and the Plan Selector -/

theorem changeApproach_beside (p : Pos) (a : Approach) (r : ApproachRecord) (s : State) : Beside s (changeApproach p a r s) := by
  have changed : Beside s (s.withApproach p a r) := .watch s _
  unfold changeApproach
  dsimp only
  split
  · exact changed
  · exact (changed.trans (.raiseNotice _ _)).trans (.settleGridlock _)

theorem changeApproach_pt (p : Pos) (a : Approach) (r : ApproachRecord) (s : State) : (changeApproach p a r s).pt = s.pt := by
  unfold changeApproach
  dsimp only
  split
  · rfl
  · exact (Clearing.settleGridlock_approaches _).2

theorem takeSample_beside (p : Pos) (tag : Nat) (d : EventDirection) (value : Nat) (t : Time) (s : State) :
    Beside s (takeSample p tag d value t s) ∧ (takeSample p tag d value t s).pt = s.pt := by
  unfold takeSample
  split
  · exact ⟨.rfl' s, rfl⟩
  · split
    · exact ⟨changeApproach_beside _ _ _ s, changeApproach_pt _ _ _ s⟩
    · exact ⟨.rfl' s, rfl⟩

theorem takeCount_only (tag : Nat) (d : EventDirection) (value : Nat) (s : State) :
    Delivered s (takeCount tag d value s) ∧ (takeCount tag d value s).pt = s.pt ∧ (takeCount tag d value s).qw = s.qw := by
  unfold takeCount
  split
  · cases d <;> exact ⟨by constructor <;> rfl, rfl, rfl⟩
  · exact ⟨.rfl' s, rfl, rfl⟩

/-! #### The delivery, destination by destination -/

/-- The part when the Platoon Tracker has had the record. -/
def platooned (p : Pos) (r : Rule) (w : WellFormedRecord) (t : Time) (s : State) : State :=
  if r.destinations.platoon then takePlatoonRecord p r.tag w.direction w.record.value w.record.extra t s else s

/-- The part when Queue Watch has had it. -/
def watched (p : Pos) (r : Rule) (w : WellFormedRecord) (t : Time) (s : State) : State :=
  if r.destinations.queue then takeSample p r.tag w.direction w.record.value t s else s

/-- The part when the Plan Selector has had it. -/
def counted (r : Rule) (w : WellFormedRecord) (s : State) : State :=
  if r.destinations.demand then takeCount r.tag w.direction w.record.value s else s

/-- The part when the host has been told. -/
def told (p : Pos) (i : RuleIx) (r : Rule) (w : WellFormedRecord) (t : Time) (s : State) : State :=
  if r.destinations.notice then raiseNotice (.detectorEvent p (some (i, r.tag)) (reportOf w t)) s else s

theorem deliver_eq (p : Pos) (i : RuleIx) (r : Rule) (w : WellFormedRecord) (t : Time) (s : State) :
    deliver p i r w t s = told p i r w t (counted r w (watched p r w t (platooned p r w t s))) := rfl

theorem platooned_only (p : Pos) (r : Rule) (w : WellFormedRecord) (t : Time) (s : State) : TrackerOnly s (platooned p r w t s) := by
  unfold platooned
  split
  · exact takePlatoonRecord_only _ _ _ _ _ _ s
  · exact .rfl' s

theorem watched_beside (p : Pos) (r : Rule) (w : WellFormedRecord) (t : Time) (s : State) :
    Beside s (watched p r w t s) ∧ (watched p r w t s).pt = s.pt := by
  unfold watched
  split
  · exact takeSample_beside _ _ _ _ _ s
  · exact ⟨.rfl' s, rfl⟩

theorem counted_only (r : Rule) (w : WellFormedRecord) (s : State) :
    Delivered s (counted r w s) ∧ (counted r w s).pt = s.pt ∧ (counted r w s).qw = s.qw := by
  unfold counted
  split
  · exact takeCount_only _ _ _ s
  · exact ⟨.rfl' s, rfl, rfl⟩

theorem told_only (p : Pos) (i : RuleIx) (r : Rule) (w : WellFormedRecord) (t : Time) (s : State) :
    Beside s (told p i r w t s) ∧ (told p i r w t s).pt = s.pt ∧ (told p i r w t s).qw = s.qw := by
  unfold told
  split
  · exact ⟨.raiseNotice _ s, rfl, rfl⟩
  · exact ⟨.rfl' s, rfl, rfl⟩

theorem deliver_delivered (p : Pos) (i : RuleIx) (r : Rule) (w : WellFormedRecord) (t : Time) (s : State) :
    Delivered s (deliver p i r w t s) := by
  rw [deliver_eq]
  exact (((Delivered.ofBeside (.ofTracker (platooned_only p r w t s))).trans (.ofBeside (watched_beside p r w t _).1)).trans
    (counted_only r w _).1).trans (.ofBeside (told_only p i r w t _).1)

/-! ### A record of the Priority Manager -/

/-- From `s` to `t` the Priority Manager has acted: the coordination records, its own state, the queue, the retry deadlines and the
notices apart, nothing differs. -/
structure Managed (s t : State) : Prop where
  pending : t.pending = s.pending
  ctb : t.ctb = s.ctb
  limits : t.oc.limits = s.oc.limits
  pt : t.pt = s.pt
  qw : t.qw = s.qw
  pl : t.pl = s.pl
  ps : t.ps = s.ps
  er : t.er = s.er
  config : t.config = s.config
  policy : t.pm.policy = s.pm.policy
  accepted : t.clc.accepted = s.clc.accepted
  outcomes : LeavesOutcomes s t
  sli : { t.sli with notices := [], overrun := 0 } = { s.sli with notices := [], overrun := 0 }
  ident : ∀ q, { t.ident q with retry := none } = { s.ident q with retry := none }

/-! #### The forming of a route (R86) -/

/-- The route length of a position, 0 where none is configured. -/
def lengthAt (s : State) (k : Pos) : Nat :=
  match s.config.get k with
  | none => 0
  | some cfg => cfg.routeLength

/-- The candidates that pass, the nearest first. -/
def candidates (s : State) (k : Pos) (way : Direction) : List Pos :=
  (ahead way (lengthAt s k) k).takeWhile (candidateOk s k)

/-- The part when a route has joined the table. -/
def enrolled (k : Pos) (way : Direction) (members : List Pos) (s : State) : State :=
  { s with pm := { s.pm with
      routes := s.pm.routes ++ [
        { ref := { origin := k, serial := s.pm.nextSerial }, direction := way,
          members := members.map (fun p => { position := p, held := false }), start := s.now,
          deadline := later s.now s.pm.policy.routeTimeout }],
      nextSerial := s.pm.nextSerial + 1 } }

/-- The part when every member of the new route is owned by it. -/
def owned (k : Pos) (way : Direction) (members : List Pos) (s : State) : State :=
  members.foldl (fun s p => setOwner p (.route k) s) (enrolled k way members s)

theorem formRoute_toward (k : Pos) (way : Direction) (s : State) :
    formRoute k (toEvent way) s =
      if lengthAt s k = 0 then (s, .noneRequested)
      else if (candidates s k way).isEmpty then (s, .noMembers)
      else if s.pm.routes.length ≥ Config.routeCapacity then (s, .tableFull)
      else (offerClears { origin := k, serial := s.pm.nextSerial } way s.pm.policy.routeTimeout (candidates s k way)
        (owned k way (candidates s k way) s), .formed (candidates s k way)) := by
  cases way <;> rfl

theorem formRoute_nowhere {k : Pos} {d : EventDirection} (h : ∀ way, d ≠ toEvent way) (s : State) :
    formRoute k d s = (s, .noneRequested) := by
  cases d with
  | inbound => exact absurd rfl (h .inbound)
  | outbound => exact absurd rfl (h .outbound)
  | none => rfl

namespace Managed

theorem rfl' (s : State) : Managed s s := by constructor <;> first | rfl | exact .rfl' s | exact fun _ => rfl

theorem trans {a b c : State} (h : Managed a b) (g : Managed b c) : Managed a c :=
  ⟨g.pending.trans h.pending, g.ctb.trans h.ctb, g.limits.trans h.limits, g.pt.trans h.pt, g.qw.trans h.qw, g.pl.trans h.pl,
    g.ps.trans h.ps, g.er.trans h.er, g.config.trans h.config, g.policy.trans h.policy, g.accepted.trans h.accepted,
    h.outcomes.trans g.outcomes, g.sli.trans h.sli, fun q => (g.ident q).trans (h.ident q)⟩

theorem ofRoad {A : Pos → Prop} {C : LineCommand → Prop} {s t : State} (h : Road false A C s t) : Managed s t :=
  ⟨h.pending, h.ctb, h.limits, h.pt rfl, h.qw rfl, h.pl, h.ps, h.er, h.config, h.policy, h.accepted, h.outcomes, h.sli, h.ident⟩

theorem manager (s : State) (pm : Priority) (policy : pm.policy = s.pm.policy) : Managed s { s with pm := pm } := by
  constructor <;> first | rfl | exact policy | exact fun _ => rfl | constructor <;> rfl

theorem coordinator (s : State) (oc : Coordinator) (limits : oc.limits = s.oc.limits) : Managed s { s with oc := oc } := by
  constructor <;> first | rfl | exact limits | exact fun _ => rfl | constructor <;> rfl

theorem withCoord (s : State) (p : Pos) (f : Coord → Coord) : Managed s (s.withCoord p f) := coordinator s _ rfl

theorem withBudget (s : State) (p : Pos) (n : Nat) : Managed s (s.withBudget p n) := manager s _ rfl

theorem raiseNotice (body : NoticeBody) (s : State) : Managed s (raiseNotice body s) :=
  ofRoad (Road.raiseNotice (A := fun _ => True) (C := fun _ => True) body s)

theorem offerTo (c : LineCommand) (p : Pos) (route : Option RouteRef) (s : State) : Managed s (offerTo c p route s).1 :=
  ofRoad (Road.offerTo (A := fun _ => True) (C := fun _ => True) trivial trivial route s)

theorem setOwner (p : Pos) (o : Owner) (s : State) : Managed s (setOwner p o s) :=
  ofRoad (Road.setOwner (A := fun _ => True) (C := fun _ => True) trivial (fun _ => trivial) s)

theorem withRoutes (s : State) (f : List Route → List Route) : Managed s (s.withRoutes f) := manager s _ rfl

theorem leaveRoute (p : Pos) (s : State) : Managed s (leaveRoute p s) := withRoutes s _

theorem withdraw (w : QueueEntry → Bool) (s : State) : Managed s (withdraw w s) :=
  ofRoad (Road.withdraw (A := fun _ => True) (C := fun _ => True) w s)

theorem sendEnd (p : Pos) (ref : RouteRef) (s : State) : Managed s (sendEnd p ref s).1 :=
  ofRoad (Road.sendEnd (A := fun _ => True) (C := fun _ => True) trivial trivial trivial ref s)

theorem endRouteFrom (p : Pos) (s : State) : Managed s (endRouteFrom p s).1 :=
  ofRoad (Road.endRouteFrom (A := fun _ => True) (C := fun _ => True) (fun _ _ _ _ => trivial) trivial trivial)

theorem endCall (p : Pos) (cause : EndCause) (s : State) : Managed s (endCall p cause s) :=
  ofRoad (Road.endCall (A := fun _ => True) (C := fun _ => True) trivial (fun _ _ _ _ => trivial) trivial trivial cause)

theorem foldl {α : Type} {f : State → α → State} (hf : ∀ u x, Managed u (f u x)) (l : List α) (s : State) :
    Managed s (l.foldl f s) := by
  induction l generalizing s with
  | nil => exact rfl' s
  | cons x l ih => exact (hf s x).trans (ih _)

theorem offerClears (ref : RouteRef) (d : Direction) (hold : Nat) (members : List Pos) (s : State) :
    Managed s (offerClears ref d hold members s) := by
  induction members generalizing s with
  | nil => exact rfl' s
  | cons p rest ih =>
    unfold Machine.offerClears
    dsimp only
    split
    · exact (offerTo _ p _ s).trans (ih _)
    · exact (offerTo _ p _ s).trans (foldl (fun u q => (leaveRoute q u).trans (setOwner q _ _)) _ _)

theorem formRoute (k : Pos) (d : EventDirection) (s : State) : Managed s (formRoute k d s).1 := by
  by_cases toward : ∃ way, d = toEvent way
  · obtain ⟨way, rfl⟩ := toward
    rw [formRoute_toward]
    split
    · exact rfl' s
    · split
      · exact rfl' s
      · split
        · exact rfl' s
        · have start : Managed s (enrolled k way (candidates s k way) s) := manager s _ rfl
          exact (start.trans (foldl (fun u p => setOwner p (.route k) u) _ _)).trans (offerClears _ _ _ _ _)
  · rw [formRoute_nowhere (fun way is => toward ⟨way, is⟩)]
    exact rfl' s

theorem preemptCall (k : Pos) (d : EventDirection) (s : State) : Managed s (preemptCall k d s) := by
  have left : Managed s (withdrawClear k (Machine.leaveRoute k s)) := (leaveRoute k s).trans (withdraw _ _)
  have ended (u : State) : Managed u (if u.pm.releasePending k then withdrawEnd k u else u) := by
    split
    · exact withdraw _ u
    · exact rfl' u
  unfold Machine.preemptCall
  split
  · exact ((((left.trans (ended _)).trans (endRouteFrom k _)).trans (setOwner k _ _)).trans (formRoute k d _)).trans
      (raiseNotice _ _)
  · exact rfl' s

theorem preemptClear (k : Pos) (s : State) : Managed s (preemptClear k s) := by
  unfold Machine.preemptClear
  split
  · exact endCall k _ s
  · exact rfl' s

theorem unitFault (k : Pos) (s : State) : Managed s (unitFault k s) := by
  have raised : Managed s (if s.budget k < s.pm.policy.recovery then s.withBudget k s.pm.policy.recovery else s) := by
    split
    · exact manager s _ rfl
    · exact rfl' s
  unfold Machine.unitFault
  split
  · dsimp only
    split
    · exact raised
    · exact (raised.trans (leaveRoute k _)).trans (sendEnd k _ _)
  · exact rfl' s

theorem transitCall (k : Pos) (d : EventDirection) (arrival extra : Nat) (s : State) :
    Managed s (transitCall k d arrival extra s) := by
  have granted (u : State) (extension : Nat) : Managed u
      ((u.withCoord k (fun c => { c with grant := some extension })).withBudget k u.pm.policy.recovery) :=
    (withCoord u k _).trans (withBudget _ k _)
  unfold Machine.transitCall
  split
  · dsimp only
    refine Managed.trans ?_ (raiseNotice _ _)
    cases denial s k with
    | some reason => exact offerTo _ k none s
    | none =>
      dsimp only
      split
      · exact (offerTo _ k none s).trans (granted _ _)
      · exact offerTo _ k none s
  · exact rfl' s

theorem judgePreempting (k : Pos) (flag : Bool) (s : State) : Managed s (judgePreempting k flag s) :=
  ofRoad (Road.judgePreempting (A := fun _ => True) trivial (fun _ _ _ _ => trivial) flag)

theorem followField (p : Pos) (flag : Bool) (s : State) : Managed s (followField p flag s) :=
  ofRoad (Road.followField (A := fun _ => True) trivial flag s)

theorem ofCoordAt {p : Pos} {s t : State} (h : CoordAt p s t) (trim : (t.coord p).trim = (s.coord p).trim) : Managed s t :=
  ofRoad (Road.ofCoordAt (A := fun _ => True) (C := fun _ => True) trivial h trim)

end Managed

/-! ### The routing of a record (R160 to R162) -/

/-- The count of a record that was read: the fixed route, a rule, or none. -/
def routedTo (p : Pos) (r : EventRecord) (er : Router) : Router :=
  match readRecord r with
  | none => { er with noMatch := saturate Config.countLimit (er.noMatch + 1) }
  | some w =>
    if fixedRoute w.kind then { er with fixedCount := saturate Config.countLimit (er.fixedCount + 1) }
    else
      match er.firstMatch p w with
      | none => { er with noMatch := saturate Config.countLimit (er.noMatch + 1) }
      | some (i, _) => { er with hits := update er.hits i (fun n => saturate Config.countLimit (n + 1)) }

/-- A record that was routed: its count, the Priority Manager's doing or the deliveries, and nothing else. -/
theorem takeFixed_managed (p : Pos) (w : WellFormedRecord) (t : Time) (s : State) :
    Managed { s with er := { s.er with fixedCount := saturate Config.countLimit (s.er.fixedCount + 1) } } (takeFixed p w t s) := by
  unfold takeFixed
  dsimp only
  split
  · exact .preemptCall p _ _
  · exact .preemptClear p _
  · exact .transitCall p _ _ _ _
  · exact (Managed.unitFault p _).trans (.raiseNotice _ _)
  · exact .rfl' _

theorem routeRecord_er (p : Pos) (r : EventRecord) (s : State) :
    (routeRecord p r s).er = routedTo p r s.er ∧ (routeRecord p r s).clc.accepted = s.clc.accepted := by
  unfold routeRecord routedTo
  cases readRecord r with
  | none => exact ⟨rfl, rfl⟩
  | some w =>
    dsimp only
    split
    · have fixed := takeFixed_managed p w (eventTime s.now r) s
      exact ⟨fixed.er, fixed.accepted⟩
    · cases s.er.firstMatch p w with
      | none => exact ⟨rfl, rfl⟩
      | some found =>
        have delivered := deliver_delivered p found.1 found.2 w (eventTime s.now r) (countHit found.1 s)
        exact ⟨delivered.er, congrArg LineController.accepted delivered.clc⟩

/-! ### The records of a STATUS (R133, R134) -/

/-- A STATUS with a known stage that answers a poll, from the state `u` in which only the exchange has ended. -/
theorem exec_status_records {p : Pos} {x : Exchange} {reply : StatusFields} {s : State} (polled : Polled s x p)
    (stage : (stageOf reply.stage).isSome = true) (few : reply.records.length ≤ 8) :
    ∃ u, Good p s u ∧ exec (.status x.address reply) s = .next (finish (takeStatus p reply u)) ∧
      LeavesStores s (finish (takeStatus p reply u)) := by
  obtain ⟨known, hk⟩ := Option.isSome_iff_exists.1 stage
  have run := exec_status_polled polled hk few
  exact ⟨_, beforeStatus_good reply known polled.score, run,
    Host.Outcome.next.inj run ▸ (status_moves x.address reply s).leavesStores⟩

theorem takeStatus_eq (p : Pos) (reply : StatusFields) (s : State) :
    takeStatus p reply s =
      let r := takeRecords p reply.records (followField p (bit reply.flags 0) s)
      let w := Machine.judgePreempting p (bit reply.flags 1) r.1
      if r.2 then Machine.measure p reply.localPosition reply.localLength w else w := rfl

/-- The steps of a STATUS after its records leave what the Priority Manager and a measurement leave. -/
theorem takeStatus_managed (p : Pos) (reply : StatusFields) (s : State) :
    Managed (takeRecords p reply.records (followField p (bit reply.flags 0) s)).1 (takeStatus p reply s) := by
  rw [takeStatus_eq]
  dsimp only
  have judged := Managed.judgePreempting p (bit reply.flags 1)
    (takeRecords p reply.records (followField p (bit reply.flags 0) s)).1
  split
  · obtain ⟨state, measured, settle, eq⟩ := measure_rest p reply.localPosition reply.localLength
      (Machine.judgePreempting p (bit reply.flags 1) (takeRecords p reply.records (followField p (bit reply.flags 0) s)).1)
    exact judged.trans (.ofCoordAt (CoordAt.measure p _ _ _) (by rw [eq]))
  · exact judged

/-- The routing of records in turn. -/
theorem takeRecords_eq (p : Pos) (records : List EventRecord) (s : State) :
    ∃ flag, takeRecords p records s =
      match (newRecords (s.clc.accepted.get p) records).getLast? with
      | none => ((newRecords (s.clc.accepted.get p) records).foldl (fun u r => routeRecord p r u) s, flag)
      | some x =>
        ({ (newRecords (s.clc.accepted.get p) records).foldl (fun u r => routeRecord p r u) s with
           clc := { ((newRecords (s.clc.accepted.get p) records).foldl (fun u r => routeRecord p r u) s).clc with
             accepted := ((newRecords (s.clc.accepted.get p) records).foldl (fun u r => routeRecord p r u) s).clc.accepted.set
               p.val (some x.sequence) } }, flag) := by
  have routed (new : List EventRecord) (acc : State × Bool) :
      ∃ flag, new.foldl (takeRecord p) acc = (new.foldl (fun u r => routeRecord p r u) acc.1, flag) := by
    induction new generalizing acc with
    | nil => exact ⟨acc.2, rfl⟩
    | cons r new ih => exact ih (takeRecord p acc r)
  obtain ⟨flag, eq⟩ := routed (newRecords (s.clc.accepted.get p) records) (s, steered (s.coord p).state)
  unfold takeRecords
  dsimp only
  rw [eq]
  refine ⟨flag, ?_⟩
  cases (newRecords (s.clc.accepted.get p) records).getLast? <;> rfl

theorem routed_accepted (p : Pos) (new : List EventRecord) (s : State) :
    (new.foldl (fun u r => routeRecord p r u) s).clc.accepted = s.clc.accepted := by
  induction new generalizing s with
  | nil => rfl
  | cons r new ih => exact (ih _).trans (routeRecord_er p r s).2

/-- The accepted number after a STATUS follows the last of its new records. -/
theorem takeStatus_accepted (p : Pos) (reply : StatusFields) {s u : State} (good : Good p s u) :
    (finish (takeStatus p reply u)).clc.accepted =
      match (newRecords (s.clc.accepted.get p) reply.records).getLast? with
      | none => s.clc.accepted
      | some x => s.clc.accepted.set p.val (some x.sequence) := by
  have settled : (finish (takeStatus p reply u)).clc.accepted = (takeStatus p reply u).clc.accepted :=
    (congrArg LineController.accepted (settles_finish (takeStatus p reply u)).clc :)
  have field : (followField p (bit reply.flags 0) u).clc.accepted = s.clc.accepted :=
    (Managed.followField p _ u).accepted.trans good.accepted
  obtain ⟨flag, eq⟩ := takeRecords_eq p reply.records (followField p (bit reply.flags 0) u)
  rw [settled, (takeStatus_managed p reply u).accepted, eq, field]
  cases (newRecords (s.clc.accepted.get p) reply.records).getLast? with
  | none => exact (routed_accepted p _ _).trans field
  | some x =>
    exact congrArg (fun v : Vector (Option Nat) 12 => v.set p.val (some x.sequence)) ((routed_accepted p _ _).trans field)

/-! ### The obligation on routing -/

theorem recordKindOf_outside {n : Nat} (h : 8 < n) : recordKindOf n = none := by
  unfold recordKindOf
  split <;> first | omega | rfl

theorem recordKindOf_inside {n : Nat} (h : n ≤ 8) :
    ∃ kind, recordKindOf n = some kind ∧ (fixedRoute kind = true ↔ 5 ≤ n) := by
  interval_cases n <;> exact ⟨_, rfl, by decide⟩

theorem eventDirectionOf_outside {n : Nat} (h : 2 < n) : eventDirectionOf n = none := by
  unfold eventDirectionOf
  split <;> first | omega | rfl

theorem eventDirectionOf_inside {n : Nat} (h : n ≤ 2) : ∃ d, eventDirectionOf n = some d := by
  interval_cases n <;> exact ⟨_, rfl⟩

theorem readRecord_malformed {r : EventRecord} (h : 8 < r.kind ∨ 2 < r.direction ∨ r.detector = 0 ∨ 32 < r.detector) :
    readRecord r = none := by
  unfold readRecord
  by_cases kind : 8 < r.kind
  · rw [recordKindOf_outside kind]
  · obtain ⟨k, hk, -⟩ := recordKindOf_inside (not_lt.1 kind)
    rw [hk]
    by_cases way : 2 < r.direction
    · rw [eventDirectionOf_outside way]
    · obtain ⟨d, hd⟩ := eventDirectionOf_inside (not_lt.1 way)
      rw [hd]
      refine if_neg (fun inside => ?_)
      unfold inRange at inside
      simp only [Bool.and_eq_true, decide_eq_true_eq] at inside
      omega

theorem readRecord_formed {r : EventRecord} (h : ¬ (8 < r.kind ∨ 2 < r.direction ∨ r.detector = 0 ∨ 32 < r.detector)) :
    ∃ kind d, recordKindOf r.kind = some kind ∧ eventDirectionOf r.direction = some d ∧ (fixedRoute kind = true ↔ 5 ≤ r.kind) ∧
      readRecord r = some { kind := kind, direction := d, record := r } := by
  obtain ⟨k, hk, fixed⟩ := recordKindOf_inside (n := r.kind) (by omega)
  obtain ⟨d, hd⟩ := eventDirectionOf_inside (n := r.direction) (by omega)
  refine ⟨k, d, hk, hd, fixed, ?_⟩
  unfold readRecord
  rw [hk, hd]
  refine if_pos ?_
  unfold inRange
  simp only [Bool.and_eq_true, decide_eq_true_eq]
  omega

/-- A rule matches a well-formed record (R162). -/
theorem matches_iff (rule : Rule) (p : Pos) {r : EventRecord} {kind : RecordKind} {d : EventDirection}
    (hk : recordKindOf r.kind = some kind) (hd : eventDirectionOf r.direction = some d) :
    rule.matches p { kind := kind, direction := d, record := r } = true ↔
      (rule.kind = none ∨ rule.kind = recordKindOf r.kind) ∧
        (rule.direction = none ∨ rule.direction = eventDirectionOf r.direction) ∧
        rule.detectorLow ≤ r.detector ∧ r.detector ≤ rule.detectorHigh ∧ bit rule.positions p.val = true := by
  unfold Rule.matches inRange
  rw [hk, hd]
  simp only [Bool.and_eq_true, Bool.or_eq_true, beq_iff_eq, decide_eq_true_eq, and_assoc]

/-- The place of a rule that matches. -/
def hitPlace (er : Router) (p : Pos) (w : WellFormedRecord) (i : RuleIx) : Option (RuleIx × Rule) :=
  match er.rules.get i with
  | none => none
  | some r => if r.matches p w then some (i, r) else none

theorem hitPlace_none {er : Router} {p : Pos} {w : WellFormedRecord} {i : RuleIx}
    (h : ∀ rule, er.rules.get i = some rule → rule.matches p w ≠ true) : hitPlace er p w i = none := by
  unfold hitPlace
  cases at' : er.rules.get i with
  | none => rfl
  | some rule => exact if_neg (h rule at')

theorem hitPlace_some {er : Router} {p : Pos} {w : WellFormedRecord} {i : RuleIx} {rule : Rule}
    (at' : er.rules.get i = some rule) (h : rule.matches p w = true) : hitPlace er p w i = some (i, rule) := by
  unfold hitPlace
  rw [at']
  exact if_pos h

theorem firstMatch_eq (er : Router) (p : Pos) (w : WellFormedRecord) :
    er.firstMatch p w = rulePlaces.findSome? (hitPlace er p w) := rfl

theorem mem_rulePlaces : ∀ i : RuleIx, i ∈ rulePlaces := by decide

theorem rulePlaces_ordered : rulePlaces.Pairwise (· < ·) := by decide

/-- One new record raises one count (R160 to R162). -/
theorem routedTo_counts (p : Pos) (r : EventRecord) (er : Router) :
    let malformed := 8 < r.kind ∨ 2 < r.direction ∨ r.detector = 0 ∨ 32 < r.detector
    let hit (i : RuleIx) : Prop := ∃ rule, er.rules.get i = some rule ∧
      (rule.kind = none ∨ rule.kind = recordKindOf r.kind) ∧
      (rule.direction = none ∨ rule.direction = eventDirectionOf r.direction) ∧
      rule.detectorLow ≤ r.detector ∧ r.detector ≤ rule.detectorHigh ∧ bit rule.positions p.val = true
    (malformed → routedTo p r er = { er with noMatch := min 65535 (er.noMatch + 1) }) ∧
    (¬ malformed → 5 ≤ r.kind → routedTo p r er = { er with fixedCount := min 65535 (er.fixedCount + 1) }) ∧
    (¬ malformed → r.kind ≤ 4 → (∀ i, ¬ hit i) → routedTo p r er = { er with noMatch := min 65535 (er.noMatch + 1) }) ∧
    (¬ malformed → r.kind ≤ 4 → ∀ i, hit i → (∀ j, j < i → ¬ hit j) →
      routedTo p r er = { er with hits := er.hits.set i.val (min 65535 (er.hits.get i + 1)) }) := by
  intro malformed hit
  have limit (n : Nat) : saturate Config.countLimit n = min 65535 n := Failures.saturate_eq_min _ _
  unfold routedTo update
  simp only [limit]
  refine ⟨fun bad => ?_, fun formed high => ?_, fun formed low none' => ?_, fun formed low i is first => ?_⟩
  · rw [readRecord_malformed bad]
  · obtain ⟨kind, d, -, -, fixed, read⟩ := readRecord_formed formed
    rw [read]
    exact if_pos (fixed.2 high)
  all_goals
    obtain ⟨kind, d, hk, hd, fixed, read⟩ := readRecord_formed formed
    have loose : ¬ fixedRoute kind = true := fun is => by
      have := fixed.1 is
      omega
    have miss {j : RuleIx} (not : ¬ hit j) : hitPlace er p { kind := kind, direction := d, record := r } j = none :=
      hitPlace_none (fun rule at' matches' => not ⟨rule, at', (matches_iff rule p hk hd).1 matches'⟩)
    rw [read]
    refine (if_neg loose).trans ?_
    rw [firstMatch_eq]
  · rw [List.findSome?_eq_none_iff.2 (fun j _ => miss (none' j))]
  · obtain ⟨rule, at', fits⟩ := is
    rw [SelectorMarks.findSome?_first (hitPlace_some at' ((matches_iff rule p hk hd).2 fits)) (fun j lt => miss (first j lt))
      rulePlaces_ordered (mem_rulePlaces i)]

theorem newRecords_repeats {n : Nat} {records : List EventRecord}
    (h : ∀ r ∈ records, modC ((r.sequence : Int) - n) 256 = 0 ∨ 128 ≤ modC ((r.sequence : Int) - n) 256) :
    newRecords (some n) records = [] := by
  have none : records.filter (fun x => inRange 1 127 (sequenceStep n x)) = [] := by
    refine List.filter_eq_nil_iff.2 (fun r hr is => ?_)
    unfold inRange sequenceStep at is
    simp only [Bool.and_eq_true, decide_eq_true_eq] at is
    rcases h r hr with zero | far <;> omega
  unfold newRecords reference
  dsimp only
  rw [none]
  rfl

theorem newRecords_two {n : Nat} {a b : EventRecord}
    (first : 1 ≤ modC ((a.sequence : Int) - n) 256 ∧ modC ((a.sequence : Int) - n) 256 ≤ 127)
    (second : 1 ≤ modC ((b.sequence : Int) - n) 256 ∧ modC ((b.sequence : Int) - n) 256 ≤ 127) :
    ∃ x, (newRecords (some n) [a, b]).getLast? = some x ∧
      x.sequence = if modC ((a.sequence : Int) - n) 256 < modC ((b.sequence : Int) - n) 256 then b.sequence else a.sequence := by
  have fits (r : EventRecord) (is : 1 ≤ modC ((r.sequence : Int) - n) 256 ∧ modC ((r.sequence : Int) - n) 256 ≤ 127) :
      inRange 1 127 (sequenceStep n r) = true := by
    unfold inRange sequenceStep
    simp only [Bool.and_eq_true, decide_eq_true_eq]
    exact is
  have both : newRecords (some n) [a, b] = placeRecord n b [a] := by
    unfold newRecords reference
    dsimp only
    rw [List.filter_cons_of_pos (p := fun x => inRange 1 127 (sequenceStep n x)) (fits a first),
      List.filter_cons_of_pos (p := fun x => inRange 1 127 (sequenceStep n x)) (fits b second)]
    rfl
  rw [both]
  unfold placeRecord
  by_cases before : sequenceStep n b < sequenceStep n a
  · rw [if_pos before]
    exact ⟨a, rfl, (if_neg (by unfold sequenceStep at before; omega)).symm⟩
  · rw [if_neg before]
    by_cases same : sequenceStep n b = sequenceStep n a
    · rw [if_pos same]
      exact ⟨a, rfl, (if_neg (by unfold sequenceStep at same; omega)).symm⟩
    · rw [if_neg same]
      exact ⟨b, rfl, (if_pos (by unfold sequenceStep at before same; omega)).symm⟩

/-- The router and the selector after a STATUS are those after its records. -/
theorem takeStatus_routed (p : Pos) (reply : StatusFields) (u : State) :
    (finish (takeStatus p reply u)).er = (takeRecords p reply.records (followField p (bit reply.flags 0) u)).1.er ∧
      (finish (takeStatus p reply u)).ps = (takeRecords p reply.records (followField p (bit reply.flags 0) u)).1.ps := by
  have managed := takeStatus_managed p reply u
  have settled := settles_finish (takeStatus p reply u)
  exact ⟨settled.er.trans managed.er, settled.ps.trans managed.ps⟩

/-- Settles O43. -/
theorem recordsAreRouted : Obligations.RecordsAreRouted := by
  unfold Obligations.RecordsAreRouted
  refine ⟨fun p x reply r s h => ?_, fun p x reply n s polled stage few accepted old => ?_,
    fun p x reply a b n s polled stage two accepted => ?_⟩
  · intro malformed hit
    obtain ⟨u, good, run, stores⟩ := exec_status_records h.polled h.stage (by rw [h.one]; exact Nat.le_add_left 1 7)
    have field := Managed.followField p (bit reply.flags 0) u
    have number := takeStatus_accepted p reply good
    rw [h.one, newRecords_one h.new] at number
    have er := (takeStatus_routed p reply u).1
    rw [h.one, takeRecords_one (by rw [field.accepted, good.accepted]; exact h.new)] at er
    have counts : (finish (takeStatus p reply u)).er = routedTo p r s.er := by
      rw [er]
      refine (routeRecord_er p r _).1.trans ?_
      rw [field.er, good.er]
    refine ⟨_, run, stores, number, ?_⟩
    rw [counts]
    exact routedTo_counts p r s.er
  · obtain ⟨u, good, run, stores⟩ := exec_status_records polled stage few
    have field := Managed.followField p (bit reply.flags 0) u
    have number := takeStatus_accepted p reply good
    rw [accepted, newRecords_repeats old] at number
    obtain ⟨er, ps⟩ := takeStatus_routed p reply u
    obtain ⟨flag, eq⟩ := takeRecords_eq p reply.records (followField p (bit reply.flags 0) u)
    rw [field.accepted, good.accepted, accepted, newRecords_repeats old] at eq
    rw [eq] at er ps
    exact ⟨_, run, er.trans (field.er.trans good.er), number, ps.trans (field.ps.trans good.ps), stores⟩
  · intro first second early late
    obtain ⟨u, good, run, stores⟩ := exec_status_records polled stage (by rw [two]; exact Nat.le_add_left 2 6)
    obtain ⟨last, is, sequence⟩ := newRecords_two early late
    have number := takeStatus_accepted p reply good
    rw [two, accepted, is] at number
    refine ⟨_, run, stores, number.trans ?_⟩
    rw [← sequence]

end Sys2Proof.Proofs.Records
end

section
/-! PROOF. A STATUS with one new record, part by part (used by O44 to O47 and O49). -/

open Sys2Proof Sys2Proof.Machine

namespace Sys2Proof.Proofs.OneRecord

open Answers Roads Coordination StatusReplies Records

theorem fieldLocalSet_seen (p : Pos) (s : State) :
    ((fieldLocalSet p s).coord p).target = (s.coord p).target ∧
      (((fieldLocalSet p s).coord p).state = .unseen ↔ (s.coord p).state = .unseen) := by
  cases is : (s.coord p).state with
  | unseen =>
    rw [fieldLocalSet_unseen is, State.withCoord_coord, if_pos rfl]
    exact ⟨rfl, by rw [is]⟩
  | inLocal reason =>
    rw [fieldLocalSet_local is]
    exact ⟨rfl, by nofun, by nofun⟩
  | _ =>
    rw [fieldLocalSet_coordinated (by rw [is]; rfl), leaveToLocal_coord, State.withCoord_coord, if_pos rfl]
    exact ⟨rfl, by nofun, by nofun⟩

theorem followField_seen (p : Pos) (flag : Bool) (s : State) :
    ((followField p flag s).coord p).target = (s.coord p).target ∧
      (((followField p flag s).coord p).state = .unseen ↔ (s.coord p).state = .unseen) := by
  cases flag with
  | true => exact fieldLocalSet_seen p s
  | false =>
    change ((fieldLocalClear p s).coord p).target = _ ∧ (((fieldLocalClear p s).coord p).state = _ ↔ _)
    rw [fieldLocalClear_coord]
    refine ⟨rfl, ?_⟩
    dsimp only
    split
    · next is => rw [is]; exact ⟨by nofun, by nofun⟩
    · exact Iff.rfl

/-- The number of a record is accepted (R134). -/
def accept (p : Pos) (r : EventRecord) (s : State) : State :=
  { s with clc := { s.clc with accepted := s.clc.accepted.set p.val (some r.sequence) } }

/-- A STATUS with one new record, from its exchange `u` on: the field-local flag `v`, the record `y`, the PREEMPTING flag `w`, the
measurement `t`. -/
structure Carried (p : Pos) (reply : StatusFields) (r : EventRecord) (s u v y w t : State) : Prop where
  live : s.isLive = true
  inService : (s.health p).state ≠ .cutOff
  good : Good p s u
  field : v = followField p (bit reply.flags 0) u
  routed : y = routeRecord p r v
  judged : w = judgePreempting p (bit reply.flags 1) (accept p r y)
  last : CoordAt p w t
  figures : ∃ state measured settle, t.coord p = { w.coord p with state := state, measured := measured, settle := settle }
  rests : steered (v.coord p).state = false ∨ steered (y.coord p).state = false ∨ steered (w.coord p).state = false → t = w

/-- The steps of a STATUS with one new record, one after the other. -/
theorem takeStatus_one {p : Pos} {reply : StatusFields} {r : EventRecord} {u : State} (one : reply.records = [r])
    (new : ∀ n, (followField p (bit reply.flags 0) u).clc.accepted.get p = some n → inRange 1 127 (sequenceStep n r) = true) :
    takeStatus p reply u =
      let v := followField p (bit reply.flags 0) u
      let y := routeRecord p r v
      let w := judgePreempting p (bit reply.flags 1) (accept p r y)
      if steered (v.coord p).state && steered (y.coord p).state then
        Machine.measure p reply.localPosition reply.localLength w else w := by
  rw [takeStatus_eq, one, takeRecords_one new]
  rfl

/-- The field-local flag leaves the record new. -/
theorem followField_newer {p : Pos} {x : Exchange} {reply : StatusFields} {r : EventRecord} {s u : State}
    (h : Reports s x p reply r) (good : Good p s u) :
    ∀ n, (followField p (bit reply.flags 0) u).clc.accepted.get p = some n → inRange 1 127 (sequenceStep n r) = true := by
  rw [(Managed.followField p _ u).accepted, good.accepted]
  exact h.new

theorem takeStatus_carried {p : Pos} {x : Exchange} {reply : StatusFields} {r : EventRecord} {s u : State}
    (h : Reports s x p reply r) (good : Good p s u) : ∃ v y w, Carried p reply r s u v y w (takeStatus p reply u) := by
  have eligible := h.polled.eligible
  unfold pollEligible at eligible
  simp only [Bool.and_eq_true, beq_iff_eq, bne_iff_ne] at eligible
  obtain ⟨⟨⟨live, -⟩, inService⟩, -⟩ := eligible
  have steps := takeStatus_one h.one (followField_newer h good)
  refine ⟨_, _, _, ⟨live, inService, good, rfl, rfl, rfl, ?_, ?_, fun rests => ?_⟩⟩
  · rw [steps]
    dsimp only
    split
    · exact CoordAt.measure p _ _ _
    · exact .rfl' p _
  · rw [steps]
    dsimp only
    split
    · exact measure_rest p _ _ _
    · exact ⟨_, _, _, rfl⟩
  · rw [steps]
    dsimp only
    split
    · next steers =>
      simp only [Bool.and_eq_true] at steers
      obtain ⟨before, after⟩ := steers
      rcases rests with rests | rests | rests
      · exact absurd (rests.symm.trans before) Bool.false_ne_true
      · exact absurd (rests.symm.trans after) Bool.false_ne_true
      · exact measure_unsteered rests _ _
    · rfl

theorem exec_status_carried {p : Pos} {x : Exchange} {reply : StatusFields} {r : EventRecord} {s : State}
    (h : Reports s x p reply r) :
    ∃ u v y w t, Carried p reply r s u v y w t ∧ exec (.status x.address reply) s = .next (finish t) ∧
      LeavesStores s (finish t) := by
  obtain ⟨u, good, run, stores⟩ := exec_status_records h.polled h.stage (by rw [h.one]; exact Nat.le_add_left 1 7)
  obtain ⟨v, y, w, carried⟩ := takeStatus_carried h good
  exact ⟨u, v, y, w, _, carried, run, stores⟩

namespace Carried

variable {p : Pos} {reply : StatusFields} {r : EventRecord} {s u v y w t : State}

/-! ### The state in which the record is routed -/

theorem road (h : Carried p reply r s u v y w t) : Road false (· = p) releases u v := h.field ▸ Road.followField (A := (· = p)) rfl _ u

theorem isLive (h : Carried p reply r s u v y w t) : v.isLive = true := by
  rw [h.road.isLive]
  unfold State.isLive
  rw [h.good.mode]
  exact h.live

theorem ctb (h : Carried p reply r s u v y w t) : v.ctb = s.ctb := h.road.ctb.trans h.good.ctb

theorem now (h : Carried p reply r s u v y w t) : v.now = s.now := congrArg TimeBase.runningTime h.ctb

theorem pt (h : Carried p reply r s u v y w t) : v.pt = s.pt := (h.road.pt rfl).trans h.good.pt

theorem qw (h : Carried p reply r s u v y w t) : v.qw = s.qw := (h.road.qw rfl).trans h.good.qw

theorem ps (h : Carried p reply r s u v y w t) : v.ps = s.ps := h.road.ps.trans h.good.ps

theorem er (h : Carried p reply r s u v y w t) : v.er = s.er := h.road.er.trans h.good.er

theorem config (h : Carried p reply r s u v y w t) : v.config = s.config := h.road.config.trans h.good.config

theorem pm (h : Carried p reply r s u v y w t) : v.pm = s.pm := by
  rw [h.field, followField_pm, h.good.pm]

theorem owner (h : Carried p reply r s u v y w t) (q : Pos) : v.owner q = s.owner q := by
  unfold State.owner
  rw [h.pm]

theorem imageEntry (h : Carried p reply r s u v y w t) (q : Pos) : v.imageEntry q = s.imageEntry q :=
  (h.road.imageEntry q).trans (h.good.imageEntry q)

theorem coord (h : Carried p reply r s u v y w t) {q : Pos} (other : q ≠ p) : v.coord q = s.coord q :=
  (h.road.coord q other).trans (h.good.coord q)

theorem health (h : Carried p reply r s u v y w t) {q : Pos} (other : q ≠ p) : v.health q = s.health q :=
  (h.road.health q).trans (h.good.others q other)

theorem healthState (h : Carried p reply r s u v y w t) :
    (v.health p).state = followedState { s.health p with score := (s.health p).score - 1 } := by
  rw [h.road.health, h.good.health]

theorem served (h : Carried p reply r s u v y w t) : (v.health p).state ≠ .cutOff := by
  rw [h.healthState]
  have not := h.inService
  unfold followedState
  dsimp only
  split
  · split <;> nofun
  · split <;> nofun
  · next is => exact absurd is not

theorem sound (h : Carried p reply r s u v y w t) (sound : (s.health p).state = .sound) (low : (s.health p).score ≤ 64) :
    (v.health p).state = .sound := by
  rw [h.healthState]
  unfold followedState
  dsimp only
  rw [sound]
  exact if_neg (by omega)

theorem ident (h : Carried p reply r s u v y w t) (q : Pos) :
    { v.ident q with retry := none } = { s.ident q with retry := none } := by
  rw [← h.good.identOf q]
  exact h.road.ident q

theorem identMode (h : Carried p reply r s u v y w t) (q : Pos) : (v.ident q).mode = (s.ident q).mode :=
  (congrArg Ident.mode (h.ident q) :)

theorem link (h : Carried p reply r s u v y w t) (l : Link) : v.link l = s.link l := by
  unfold State.link
  rw [h.pt]

theorem cyclePosition (h : Carried p reply r s u v y w t) : v.cyclePosition = s.cyclePosition := by
  unfold State.cyclePosition State.now
  rw [h.ctb]

/-- The flag leaves the target, and whether the position is seen. -/
theorem seen (h : Carried p reply r s u v y w t) :
    (v.coord p).target = (s.coord p).target ∧ ((v.coord p).state = .unseen ↔ (s.coord p).state = .unseen) := by
  rw [← h.good.coord p, h.field]
  exact followField_seen p _ u

/-! ### What follows the record -/

theorem accepted_pm (y : State) : (accept p r y).pm = y.pm := rfl

theorem managed (h : Carried p reply r s u v y w t) : Managed (accept p r y) t := by
  obtain ⟨state, measured, settle, figures⟩ := h.figures
  exact (h.judged ▸ Managed.judgePreempting p _ _).trans (.ofCoordAt h.last (by rw [figures]))

theorem final_pt (h : Carried p reply r s u v y w t) : (finish t).pt = y.pt := (settles_finish t).pt.trans h.managed.pt

theorem final_qw (h : Carried p reply r s u v y w t) : (finish t).qw = y.qw := (settles_finish t).qw.trans h.managed.qw

theorem final_ps (h : Carried p reply r s u v y w t) : (finish t).ps = y.ps := (settles_finish t).ps.trans h.managed.ps

theorem final_pm (h : Carried p reply r s u v y w t) : (finish t).pm = w.pm := (settles_finish t).pm.trans h.last.only.pm

theorem final_health (h : Carried p reply r s u v y w t) (q : Pos) : (finish t).health q = y.health q := by
  rw [finish_health]
  exact congrArg (fun v : Vector Health 12 => v.get q) h.managed.outcomes.health

end Carried

/-! ### A record that the table delivers -/

/-- What the delivery of a record of `p` finds: `z` is `s` as far as the receivers look. -/
structure Receives (p : Pos) (s z : State) : Prop where
  live : z.isLive = true
  ctb : z.ctb = s.ctb
  pt : z.pt = s.pt
  qw : z.qw = s.qw
  ps : z.ps = s.ps
  coord : ∀ q, q ≠ p → z.coord q = s.coord q
  target : (z.coord p).target = (s.coord p).target
  unseen : (z.coord p).state = .unseen ↔ (s.coord p).state = .unseen
  health : ∀ q, q ≠ p → z.health q = s.health q
  served : (z.health p).state ≠ .cutOff
  sound : (s.health p).state = .sound → (s.health p).score ≤ 64 → (z.health p).state = .sound
  mode : ∀ q, (z.ident q).mode = (s.ident q).mode

namespace Receives

variable {p : Pos} {s z : State}

theorem now (h : Receives p s z) : z.now = s.now := congrArg TimeBase.runningTime h.ctb

theorem link (h : Receives p s z) (l : Link) : z.link l = s.link l := by
  unfold State.link
  rw [h.pt]

theorem cyclePosition (h : Receives p s z) : z.cyclePosition = s.cyclePosition := by
  unfold State.cyclePosition State.now
  rw [h.ctb]

end Receives

/-- The rule that delivers a record stands in the table. -/
theorem firstMatch_rule {er : Router} {p : Pos} {w : WellFormedRecord} {i : RuleIx} {rule : Rule}
    (h : er.firstMatch p w = some (i, rule)) : er.rules.get i = some rule := by
  rw [firstMatch_eq] at h
  obtain ⟨j, -, at'⟩ := List.exists_of_findSome?_eq_some h
  unfold hitPlace at at'
  split at at'
  · nomatch at'
  · next found =>
    split at at'
    · cases at'
      exact found
    · nomatch at'

theorem routeRecord_matched {s : State} {p : Pos} {r : EventRecord} {d : EventDirection} {rule : Rule} (h : deliveredBy s p r d rule) :
    ∃ kind i, recordKindOf r.kind = some kind ∧
      s.er.firstMatch p { kind := kind, direction := d, record := r } = some (i, rule) ∧
      routeRecord p r s =
        deliver p i rule { kind := kind, direction := d, record := r } (eventTime s.now r) (countHit i s) := by
  obtain ⟨way, detector, kind, i, known, loose, first⟩ := h
  have read : readRecord r = some { kind := kind, direction := d, record := r } := by
    unfold readRecord
    rw [known, way]
    exact if_pos detector
  refine ⟨kind, i, known, first, ?_⟩
  unfold routeRecord
  rw [read]
  dsimp only
  rw [if_neg (by rw [loose]; exact Bool.false_ne_true), first]

theorem Carried.delivered {p : Pos} {reply : StatusFields} {r : EventRecord} {s u v y w t : State}
    (h : Carried p reply r s u v y w t) {d : EventDirection} {rule : Rule} (rules : deliveredBy s p r d rule) :
    ∃ kind i, recordKindOf r.kind = some kind ∧ s.er.rules.get i = some rule ∧ Receives p s (countHit i v) ∧
      y = deliver p i rule { kind := kind, direction := d, record := r } (earlier s.now r.age) (countHit i v) := by
  have here : deliveredBy v p r d rule := by
    unfold deliveredBy
    rw [h.er]
    exact rules
  obtain ⟨kind, i, known, first, delivers⟩ := routeRecord_matched here
  have now : eventTime v.now r = earlier s.now r.age := congrArg (fun now => earlier now r.age) h.now
  refine ⟨kind, i, known, ?_, ?_, ?_⟩
  · rw [← h.er]
    exact firstMatch_rule first
  · exact ⟨h.isLive, h.ctb, h.pt, h.qw, h.ps, fun q other => h.coord other, h.seen.1, h.seen.2, fun q other => h.health other,
      h.served, h.sound, h.identMode⟩
  · rw [h.routed, delivers, now]

end Sys2Proof.Proofs.OneRecord
end

section
/-! PROOF. Departures and arrivals at the Platoon Tracker (O44). -/

open Sys2Proof Sys2Proof.Machine

namespace Sys2Proof.Proofs.Platoons

open Links Records OneRecord

/-! ### The queue of a link -/

/-- A record is placed after those of an equal or earlier head (R48). -/
theorem insertPlatoon_splits (x : Platoon) (q : List Platoon) :
    ∃ older younger, q = older ++ younger ∧ insertPlatoon x q = older ++ x :: younger ∧
      (∀ y ∈ older, before x.head y.head = false) ∧ ∀ y, younger.head? = some y → before x.head y.head = true := by
  induction q with
  | nil => exact ⟨[], [], rfl, rfl, nofun, nofun⟩
  | cons y rest ih =>
    by_cases first : before x.head y.head = true
    · refine ⟨[], y :: rest, rfl, if_pos first, nofun, fun z is => ?_⟩
      cases is
      exact first
    · obtain ⟨older, younger, split, placed, olders, youngers⟩ := ih
      refine ⟨y :: older, younger, congrArg (y :: ·) split, (if_neg first).trans (congrArg (y :: ·) placed), fun z hz => ?_, youngers⟩
      rcases List.mem_cons.1 hz with rfl | hz
      · exact Bool.eq_false_iff.2 first
      · exact olders z hz

theorem removePlatoon_first {older younger : List Platoon} {y : Platoon} (h : ∀ z ∈ older, z.number ≠ y.number) :
    removePlatoon y.number (older ++ y :: younger) = older ++ younger := by
  unfold removePlatoon
  rw [List.eraseP_append_right _ (fun z hz => by simpa using h z hz), List.eraseP_cons_of_pos (by simp)]

theorem freeNumber_free {s : State} {n : Nat} (h : ∀ m, ∀ y ∈ (s.link m).queue, y.number ≠ n) (tries : Nat) :
    freeNumber s tries n = n := by
  have unheld : numberHeld s n = false := by
    unfold numberHeld
    simp only [List.any_eq_false, beq_iff_eq, Bool.not_eq_true]
    exact fun m _ y hy => h m y hy
  cases tries with
  | zero => rfl
  | succ tries => exact if_neg (by rw [unheld]; exact Bool.false_ne_true)

/-! ### One link and the pool -/

/-- From `s` to `t` only the link `l` and the pool differ in the Platoon Tracker. -/
structure OnLink (l : Link) (s t : State) : Prop where
  links : ∀ m, m ≠ l → t.link m = s.link m
  accumulators : t.pt.accumulators = s.pt.accumulators
  errorBase : t.pt.errorBase = s.pt.errorBase

namespace OnLink

variable {l : Link}

theorem rfl' (s : State) : OnLink l s s := ⟨fun _ _ => rfl, rfl, rfl⟩

theorem trans {a b c : State} (h : OnLink l a b) (g : OnLink l b c) : OnLink l a c :=
  ⟨fun m other => (g.links m other).trans (h.links m other), g.accumulators.trans h.accumulators, g.errorBase.trans h.errorBase⟩

theorem withLink (s : State) (f : LinkRecord → LinkRecord) : OnLink l s (s.withLink l f) := by
  refine ⟨fun m other => ?_, ?_, ?_⟩
  · rw [State.withLink_link, if_neg (fun e => other e.symm)]
  all_goals
    obtain ⟨k, d⟩ := l
    cases d <;> rfl

theorem freeRecords (n : Nat) (s : State) : OnLink l s (freeRecords n s) := by
  refine ⟨fun m _ => freeRecords_link n s m, ?_, ?_⟩ <;> (unfold Machine.freeRecords Tracker.freed; split <;> rfl)

end OnLink

theorem withLink_next (s : State) (l : Link) (f : LinkRecord → LinkRecord) :
    (s.withLink l f).pt.nextNumber = s.pt.nextNumber := by
  obtain ⟨k, d⟩ := l
  cases d <;> rfl

/-! ### Departures (R50 to R53) -/

/-- A new record joins its link (R47, R48). -/
theorem holdPlatoon_joins (l : Link) (x : Platoon) (s : State) :
    let t := holdPlatoon l x s
    let n := freeNumber s Config.poolSize s.pt.nextNumber
    OnLink l s t ∧ t.pt.freeCount = s.pt.freeCount - 1 ∧ t.pt.nextNumber = nextNumber n ∧
      t.link l = { s.link l with queue := insertPlatoon { x with number := n } (s.link l).queue } := by
  intro t n
  have placed : t.pt = { (s.withLink l (fun r => { r with queue := insertPlatoon { x with number := n } r.queue })).pt with
      nextNumber := nextNumber n, freeCount := (s.withLink l (fun r =>
        { r with queue := insertPlatoon { x with number := n } r.queue })).pt.freeCount - 1 } := rfl
  have links (m : Link) : t.link m =
      (s.withLink l (fun r => { r with queue := insertPlatoon { x with number := n } r.queue })).link m :=
    link_congr (by rw [placed]) (by rw [placed]) m
  have only : OnLink l s (s.withLink l (fun r => { r with queue := insertPlatoon { x with number := n } r.queue })) :=
    .withLink s _
  refine ⟨⟨fun m other => (links m).trans (only.links m other), ?_, ?_⟩, ?_, ?_, ?_⟩
  · rw [placed]
    exact only.accumulators
  · rw [placed]
    exact only.errorBase
  · rw [placed, State.withLink_free]
  · rw [placed]
  · rw [links, State.withLink_link, if_pos rfl]

/-- The oldest record of a full link gives way (R49). -/
theorem displaceOldest_gives {l : Link} {s : State} {oldest : Platoon} {rest : List Platoon} (h : (s.link l).queue = oldest :: rest) :
    let t := displaceOldest l s
    OnLink l s t ∧ t.pt.freeCount = s.pt.freeCount + 1 ∧ t.link l = { s.link l with queue := rest } := by
  unfold displaceOldest
  rw [h]
  dsimp only
  refine ⟨(OnLink.withLink s _).trans (.freeRecords _ _), ?_, ?_⟩
  · rw [freeRecords_free, State.withLink_free]
  · rw [freeRecords_link, State.withLink_link, if_pos rfl]

theorem placePlatoon_late {l : Link} {x : Platoon} {s : State} (full : (s.link l).depth ≤ (s.link l).queue.length)
    (h : ∀ y ∈ (s.link l).queue, before x.head y.head = true) : placePlatoon l x s = s := by
  unfold placePlatoon
  dsimp only
  rw [if_pos full]
  exact if_pos (List.all_eq_true.2 h)

theorem placePlatoon_displacing {l : Link} {x : Platoon} {s : State} (full : (s.link l).depth ≤ (s.link l).queue.length)
    (h : ∃ y ∈ (s.link l).queue, before x.head y.head = false) : placePlatoon l x s = holdPlatoon l x (displaceOldest l s) := by
  obtain ⟨y, hy, earlier⟩ := h
  unfold placePlatoon
  dsimp only
  rw [if_pos full]
  exact if_neg (fun all => by simpa [earlier] using List.all_eq_true.1 all y hy)

theorem placePlatoon_dry {l : Link} {x : Platoon} {s : State} (room : (s.link l).queue.length < (s.link l).depth)
    (dry : s.pt.freeCount = 0) : (placePlatoon l x s).pt = { s.pt with poolEmptyRaised := true } := by
  unfold placePlatoon
  dsimp only
  rw [if_neg (not_le.2 room), if_pos dry]
  split
  · next raised => rw [← raised]
  · rfl

theorem placePlatoon_room {l : Link} {x : Platoon} {s : State} (room : (s.link l).queue.length < (s.link l).depth)
    (free : s.pt.freeCount ≠ 0) : placePlatoon l x s = holdPlatoon l x s := by
  unfold placePlatoon
  dsimp only
  rw [if_neg (not_le.2 room), if_neg free]

theorem placePlatoon_onLink (l : Link) (x : Platoon) (s : State) : OnLink l s (placePlatoon l x s) := by
  rcases lt_or_ge (s.link l).queue.length (s.link l).depth with room | full
  · by_cases dry : s.pt.freeCount = 0
    · have pt := placePlatoon_dry (x := x) room dry
      exact ⟨fun m _ => link_congr (by rw [pt]) (by rw [pt]) m, by rw [pt], by rw [pt]⟩
    · rw [placePlatoon_room room dry]
      exact (holdPlatoon_joins l x s).1
  · by_cases late : ∀ y ∈ (s.link l).queue, before x.head y.head = true
    · rw [placePlatoon_late full late]
      exact .rfl' s
    · simp only [not_forall, Bool.not_eq_true] at late
      obtain ⟨y, hy, earlier⟩ := late
      obtain ⟨oldest, rest, held⟩ := List.exists_cons_of_ne_nil (List.ne_nil_of_mem hy)
      rw [placePlatoon_displacing full ⟨y, hy, earlier⟩]
      exact (displaceOldest_gives held).1.trans (holdPlatoon_joins l x _).1

/-- The platoon that a departure announces, still without a number (R51). -/
def announced (s : State) (l : Link) (head : Time) (duration size : Nat) : Platoon :=
  platoonTimes s.pt (s.link l) head duration (saturate 255 size)

/-- A departure is taken (R50). -/
def Takes (p : Pos) (l : Link) (duration size : Nat) (t : Time) (s : State) : Prop :=
  (s.coord p).state ≠ .unseen ∧ (s.health p).state = .sound ∧ (s.coord (downstreamEnd l)).state ≠ .unseen ∧
    (s.health (downstreamEnd l)).state ≠ .cutOff ∧ duration ≤ 1200 ∧ s.pt.minimumSize ≤ size ∧
    before s.now (announced s l (earlier t duration) duration size).windowClose = true

theorem takeDeparture_taken {p : Pos} {d : EventDirection} {l : Link} {duration size : Nat} {t : Time} {s : State}
    (leaving : linkLeaving p d = some l) (live : s.isLive = true) (h : Takes p l duration size t s) :
    takeDeparture p d duration size t s = placePlatoon l (announced s l (earlier t duration) duration size) s := by
  obtain ⟨seen, sound, ahead, serves, short, big, open'⟩ := h
  unfold takeDeparture
  rw [leaving]
  dsimp only
  rw [if_pos ⟨live, seen, sound, ahead, serves, short, big⟩]
  exact if_pos open'

theorem takeDeparture_refused {p : Pos} {d : EventDirection} {l : Link} {duration size : Nat} {t : Time} {s : State}
    (leaving : linkLeaving p d = some l) (h : ¬ Takes p l duration size t s) : takeDeparture p d duration size t s = s := by
  unfold takeDeparture
  rw [leaving]
  dsimp only
  split
  · next conditions =>
    obtain ⟨-, seen, sound, ahead, serves, short, big⟩ := conditions
    exact if_neg (fun open' => h ⟨seen, sound, ahead, serves, short, big, open'⟩)
  · rfl

/-! ### Arrivals (R54, R55, R61) -/

theorem takeArrival_stray {p : Pos} {d : EventDirection} {l : Link} {t : Time} {s : State} (arriving : linkArriving p d = some l)
    (h : ∀ y ∈ (s.link l).queue, platoonMatches (s.link l) t y = false) : takeArrival p d t s = s := by
  unfold takeArrival
  rw [arriving]
  dsimp only
  rw [List.find?_eq_none.2 (fun y hy => by rw [h y hy]; exact Bool.false_ne_true)]

theorem takeArrival_match {p : Pos} {d : EventDirection} {l : Link} {t : Time} {s : State} (arriving : linkArriving p d = some l)
    {older younger : List Platoon} {y : Platoon} (held : (s.link l).queue = older ++ y :: younger)
    (others : ∀ z ∈ older, platoonMatches (s.link l) t z = false) (h : platoonMatches (s.link l) t y = true) :
    takeArrival p d t s = matchPlatoon l y t s := by
  unfold takeArrival
  rw [arriving]
  dsimp only
  have first : (s.link l).queue.find? (platoonMatches (s.link l) t) = some y := by
    rw [held, List.find?_append, List.find?_eq_none.2 (fun z hz => by rw [others z hz]; exact Bool.false_ne_true), Option.none_or,
      List.find?_cons_of_pos h]
  rw [first]

/-- The link after a match, before its estimate moves. -/
theorem retracked_link (l : Link) (y : Platoon) (s : State) :
    let t := retracked l y s
    OnLink l s t ∧ t.pt.freeCount = s.pt.freeCount + 1 ∧
      t.link l = { s.link l with queue := removePlatoon y.number (s.link l).queue, lost := 0, tracked := true } := by
  have same : (retracked l y s).pt = (matched l y s).pt := by
    unfold retracked
    split <;> rfl
  have links (m : Link) : (retracked l y s).link m = (matched l y s).link m := link_congr (by rw [same]) (by rw [same]) m
  have only : OnLink l s (matched l y s) := (OnLink.withLink s _).trans (.freeRecords _ _)
  refine ⟨⟨fun m other => (links m).trans (only.links m other), ?_, ?_⟩, ?_, ?_⟩
  · rw [same]
    exact only.accumulators
  · rw [same]
    exact only.errorBase
  · rw [same]
    unfold matched
    rw [freeRecords_free, State.withLink_free]
  · rw [links]
    unfold matched
    rw [freeRecords_link, State.withLink_link, if_pos rfl]

theorem reestimated_link (l : Link) (y : Platoon) (arrived : Time) (s : State) :
    let t := reestimated l y arrived s
    OnLink l s t ∧ t.pt.freeCount = s.pt.freeCount ∧
      t.link l = { s.link l with
        estimate := if (s.health (downstreamEnd l)).state = .sound then
          clampNat 50 1200 (moveToward (s.link l).estimate (elapsed arrived y.head) 4) else (s.link l).estimate } := by
  unfold reestimated
  dsimp only
  split
  · refine ⟨.withLink s _, State.withLink_free s l _, ?_⟩
    rw [State.withLink_link, if_pos rfl]
  · exact ⟨.rfl' s, rfl, rfl⟩

/-- The arrival error moves an accumulator and nothing else. -/
theorem offerError_rest (l : Link) (t : Time) (s : State) :
    ∃ accumulators, offerError l t s = { s with pt := { s.pt with accumulators := accumulators } } := by
  unfold offerError
  dsimp only
  split
  · exact ⟨_, rfl⟩
  · split <;> exact ⟨_, rfl⟩

theorem offerError_against {l : Link} {s : State} (h : alongWave s l = false) (t : Time) : offerError l t s = s := by
  unfold offerError
  dsimp only
  split
  · rfl
  · exact if_neg (fun all => by rw [h] at all; exact Bool.false_ne_true all.1)

theorem offerError_taken {l : Link} {s : State} {t : Time} {target : Target} (aimed : (s.coord (downstreamEnd l)).target = some target)
    (along : alongWave s l = true) (full : (s.ident (upstreamEnd l)).mode = some .full)
    (sound : (s.health (upstreamEnd l)).state = .sound) (tracked : (s.link l).tracked = true)
    (after : afterBase s.pt.errorBase t = true) :
    (offerError l t s).pt.accumulators = s.pt.accumulators.set (downstreamEnd l).val
      ((s.pt.accumulators.get (downstreamEnd l)).add (arrivalError s target.offset (s.link l).lead t)) := by
  unfold offerError
  dsimp only
  rw [aimed]
  dsimp only
  rw [if_pos ⟨along, full, sound, tracked, after⟩]
  rfl

end Sys2Proof.Proofs.Platoons
end

section
/-! PROOF. A record delivered to the Platoon Tracker (O44). -/

open Sys2Proof Sys2Proof.Machine

namespace Sys2Proof.Proofs.PlatoonRecords

open Links Records OneRecord Platoons

/-! ### What reaches the tracker -/

theorem deliver_pt (p : Pos) (i : RuleIx) (rule : Rule) (w : WellFormedRecord) (t : Time) (z : State) :
    (deliver p i rule w t z).pt = (platooned p rule w t z).pt := by
  rw [deliver_eq, (told_only _ _ _ _ _ _).2.1, (counted_only _ _ _).2.1, (watched_beside _ _ _ _ _).2]

/-- A STATUS with one record, as the tracker sees it. -/
theorem tracker_after {p : Pos} {x : Exchange} {reply : StatusFields} {r : EventRecord} {d : EventDirection} {rule : Rule} {s : State}
    (reports : Reports s x p reply r) (rules : deliveredBy s p r d rule) :
    ∃ z t w, Receives p s z ∧ exec (.status x.address reply) s = .next t ∧ LeavesStores s t ∧ w.direction = d ∧ w.record = r ∧
      t.pt = (platooned p rule w (earlier s.now r.age) z).pt ∧ t.health p = z.health p := by
  obtain ⟨u, v, y, w, t, carried, run, stores⟩ := exec_status_carried reports
  obtain ⟨kind, i, -, -, receives, delivers⟩ := carried.delivered rules
  refine ⟨_, _, { kind := kind, direction := d, record := r }, receives, run, stores, rfl, rfl, ?_, ?_⟩
  · rw [carried.final_pt, delivers, deliver_pt]
  · rw [carried.final_health, delivers]
    exact (deliver_delivered p i rule _ _ _).health p

/-! ### The ends of a link -/

theorem linkLeaving_ends {p : Pos} {d : EventDirection} {l : Link} (h : linkLeaving p d = some l) : downstreamEnd l ≠ p := by
  unfold linkLeaving segmentTo segmentFrom at h
  cases d with
  | none => nomatch h
  | inbound =>
    dsimp only at h
    split at h
    · cases h
      exact fun e => by have := congrArg Fin.val e; simp only [downstreamEnd, segmentNear] at this; omega
    · nomatch h
  | outbound =>
    dsimp only at h
    split at h
    · cases h
      exact fun e => by have := congrArg Fin.val e; simp only [downstreamEnd, segmentFar] at this; omega
    · nomatch h

theorem linkArriving_ends {p : Pos} {d : EventDirection} {l : Link} (h : linkArriving p d = some l) :
    downstreamEnd l = p ∧ upstreamEnd l ≠ p := by
  unfold linkArriving segmentTo segmentFrom at h
  cases d with
  | none => nomatch h
  | inbound =>
    dsimp only at h
    split at h
    · cases h
      exact ⟨rfl, fun e => by have := congrArg Fin.val e; simp only [upstreamEnd, segmentFar] at this; omega⟩
    · nomatch h
  | outbound =>
    dsimp only at h
    split at h
    · cases h
      exact ⟨Fin.ext (by simp only [downstreamEnd, segmentFar]; omega),
        fun e => by have := congrArg Fin.val e; simp only [upstreamEnd, segmentNear] at this; omega⟩
    · nomatch h

/-! ### A departure -/

theorem announced_eq (s : State) (l : Link) (head : Time) (duration size : Nat) :
    announced s l head duration size =
      { number := 0, head := head, duration := duration, size := min 255 size, predictedHead := later head (s.link l).estimate,
        predictedTail := later (later head (s.link l).estimate) (duration * 5 / 4),
        windowOpen := earlier (later head (s.link l).estimate) s.pt.earlySlack,
        windowClose := later (later (later head (s.link l).estimate) (duration * 5 / 4)) s.pt.lateSlack } := by
  unfold announced
  rw [Failures.saturate_eq_min]
  rfl

/-- A platoon of a link, by its number (R51). -/
def platoonOf (s : State) (l : Link) (head : Time) (duration size n : Nat) : Platoon :=
  { announced s l head duration size with number := n }

/-- The platoon has joined the others of its link (R48). -/
def Joins (s t : State) (l : Link) (x : Nat → Platoon) (head : Time) (others : List Platoon) : Prop :=
  ∃ n older younger, others = older ++ younger ∧ t.link l = { s.link l with queue := older ++ x n :: younger } ∧
    (∀ y ∈ older, before head y.head = false) ∧ ∀ y, younger.head? = some y → before head y.head = true

theorem holdPlatoon_placed (l : Link) (x : Platoon) (s : State) :
    Joins s (holdPlatoon l x s) l (fun n => { x with number := n }) x.head (s.link l).queue := by
  obtain ⟨-, -, -, link⟩ := holdPlatoon_joins l x s
  obtain ⟨older, younger, split, placed, olders, youngers⟩ :=
    insertPlatoon_splits { x with number := freeNumber s Config.poolSize s.pt.nextNumber } (s.link l).queue
  exact ⟨_, older, younger, split, link.trans (by rw [placed]), olders, youngers⟩

theorem nextNumber_eq (n : Nat) : nextNumber n = if n < 65535 then n + 1 else 1 := by
  unfold nextNumber
  split <;> split <;> omega

/-- What a departure does, where it is taken and where it is not (R50 to R53). -/
theorem takeDeparture_cases {p : Pos} {d : EventDirection} {l : Link} {duration size : Nat} {t : Time} {z : State}
    (leaving : linkLeaving p d = some l) (live : z.isLive = true) :
    let head := earlier t duration
    let x := announced z l head duration size
    let after := takeDeparture p d duration size t z
    let full := (z.link l).depth ≤ (z.link l).queue.length
    let joins := Joins z after l (platoonOf z l head duration size) head
    OnLink l z after ∧
      (¬ Takes p l duration size t z → after = z) ∧
      (Takes p l duration size t z →
        (¬ full → z.pt.freeCount = 0 → after.pt = { z.pt with poolEmptyRaised := true }) ∧
        (¬ full → z.pt.freeCount ≠ 0 → after = holdPlatoon l x z ∧ joins (z.link l).queue) ∧
        (full → (∀ y ∈ (z.link l).queue, before head y.head = true) → after = z) ∧
        (full → ∀ oldest rest, (z.link l).queue = oldest :: rest → (∃ y ∈ (z.link l).queue, before head y.head = false) →
          joins rest ∧ after.pt.freeCount = z.pt.freeCount)) := by
  intro head x after full joins
  by_cases takes : Takes p l duration size t z
  · have placed : after = placePlatoon l x z := takeDeparture_taken leaving live takes
    refine ⟨placed ▸ placePlatoon_onLink l x z, fun not => absurd takes not, fun _ => ⟨fun room dry => ?_, fun room free => ?_,
      fun full late => ?_, fun full oldest rest held late => ?_⟩⟩
    · rw [placed]
      exact placePlatoon_dry (not_le.1 room) dry
    · have holds : after = holdPlatoon l x z := placed.trans (placePlatoon_room (not_le.1 room) free)
      have joined := holdPlatoon_placed l x z
      rw [← holds] at joined
      exact ⟨holds, joined⟩
    · exact placed.trans (placePlatoon_late full late)
    · have holds : after = holdPlatoon l x (displaceOldest l z) := placed.trans (placePlatoon_displacing full late)
      obtain ⟨-, free, left⟩ := displaceOldest_gives held
      obtain ⟨-, count, -⟩ := holdPlatoon_joins l x (displaceOldest l z)
      obtain ⟨n, older, younger, split, link, olders, youngers⟩ := holdPlatoon_placed l x (displaceOldest l z)
      rw [left] at split link
      exact ⟨⟨n, older, younger, split, holds ▸ link, olders, youngers⟩, by rw [holds, count, free, Nat.add_sub_cancel]⟩
  · have same : after = z := takeDeparture_refused leaving takes
    exact ⟨same.symm ▸ .rfl' z, fun _ => same, fun is => absurd is takes⟩

/-- A platoon joins the queue of its link, told of another state with the same tracker. -/
theorem Joins.congr {s t z u : State} {l : Link} {x x' : Nat → Platoon} {head : Time} {others : List Platoon}
    (h : Joins z u l x head others) (from' : z.pt = s.pt) (to' : u.pt = t.pt) (same : ∀ n, x n = x' n) :
    Joins s t l x' head others := by
  obtain ⟨n, older, younger, split, link, olders, youngers⟩ := h
  refine ⟨n, older, younger, split, ?_, olders, youngers⟩
  rw [← same]
  unfold State.link at link ⊢
  rw [← from', ← to']
  exact link

theorem link_of_pt {s t : State} (h : t.pt = s.pt) (m : Link) : t.link m = s.link m := by
  unfold State.link
  rw [h]

/-- The first part of O44. -/
theorem departure_taken {p : Pos} {x : Exchange} {reply : StatusFields} {r : EventRecord} {d : EventDirection} {rule : Rule} {l : Link}
    {s : State} (reports : Reports s x p reply r) (rules : deliveredBy s p r d rule) (platoon : rule.destinations.platoon = true)
    (tag : rule.tag = 1) (leaving : linkLeaving p d = some l) (sound : (s.health p).state = .sound) (low : (s.health p).score ≤ 64) :
    let q := downstreamEnd l
    let held := (s.link l).queue
    let depth := (s.link l).depth
    let head := earlier (earlier s.now r.age) r.value
    let predictedHead := later head (s.link l).estimate
    let predictedTail := later predictedHead (r.value * 5 / 4)
    let close := later predictedTail s.pt.lateSlack
    let platoon (n : Nat) : Platoon :=
      { number := n, head := head, duration := r.value, size := min 255 r.extra, predictedHead := predictedHead,
        predictedTail := predictedTail, windowOpen := earlier predictedHead s.pt.earlySlack, windowClose := close }
    let taken := (s.coord p).state ≠ .unseen ∧ (s.coord q).state ≠ .unseen ∧ (s.health q).state ≠ .cutOff ∧ r.value ≤ 1200 ∧
      s.pt.minimumSize ≤ r.extra ∧ before s.now close = true
    ∃ t, exec (.status x.address reply) s = .next t ∧ LeavesStores s t ∧ (∀ m, m ≠ l → t.link m = s.link m) ∧
      t.pt.accumulators = s.pt.accumulators ∧ t.pt.errorBase = s.pt.errorBase ∧
      (¬ taken → t.pt = s.pt) ∧
      (taken → held.length < depth → s.pt.freeCount = 0 → t.pt = { s.pt with poolEmptyRaised := true }) ∧
      (taken → held.length < depth → s.pt.freeCount ≠ 0 → Joins s t l platoon head held ∧ t.pt.freeCount = s.pt.freeCount - 1 ∧
        ((∀ m, ∀ y ∈ (s.link m).queue, y.number ≠ s.pt.nextNumber) →
          (∃ y ∈ (t.link l).queue, y = platoon s.pt.nextNumber) ∧
            t.pt.nextNumber = if s.pt.nextNumber < 65535 then s.pt.nextNumber + 1 else 1)) ∧
      (taken → depth ≤ held.length → (∀ y ∈ held, before head y.head = true) → t.pt = s.pt) ∧
      (taken → depth ≤ held.length → ∀ oldest rest, held = oldest :: rest →
        (∃ y ∈ held, before head y.head = false) → Joins s t l platoon head rest ∧ t.pt.freeCount = s.pt.freeCount) := by
  intro q held depth head predictedHead predictedTail close platoonAt taken
  obtain ⟨z, t, w, receives, run, stores, rfl, rfl, pt, -⟩ := tracker_after reports rules
  have last : t.pt = (takeDeparture p w.direction w.record.value w.record.extra (earlier s.now w.record.age) z).pt := by
    rw [pt]
    unfold platooned
    rw [if_pos platoon, tag]
    rfl
  obtain ⟨only, refused, placed⟩ := takeDeparture_cases (duration := w.record.value) (size := w.record.extra)
    (t := earlier s.now w.record.age) leaving receives.live
  generalize takeDeparture p w.direction w.record.value w.record.extra (earlier s.now w.record.age) z = after at *
  have number (n : Nat) : platoonOf z l head w.record.value w.record.extra n = platoonAt n := by
    unfold platoonOf
    rw [announced_eq, receives.link, receives.pt]
  have close' : (announced z l head w.record.value w.record.extra).windowClose = close := by
    rw [announced_eq, receives.link, receives.pt]
  have takes : Takes p l w.record.value w.record.extra (earlier s.now w.record.age) z ↔ taken := by
    have ahead := linkLeaving_ends leaving
    unfold Takes
    rw [close', receives.now, receives.pt, receives.coord _ ahead, receives.health _ ahead, Ne, receives.unseen]
    exact ⟨fun ⟨a, _, rest⟩ => ⟨a, rest⟩, fun ⟨a, rest⟩ => ⟨a, receives.sound sound low, rest⟩⟩
  rw [receives.link, receives.pt] at placed
  have joins {others : List Platoon} (is : Joins z after l (platoonOf z l head w.record.value w.record.extra) head others) :
      Joins s t l platoonAt head others := is.congr receives.pt last.symm number
  have links (m : Link) : t.link m = after.link m := link_of_pt last m
  refine ⟨t, run, stores, fun m other => ?_, ?_, ?_, ?_, ?_, ?_, ?_, ?_⟩
  · rw [links, only.links m other, receives.link]
  · rw [last, only.accumulators, receives.pt]
  · rw [last, only.errorBase, receives.pt]
  · exact fun not => by rw [last, refused (fun is => not (takes.1 is)), receives.pt]
  · exact fun is room dry => last.trans ((placed (takes.2 is)).1 (not_le.2 room) dry)
  · intro is room free
    obtain ⟨holds, joined⟩ := (placed (takes.2 is)).2.1 (not_le.2 room) free
    obtain ⟨-, count, next, link⟩ := holdPlatoon_joins l (announced z l head w.record.value w.record.extra) z
    rw [← holds] at count next link
    refine ⟨joins joined, by rw [last, count, receives.pt], fun fresh => ?_⟩
    have number' : freeNumber z Config.poolSize z.pt.nextNumber = s.pt.nextNumber := by
      rw [receives.pt]
      exact freeNumber_free (fun m y hy => fresh m y (receives.link m ▸ hy)) _
    rw [number'] at next link
    refine ⟨⟨_, ?_, number _⟩, by rw [last, next, nextNumber_eq]⟩
    obtain ⟨older, younger, -, placed', -, -⟩ :=
      insertPlatoon_splits (platoonOf z l head w.record.value w.record.extra s.pt.nextNumber) (z.link l).queue
    rw [links, link]
    exact placed' ▸ List.mem_append_right older List.mem_cons_self
  · exact fun is full late => by rw [last, (placed (takes.2 is)).2.2.1 full late, receives.pt]
  · intro is full oldest rest split late
    obtain ⟨joined, count⟩ := (placed (takes.2 is)).2.2.2 full oldest rest split late
    exact ⟨joins joined, by rw [last, count]⟩

/-! ### An arrival -/

/-- The effects of a match (R55, R61). -/
theorem matchPlatoon_effects (l : Link) (y : Platoon) (arrived : Time) (z : State) :
    let t := matchPlatoon l y arrived z
    (∀ m, m ≠ l → t.link m = z.link m) ∧ t.pt.freeCount = z.pt.freeCount + 1 ∧
      t.link l = { z.link l with
        queue := removePlatoon y.number (z.link l).queue, lost := 0, tracked := true,
        estimate := if (z.health (downstreamEnd l)).state = .sound then
          clampNat 50 1200 (moveToward (z.link l).estimate (elapsed arrived y.head) 4) else (z.link l).estimate } ∧
      (alongWave z l = false → t.pt.accumulators = z.pt.accumulators) ∧
      ∀ target, (z.coord (downstreamEnd l)).target = some target → alongWave z l = true →
        (z.ident (upstreamEnd l)).mode = some .full → (z.health (upstreamEnd l)).state = .sound →
        afterBase z.pt.errorBase arrived = true →
        t.pt.accumulators = z.pt.accumulators.set (downstreamEnd l).val
          ((z.pt.accumulators.get (downstreamEnd l)).add (arrivalError z target.offset (z.link l).lead arrived)) := by
  intro t
  have first := retracked_only l y z
  have both := first.trans (reestimated_only l y arrived (retracked l y z))
  obtain ⟨onLink, free, link⟩ := retracked_link l y z
  obtain ⟨onLink', free', link'⟩ := reestimated_link l y arrived (retracked l y z)
  have eq : t = offerError l arrived (reestimated l y arrived (retracked l y z)) := matchPlatoon_eq l y arrived z
  have only := onLink.trans onLink'
  generalize reestimated l y arrived (retracked l y z) = e at *
  obtain ⟨accumulators, rest⟩ := offerError_rest l arrived e
  have links (m : Link) : t.link m = e.link m := by
    rw [eq, rest]
    exact link_congr rfl rfl m
  have along : alongWave e l = alongWave z l := by
    unfold alongWave
    rw [both.ps]
  refine ⟨fun m other => (links m).trans (only.links m other), ?_, ?_, fun against => ?_, fun target aimed wave full sound after => ?_⟩
  · rw [eq, rest]
    exact free'.trans free
  · have health : (retracked l y z).health (downstreamEnd l) = z.health (downstreamEnd l) :=
      congrArg (fun ih : Machine.Identification => ih.health.get (downstreamEnd l)) first.ih
    rw [links, link', health, link]
  · rw [eq, offerError_against (along.trans against), only.accumulators]
  · have tracked : (e.link l).tracked = true := by rw [link', link]
    have lead : (e.link l).lead = (z.link l).lead := by rw [link', link]
    have coord : (e.coord (downstreamEnd l)).target = some target := by
      unfold State.coord
      rw [both.oc]
      exact aimed
    have mode : (e.ident (upstreamEnd l)).mode = some .full := by
      unfold State.ident
      rw [both.ih]
      exact full
    have health : (e.health (upstreamEnd l)).state = .sound := by
      unfold State.health
      rw [both.ih]
      exact sound
    have error : arrivalError e target.offset (e.link l).lead arrived = arrivalError z target.offset (z.link l).lead arrived := by
      unfold arrivalError State.cyclePosition State.now
      rw [both.ctb, lead]
    rw [eq, offerError_taken coord (along.trans wave) mode health tracked (only.errorBase ▸ after), only.accumulators, error]

theorem takeArrival_links {p : Pos} {d : EventDirection} {l : Link} (arriving : linkArriving p d = some l) (t : Time) (z : State)
    {m : Link} (other : m ≠ l) : (takeArrival p d t z).link m = z.link m := by
  unfold takeArrival
  rw [arriving]
  dsimp only
  split
  · rfl
  · exact (matchPlatoon_effects l _ t z).1 m other

theorem platoonMatches_iff (l : LinkRecord) (t : Time) (y : Platoon) :
    platoonMatches l t y = true ↔
      elapsed t y.windowOpen ≤ elapsed y.windowClose y.windowOpen ∧
        max 50 (min 1200 (l.distance * 36 / l.speed)) / 2 ≤ elapsed t y.head ∧
        elapsed t y.head ≤ 2 * max 50 (min 1200 (l.distance * 36 / l.speed)) := by
  unfold platoonMatches inWindow designTravel
  rw [Coordination.clampNat_eq (by decide)]
  simp only [Bool.and_eq_true, decide_eq_true_eq, and_assoc]

/-- The wave direction that runs a link's way. -/
theorem alongWave_iff (s : State) (l : Link) :
    alongWave s l = true ↔ ∃ image, s.ps.image = some image ∧ image.plan.header.wave = (match l.direction with
      | .inbound => .inbound
      | .outbound => .outbound) := by
  unfold alongWave
  cases s.ps.image with
  | none => exact ⟨nofun, fun ⟨_, is, _⟩ => nomatch is⟩
  | some image =>
    simp only [Option.some.injEq, exists_eq_left']
    cases image.plan.header.wave <;> cases l.direction <;> simp

theorem afterBase_iff (base : Option Time) (t : Time) : afterBase base t = true ↔ ∀ b, base = some b → before t b = false := by
  unfold afterBase
  cases base with
  | none => exact ⟨fun _ => nofun, fun _ => rfl⟩
  | some b => simp

/-- The second part of O44. -/
theorem arrival_taken {p : Pos} {x : Exchange} {reply : StatusFields} {r : EventRecord} {d : EventDirection} {rule : Rule} {l : Link}
    {s : State} (reports : Reports s x p reply r) (rules : deliveredBy s p r d rule) (platoon : rule.destinations.platoon = true)
    (tag : rule.tag = 2) (arriving : linkArriving p d = some l) :
    let arrived := earlier s.now r.age
    let design := max 50 (min 1200 ((s.link l).distance * 36 / (s.link l).speed))
    let fits (y : Platoon) : Prop := elapsed arrived y.windowOpen ≤ elapsed y.windowClose y.windowOpen ∧
      design / 2 ≤ elapsed arrived y.head ∧ elapsed arrived y.head ≤ 2 * design
    ∃ t, exec (.status x.address reply) s = .next t ∧ LeavesStores s t ∧ (∀ m, m ≠ l → t.link m = s.link m) ∧
      ((∀ y ∈ (s.link l).queue, ¬ fits y) → t.pt = s.pt) ∧
      ∀ older y younger, (s.link l).queue = older ++ y :: younger → (∀ z ∈ older, ¬ fits z ∧ z.number ≠ y.number) → fits y →
        t.link l = { s.link l with
          queue := older ++ younger, lost := 0, tracked := true,
          estimate := if (t.health p).state = .sound then
            max 50 (min 1200 (moveToward (s.link l).estimate (elapsed arrived y.head) 4)) else (s.link l).estimate } ∧
        t.pt.freeCount = s.pt.freeCount + 1 ∧
        (alongWave s l = false → t.pt.accumulators = s.pt.accumulators) ∧
        ∀ target, alongWave s l = true →
          (s.ident (upstreamEnd l)).mode = some .full → (s.health (upstreamEnd l)).state = .sound →
          (s.coord p).target = some target → (∀ b, s.pt.errorBase = some b → before arrived b = false) →
          t.pt.accumulators = s.pt.accumulators.set p.val
            ((s.pt.accumulators.get p).add (arrivalError s target.offset (s.link l).lead arrived)) := by
  intro arrived design fits
  obtain ⟨z, t, w, receives, run, stores, rfl, rfl, pt, health⟩ := tracker_after reports rules
  have last : t.pt = (takeArrival p w.direction arrived z).pt := by
    rw [pt]
    unfold platooned
    rw [if_pos platoon, tag]
    rfl
  have link := receives.link l
  have fit (y : Platoon) : platoonMatches (z.link l) arrived y = true ↔ fits y := by
    rw [link]
    exact platoonMatches_iff _ _ _
  have misfit {y : Platoon} (not : ¬ fits y) : platoonMatches (z.link l) arrived y = false :=
    Bool.eq_false_iff.2 (fun is => not ((fit y).1 is))
  have links (m : Link) : t.link m = (takeArrival p w.direction arrived z).link m := link_of_pt last m
  obtain ⟨rfl, away⟩ := linkArriving_ends arriving
  have along : alongWave z l = alongWave s l := by
    unfold alongWave
    rw [receives.ps]
  refine ⟨t, run, stores, fun m other => ?_, fun stray => ?_, fun older y younger held others is => ?_⟩
  · rw [links, takeArrival_links arriving _ _ other, receives.link]
  · rw [last, takeArrival_stray arriving (fun y hy => misfit (stray y (link ▸ hy))), receives.pt]
  · have taken := takeArrival_match arriving (link.symm ▸ held) (fun z hz => misfit (others z hz).1) ((fit y).2 is)
    obtain ⟨-, free, matched', against, error⟩ := matchPlatoon_effects l y arrived z
    rw [← taken] at free matched' against error
    rw [link, receives.pt, along] at error
    refine ⟨?_, ?_, fun opposed => ?_, fun target wave full sound aimed after => ?_⟩
    · rw [links, matched', link, health, held, removePlatoon_first (fun z hz => (others z hz).2),
        Coordination.clampNat_eq (by decide)]
    · rw [last, free, receives.pt]
    · rw [last, against (along.trans opposed), receives.pt]
    · have same : arrivalError z target.offset (s.link l).lead arrived = arrivalError s target.offset (s.link l).lead arrived := by
        unfold arrivalError State.cyclePosition State.now
        rw [receives.ctb]
      rw [last, error target (receives.target.trans aimed) wave ((receives.mode _).trans full)
        ((congrArg Health.state (receives.health _ away)).trans sound) ((afterBase_iff _ _).2 after), same]

/-! ### The obligation on platoons -/

/-- The third part of O44: a record that is not for the tracker. -/
theorem tracker_passed {p : Pos} {x : Exchange} {reply : StatusFields} {r : EventRecord} {d : EventDirection} {rule : Rule} {s : State}
    (reports : Reports s x p reply r) (rules : deliveredBy s p r d rule)
    (h : rule.destinations.platoon = false ∨ (rule.tag ≠ 1 ∧ rule.tag ≠ 2) ∨ (rule.tag = 1 ∧ linkLeaving p d = none) ∨
      (rule.tag = 2 ∧ linkArriving p d = none)) :
    ∃ t, exec (.status x.address reply) s = .next t ∧ LeavesStores s t ∧ t.pt = s.pt := by
  obtain ⟨z, t, w, receives, run, stores, rfl, rfl, pt, -⟩ := tracker_after reports rules
  refine ⟨t, run, stores, pt.trans (Eq.trans (congrArg State.pt ?_) receives.pt)⟩
  unfold platooned
  by_cases off : rule.destinations.platoon = true
  · rw [if_pos off]
    unfold takePlatoonRecord
    rcases h with no | ⟨one, two⟩ | ⟨tag, nowhere⟩ | ⟨tag, nowhere⟩
    · exact absurd (no.symm.trans off) Bool.false_ne_true
    · split
      · next is => exact absurd is one
      · next is => exact absurd is two
      · rfl
    · rw [tag]
      unfold takeDeparture
      rw [nowhere]
      rfl
    · rw [tag]
      unfold takeArrival
      rw [nowhere]
      rfl
  · exact if_neg off

theorem accumulator_add (a : Accumulator) (e : Int) (v : Vector Accumulator 12) (q : Pos) (h : v.get q = a) :
    v.set q.val (a.add e) = if a.count < 255 then v.set q.val { sum := a.sum + e, count := a.count + 1 } else v := by
  unfold Accumulator.add
  split
  · rfl
  · rw [← h]
    exact Vector.set_getElem_self q.isLt

/-- Settles O44. -/
theorem platoonsFollowTheRecords : Obligations.PlatoonsFollowTheRecords := by
  unfold Obligations.PlatoonsFollowTheRecords
  refine ⟨fun p x reply r d rule l s reports rules platoon tag leaving sound low =>
    departure_taken reports rules platoon tag leaving sound low,
    fun p x reply r d rule l s reports rules platoon tag arriving => ?_,
    fun p x reply r d rule s reports rules h => tracker_passed reports rules h⟩
  intro arrived design fits
  obtain ⟨t, run, stores, links, stray, taken⟩ := arrival_taken reports rules platoon tag arriving
  refine ⟨t, run, stores, links, stray, fun older y younger held others is => ?_⟩
  obtain ⟨link, free, against, error⟩ := taken older y younger held others is
  refine ⟨link, free, fun opposed => against ?_, fun image target active wave full sound aimed after => ?_⟩
  · refine Bool.eq_false_iff.2 (fun along => ?_)
    obtain ⟨image, active, wave⟩ := (alongWave_iff s l).1 along
    exact opposed image active wave
  · rw [error target ((alongWave_iff s l).2 ⟨image, active, wave⟩) full sound aimed after]
    exact accumulator_add _ _ _ p rfl

end Sys2Proof.Proofs.PlatoonRecords
end

section
/-! PROOF. A record delivered to Queue Watch or the Plan Selector, and the silence of an approach (O45). -/

open Sys2Proof Sys2Proof.Machine

namespace Sys2Proof.Proofs.Samples

open Links Records OneRecord

/-! ### The approach records -/

theorem withApproach_approach (s : State) (p q : Pos) (a b : Approach) (r : ApproachRecord) :
    (s.withApproach p a r).approach q b = if q = p ∧ b = a then r else s.approach q b := by
  have got : (s.withApproach p a r).qw.approaches.get q =
      if p = q then (s.qw.approaches.get p).withRecord a r else s.qw.approaches.get q := get_update _ p q _
  unfold State.approach
  rw [got]
  by_cases here : q = p
  · subst here
    rw [if_pos rfl]
    by_cases same : b = a
    · subst same
      rw [if_pos ⟨rfl, rfl⟩]
      cases b <;> rfl
    · rw [if_neg (fun both => same both.2)]
      cases a <;> cases b <;> first | rfl | exact absurd rfl same
  · rw [if_neg (fun e => here e.symm), if_neg (fun both => here both.1)]

theorem approach_congr {s t : State} (h : t.qw.approaches = s.qw.approaches) (p : Pos) (a : Approach) :
    t.approach p a = s.approach p a := by
  unfold State.approach
  rw [h]

theorem settleGridlock_qw (s : State) : (settleGridlock s).qw = s.qw.settleGridlock := by
  unfold settleGridlock
  dsimp only
  rw [(Clearing.gridlock_qw _ _ _ _).1, (Clearing.gridlock_qw _ _ _ _).1, (Clearing.gridlock_qw _ _ _ _).1]

theorem changeApproach_qw (p : Pos) (a : Approach) (r : ApproachRecord) (s : State) :
    (changeApproach p a r s).qw =
      if r.state = (s.approach p a).state then (s.withApproach p a r).qw else (s.withApproach p a r).qw.settleGridlock := by
  unfold changeApproach
  dsimp only
  split
  · rfl
  · exact settleGridlock_qw _

theorem changeApproach_approach (p q : Pos) (a b : Approach) (r : ApproachRecord) (s : State) :
    (changeApproach p a r s).approach q b = if q = p ∧ b = a then r else s.approach q b := by
  rw [← withApproach_approach]
  refine approach_congr ?_ q b
  rw [changeApproach_qw]
  split <;> rfl

/-! ### Overlays and gridlock conditions (R77 to R79) -/

/-- An approach of a position is BLOCKED. -/
def blockedIn (s : State) (a : Approach) (q : Pos) : Bool := (s.approach q a).state == .blocked

/-- An approach of a neighbour is BLOCKED. -/
def blockedNext (s : State) (a : Approach) : Option Pos → Bool
  | none => false
  | some q => blockedIn s a q

theorem blockedAt_next (s : State) (a : Approach) (q : Option Pos) : s.qw.blockedAt a q = blockedNext s a q := by
  cases q <;> rfl

theorem overlays_eq (s : State) (q : Pos) :
    s.qw.overlays q =
      { flush := blockedIn s .inboundArterial q || blockedIn s .outboundArterial q,
        gate := blockedNext s .inboundArterial (nearer q) || blockedNext s .outboundArterial (farther q),
        sideRelief := blockedIn s .side q } := by
  unfold Watch.overlays
  simp only [blockedAt_next]
  rfl

theorem gridlockAt_eq (s : State) (q : Pos) :
    s.qw.gridlockAt q =
      { cross := (blockedIn s .inboundArterial q || blockedIn s .outboundArterial q) && blockedIn s .side q,
        chainInbound := blockedIn s .inboundArterial q && blockedNext s .inboundArterial (farther q),
        chainOutbound := blockedIn s .outboundArterial q && blockedNext s .outboundArterial (nearer q) } := by
  unfold Watch.gridlockAt
  rw [overlays_eq]
  simp only [blockedAt_next]
  rfl

theorem foldl_set_get {f : Pos → Gridlock} (ps : List Pos) (g : Vector Gridlock 12) (q : Pos) :
    (ps.foldl (fun g p => g.set p.val (f p)) g).get q = if q ∈ ps then f q else g.get q := by
  induction ps generalizing g with
  | nil => rfl
  | cons p ps ih =>
    refine (ih _).trans ?_
    have got : (g.set p.val (f p)).get q = if p = q then f p else g.get q := by
      simp only [Vector.get_eq_getElem, Vector.getElem_set, Fin.val_inj]
    rw [got]
    by_cases later : q ∈ ps
    · rw [if_pos later, if_pos (List.mem_cons_of_mem p later)]
    · rw [if_neg later]
      by_cases here : p = q
      · rw [if_pos here, if_pos (here ▸ List.mem_cons_self), here]
      · rw [if_neg here, if_neg (fun is => (List.mem_cons.1 is).elim (fun e => here e.symm) later)]

theorem settled_gridlock (qw : Watch) (q : Pos) : qw.settleGridlock.gridlock.get q = qw.gridlockAt q := by
  refine (foldl_set_get (f := fun p => qw.gridlockAt p) positions qw.gridlock q).trans (if_pos (mem_positions q))

/-- The gridlock conditions after a change of an approach record. -/
theorem changeApproach_gridlock (p : Pos) (a : Approach) (r : ApproachRecord) (s : State) :
    (r.state = (s.approach p a).state → (changeApproach p a r s).qw.gridlock = s.qw.gridlock) ∧
      (r.state ≠ (s.approach p a).state → ∀ q,
        (changeApproach p a r s).qw.gridlock.get q = (changeApproach p a r s).qw.gridlockAt q) := by
  rw [changeApproach_qw]
  refine ⟨fun same => ?_, fun changed q => ?_⟩
  · rw [if_pos same]
    rfl
  · rw [if_neg changed, settled_gridlock]
    rfl

/-! ### Samples (R68 to R71) -/

theorem sampleApproach_iff (tag : Nat) (d : EventDirection) (a : Approach) :
    sampleApproach tag d = some a ↔
      (tag = 1 ∧ d = .inbound ∧ a = .inboundArterial) ∨ (tag = 1 ∧ d = .outbound ∧ a = .outboundArterial) ∨
        (tag = 2 ∧ a = .side) := by
  by_cases one : tag = 1
  · subst one
    cases d <;> simp [sampleApproach, eq_comm]
  · by_cases two : tag = 2
    · subst two
      simp [sampleApproach, eq_comm]
    · have none : sampleApproach tag d = none := by
        unfold sampleApproach
        split <;> first | rfl | contradiction
      simp [none, one, two]

/-- The state that a smoothed occupancy gives (R70). -/
theorem classify_eq (l : QueueLimits) (v : Nat) (old : QueueState) :
    classify l v old = match old with
      | .blocked =>
        if v < l.blockedOn - l.hysteresis then (if v < l.buildingOn - l.hysteresis then .clear else .building) else .blocked
      | .building => if l.blockedOn ≤ v then .blocked else if v < l.buildingOn - l.hysteresis then .clear else .building
      | _ => if v < l.buildingOn then .clear else if v < l.blockedOn then .building else .blocked := by
  have free : (if v ≥ l.buildingOn then (if v ≥ l.blockedOn then QueueState.blocked else .building) else .clear) =
      if v < l.buildingOn then .clear else if v < l.blockedOn then .building else .blocked := by
    by_cases low : v < l.buildingOn
    · rw [if_pos low, if_neg (not_le.2 low)]
    · rw [if_neg low, if_pos (not_lt.1 low)]
      by_cases high : v < l.blockedOn
      · rw [if_pos high, if_neg (not_le.2 high)]
      · rw [if_neg high, if_pos (not_lt.1 high)]
  cases old with
  | unknown => exact free
  | clear => exact free
  | building => rfl
  | blocked => rfl

/-- A sample of the approach `a` is taken (R68). -/
def Sampled (p : Pos) (tag : Nat) (d : EventDirection) (value : Nat) (s : State) (a : Approach) : Prop :=
  sampleApproach tag d = some a ∧ (s.coord p).state ≠ .unseen ∧ value ≤ 100

theorem takeSample_taken {p : Pos} {tag : Nat} {d : EventDirection} {value : Nat} {s : State} {a : Approach}
    (live : s.isLive = true) (served : (s.health p).state ≠ .cutOff) (h : Sampled p tag d value s a) (t : Time) :
    takeSample p tag d value t s = changeApproach p a ((s.approach p a).sampled (s.qw.limitsOf a) value t) s := by
  obtain ⟨which, seen, low⟩ := h
  unfold takeSample
  rw [which]
  exact if_pos ⟨live, seen, served, low⟩

theorem takeSample_passed {p : Pos} {tag : Nat} {d : EventDirection} {value : Nat} {s : State}
    (h : ∀ a, ¬ Sampled p tag d value s a) (t : Time) : takeSample p tag d value t s = s := by
  unfold takeSample
  split
  · rfl
  · next a which => exact if_neg (fun all => h a ⟨which, all.2.1, all.2.2.2⟩)

/-! ### Counts (R119) -/

theorem takeCount_taken {tag : Nat} {d : EventDirection} {value : Nat} {s : State} (live : s.isLive = true) (h : 1 ≤ tag ∧ tag ≤ 4) :
    (d = .inbound → (takeCount tag d value s).ps =
        { s.ps with inboundAccumulator := min 65535 (s.ps.inboundAccumulator + value * tag) }) ∧
      (d = .outbound → (takeCount tag d value s).ps =
        { s.ps with outboundAccumulator := min 65535 (s.ps.outboundAccumulator + value * tag) }) := by
  have limit (n : Nat) : saturate Config.countLimit n = min 65535 n := Failures.saturate_eq_min _ _
  unfold takeCount
  rw [if_pos ⟨live, h⟩, ← limit, ← limit]
  exact ⟨by rintro rfl; rfl, by rintro rfl; rfl⟩

theorem takeCount_passed {tag : Nat} {d : EventDirection} (value : Nat) (s : State)
    (h : ¬ (1 ≤ tag ∧ tag ≤ 4) ∨ d = .none) : takeCount tag d value s = s := by
  unfold takeCount
  split
  · next taken =>
    rcases h with not | rfl
    · exact absurd taken.2 not
    · rfl
  · rfl

/-! ### What reaches Queue Watch and the Plan Selector -/

theorem told_qw (p : Pos) (i : RuleIx) (rule : Rule) (w : WellFormedRecord) (t : Time) (z : State) :
    (deliver p i rule w t z).qw = (watched p rule w t (platooned p rule w t z)).qw := by
  rw [deliver_eq, (told_only _ _ _ _ _ _).2.2, (counted_only _ _ _).2.2]

theorem deliver_ps (p : Pos) (i : RuleIx) (rule : Rule) (w : WellFormedRecord) (t : Time) (z : State) :
    (deliver p i rule w t z).ps = (counted rule w (watched p rule w t (platooned p rule w t z))).ps := by
  rw [deliver_eq, (told_only _ _ _ _ _ _).1.ps]

end Sys2Proof.Proofs.Samples
end

section
/-! PROOF. The obligation on samples, silence and counts (O45). -/

open Sys2Proof Sys2Proof.Machine

namespace Sys2Proof.Proofs.SampleRecords

open Links Records OneRecord Samples

/-- A STATUS with one record, as Queue Watch and the Plan Selector see it. -/
structure Seen (p : Pos) (rule : Rule) (r : EventRecord) (d : EventDirection) (s z y t : State) : Prop where
  live : z.isLive = true
  served : (z.health p).state ≠ .cutOff
  unseen : (z.coord p).state = .unseen ↔ (s.coord p).state = .unseen
  qw : z.qw = s.qw
  ps : z.ps = s.ps
  sample : y = if rule.destinations.queue then takeSample p rule.tag d r.value (earlier s.now r.age) z else z
  watch : t.qw = y.qw
  select : t.ps = (if rule.destinations.demand then takeCount rule.tag d r.value y else y).ps

theorem exec_status_seen {p : Pos} {x : Exchange} {reply : StatusFields} {r : EventRecord} {d : EventDirection} {rule : Rule} {s : State}
    (reports : Reports s x p reply r) (rules : deliveredBy s p r d rule) :
    ∃ z y t, Seen p rule r d s z y t ∧ exec (.status x.address reply) s = .next t ∧ LeavesStores s t := by
  obtain ⟨u, v, y, w, t, carried, run, stores⟩ := exec_status_carried reports
  obtain ⟨kind, i, -, -, receives, delivers⟩ := carried.delivered rules
  have only := platooned_only p rule { kind := kind, direction := d, record := r } (earlier s.now r.age) (countHit i v)
  refine ⟨_, _, _, ⟨?_, ?_, ?_, only.qw.trans receives.qw, only.ps.trans receives.ps, rfl, ?_, ?_⟩, run, stores⟩
  · exact (Delivered.ofBeside (.ofTracker only)).isLive.trans receives.live
  · rw [(Delivered.ofBeside (.ofTracker only)).health]
    exact receives.served
  · rw [(Delivered.ofBeside (.ofTracker only)).coord]
    exact receives.unseen
  · rw [carried.final_qw, delivers, told_qw]
    rfl
  · rw [carried.final_ps, delivers, deliver_ps]
    rfl

namespace Seen

variable {p : Pos} {rule : Rule} {r : EventRecord} {d : EventDirection} {s z y t : State}

theorem sampled_iff (h : Seen p rule r d s z y t) (a : Approach) :
    Sampled p rule.tag d r.value z a ↔
      ((rule.tag = 1 ∧ d = .inbound ∧ a = .inboundArterial) ∨ (rule.tag = 1 ∧ d = .outbound ∧ a = .outboundArterial) ∨
        (rule.tag = 2 ∧ a = .side)) ∧ (s.coord p).state ≠ .unseen ∧ r.value ≤ 100 := by
  unfold Sampled
  rw [sampleApproach_iff, Ne, h.unseen]

theorem beside (h : Seen p rule r d s z y t) : Reports.Beside z y := by
  rw [h.sample]
  split
  · exact (takeSample_beside _ _ _ _ _ z).1
  · exact .rfl' z

theorem passed (h : Seen p rule r d s z y t) (not : ∀ a, ¬ (rule.destinations.queue = true ∧ Sampled p rule.tag d r.value z a)) :
    t.qw = s.qw := by
  rw [h.watch, ← h.qw, h.sample]
  split
  · next on => rw [takeSample_passed (fun a is => not a ⟨on, is⟩)]
  · rfl

theorem taken (h : Seen p rule r d s z y t) (on : rule.destinations.queue = true) {a : Approach}
    (is : Sampled p rule.tag d r.value z a) :
    y = changeApproach p a ((s.approach p a).sampled (s.qw.limitsOf a) r.value (earlier s.now r.age)) z := by
  have approach : z.approach p a = s.approach p a := approach_congr (by rw [h.qw]) p a
  rw [h.sample, if_pos on, takeSample_taken h.live h.served is, approach, h.qw]

theorem counts (h : Seen p rule r d s z y t) :
    let counted := rule.destinations.demand = true ∧ 1 ≤ rule.tag ∧ rule.tag ≤ 4
    (counted → d = .inbound →
      t.ps = { s.ps with inboundAccumulator := min 65535 (s.ps.inboundAccumulator + r.value * rule.tag) }) ∧
    (counted → d = .outbound →
      t.ps = { s.ps with outboundAccumulator := min 65535 (s.ps.outboundAccumulator + r.value * rule.tag) }) ∧
    ((¬ counted ∨ d = .none) → t.ps = s.ps) := by
  have live : y.isLive = true := (Delivered.ofBeside h.beside).isLive.trans h.live
  have same : y.ps = s.ps := h.beside.ps.trans h.ps
  refine ⟨fun ⟨on, tag⟩ way => ?_, fun ⟨on, tag⟩ way => ?_, fun not => ?_⟩
  · rw [h.select, if_pos on, (takeCount_taken live tag).1 way, same]
  · rw [h.select, if_pos on, (takeCount_taken live tag).2 way, same]
  · rw [h.select, ← same]
    split
    · next on => rw [takeCount_passed r.value y (not.imp_left (fun not tag => not ⟨on, tag⟩))]
    · rfl

end Seen

/-- The record after a sample (R69, R70, R75). -/
theorem sampled_eq (old : ApproachRecord) (l : QueueLimits) (value : Nat) (arrived : Time) :
    let v := match old.heard with
      | none => value
      | some h => moveToward h.smoothed value (2 ^ l.exponent)
    let last := match old.heard with
      | none => arrived
      | some h => if before h.lastSample arrived then arrived else h.lastSample
    let falling : QueueState := if v < l.buildingOn - l.hysteresis then .clear else .building
    let state : QueueState := match old.state with
      | .blocked => if v < l.blockedOn - l.hysteresis then falling else .blocked
      | .building => if l.blockedOn ≤ v then .blocked else falling
      | _ => if v < l.buildingOn then .clear else if v < l.blockedOn then .building else .blocked
    old.sampled l value arrived =
      { state := state, worst := worseOf old.worst state,
        heard := some { smoothed := v, lastSample := last, silence := later last 300 } } := by
  intro v last falling state
  have settled : classify l v old.state = state := classify_eq l v old.state
  have become : old.sampled l value arrived =
      old.become (classify l v old.state) (some { smoothed := v, lastSample := last, silence := later last 300 }) := rfl
  rw [become, settled]
  rfl

theorem limitsOf_eq (qw : Watch) (a : Approach) : qw.limitsOf a = if a = .side then qw.sideLimits else qw.arterialLimits := by
  cases a <;> rfl

/-- Settles O45. -/
theorem samplesSilenceAndCountsTaken : Obligations.SamplesSilenceAndCountsTaken := by
  unfold Obligations.SamplesSilenceAndCountsTaken
  refine ⟨fun p x reply r d rule s reports rules => ?_, fun p a h s heard due => ?_⟩
  · intro sampled
    obtain ⟨z, y, t, seen, run, stores⟩ := exec_status_seen reports rules
    refine ⟨t, run, stores, fun not => ?_, fun a is => ?_, seen.counts⟩
    · exact seen.passed (fun a ⟨on, is⟩ => not a ⟨on, (seen.sampled_iff a).1 is⟩)
    · intro limits old arrived v last falling state blocked next
      obtain ⟨on, is⟩ := is
      obtain ⟨fresh, defined⟩ : ∃ fresh, fresh = (s.approach p a).sampled (s.qw.limitsOf a) r.value (earlier s.now r.age) := ⟨_, rfl⟩
      have record : fresh = { state := state, worst := worseOf old.worst state,
                              heard := some { smoothed := v, lastSample := last, silence := later last 300 } } := by
        rw [defined, limitsOf_eq]
        exact sampled_eq old limits r.value arrived
      have classified : fresh.state = state := congrArg ApproachRecord.state record
      have watch : t.qw = (changeApproach p a fresh z).qw := by
        rw [seen.watch, seen.taken on ((seen.sampled_iff a).2 is), defined]
      have stood (q : Pos) (b : Approach) : z.approach q b = s.approach q b := approach_congr (congrArg Watch.approaches seen.qw) q b
      have approaches (q : Pos) (b : Approach) : t.approach q b = if q = p ∧ b = a then fresh else s.approach q b := by
        rw [approach_congr (congrArg Watch.approaches watch), changeApproach_approach, stood]
      obtain ⟨steady, risks⟩ := changeApproach_gridlock p a fresh z
      rw [← watch, stood, classified] at steady risks
      have neighbour (b : Approach) (q : Option Pos) : next b q = blockedNext t b q := by
        cases q <;> rfl
      refine ⟨((approaches p a).trans (if_pos ⟨rfl, rfl⟩)).trans record, fun q b other => (approaches q b).trans (if_neg ?_), fun q => ?_,
        fun same => ?_, fun changed q => ?_⟩
      · rintro ⟨here, same⟩
        exact other.elim (fun not => not here) (fun not => not same)
      · rw [neighbour, neighbour]
        exact overlays_eq t q
      · rw [steady same, seen.qw]
      · rw [neighbour, neighbour]
        exact (risks changed q).trans (gridlockAt_eq t q)
  · have silent : approachSilent s p a = true := by
      unfold approachSilent
      rw [heard]
      exact beq_iff_eq.2 due
    have run : exec (.approachSilenceExpiry p a) s = .next (finish (expireSilence p a s)) :=
      congrArg Host.Outcome.next (Identifications.whenDue_due silent)
    have settled := settles_finish (expireSilence p a s)
    have beside := changeApproach_beside p a ((s.approach p a).become .unknown none) s
    have unknown : (s.approach p a).become .unknown none = { state := .unknown, worst := (s.approach p a).worst, heard := none } := by
      have kept : worseOf (s.approach p a).worst .unknown = (s.approach p a).worst := if_neg (Nat.not_lt_zero _)
      unfold ApproachRecord.become
      rw [kept]
    have approaches (q : Pos) (b : Approach) : (finish (expireSilence p a s)).approach q b =
        if q = p ∧ b = a then { state := .unknown, worst := (s.approach p a).worst, heard := none } else s.approach q b := by
      rw [approach_congr (congrArg Watch.approaches settled.qw), ← unknown]
      exact changeApproach_approach p q a b _ s
    refine ⟨_, run, (approaches p a).trans (if_pos ⟨rfl, rfl⟩), fun q b other => (approaches q b).trans (if_neg ?_),
      settled.oc.trans beside.oc, settled.pt.trans (changeApproach_pt _ _ _ _), settled.pm.trans beside.pm,
      settled.ps.trans beside.ps, settled.er.trans beside.er, ?_⟩
    · rintro ⟨here, same⟩
      exact other.elim (fun not => not here) (fun not => not same)
    · exact Host.Outcome.next.inj run ▸ (Moves.approachEvent (rt := false) p a (.refl s)).leavesStores

end Sys2Proof.Proofs.SampleRecords
end

section
/-! PROOF. Records on the fixed route: what the Priority Manager finds, and a UNIT-FAULT (used by O46, O47 and O49). -/

open Sys2Proof Sys2Proof.Machine

namespace Sys2Proof.Proofs.FixedRecords

open Roads Offers StatusReplies Records OneRecord

/-! ### A record on the fixed route -/

/-- The fixed route has counted a record (R161). -/
def fixedCounted (s : State) : State :=
  { s with er := { s.er with fixedCount := saturate Config.countLimit (s.er.fixedCount + 1) } }

section
variable {p : Pos} {reply : StatusFields} {r : EventRecord} {s u v y w t : State} {d : EventDirection}

theorem routed_call (h : Carried p reply r s u v y w t) (fixed : fixedRecord r .preemptCall d) :
    y = preemptCall p d (fixedCounted v) := h.routed.trans (routeRecord_fixed fixed)

theorem routed_clear (h : Carried p reply r s u v y w t) (fixed : fixedRecord r .preemptClear d) :
    y = preemptClear p (fixedCounted v) := h.routed.trans (routeRecord_fixed fixed)

theorem routed_transit (h : Carried p reply r s u v y w t) (fixed : fixedRecord r .transitCall d) :
    y = transitCall p d r.value r.extra (fixedCounted v) := h.routed.trans (routeRecord_fixed fixed)

theorem routed_fault (h : Carried p reply r s u v y w t) (fixed : fixedRecord r .unitFault d) :
    y = raiseNotice (.detectorEvent p none (reportOf { kind := .unitFault, direction := d, record := r } (eventTime v.now r)))
      (unitFault p (fixedCounted v)) := h.routed.trans (routeRecord_fixed fixed)

/-- Without the PREEMPTING flag and a local call nothing is judged. -/
theorem unjudged (h : Carried p reply r s u v y w t) (flag : bit reply.flags 1 = false) (free : ∀ d, y.owner p ≠ .localCall d) :
    w = accept p r y := by
  rw [h.judged, flag]
  exact judgePreempting_uncalled (s := accept p r y) free

/-- What a record on the fixed route leaves. -/
theorem fixed_kept (h : Carried p reply r s u v y w t) (managed : Managed (fixedCounted v) y) :
    (finish t).pt = s.pt ∧ (finish t).qw = s.qw ∧ (finish t).ps = s.ps :=
  ⟨h.final_pt.trans (managed.pt.trans h.pt), h.final_qw.trans (managed.qw.trans h.qw), h.final_ps.trans (managed.ps.trans h.ps)⟩

end

/-! ### The room for a ROUTE-END (R136, R138) -/

/-- A clearance command finds a place: the queue is not full, or holds an entry of a lower class. -/
def Roomy (s : State) : Prop := s.clc.queue.length < 24 ∨ ∃ e ∈ s.clc.queue, e.onLine = false ∧ e.rank < 4

theorem Roomy.same {s t : State} (h : Roomy s) (queue : t.clc.queue = s.clc.queue) : Roomy t := by
  unfold Roomy
  rw [queue]
  exact h

/-- An offer leaves room, or stands itself in the queue. -/
theorem offerEntry_roomy {e : QueueEntry} (off : e.onLine = false) (low : e.rank < 4) {s : State} (h : s.clc.queue.length < 24) :
    Roomy (offerEntry e s).1 := by
  have joined (q : List QueueEntry) : Roomy (s.withQueue (joinQueue e q)) :=
    .inr ⟨e, mem_joinQueue.2 (.inl rfl), off, low⟩
  unfold offerEntry
  dsimp only
  split
  · exact .inl h
  · split
    · exact .inl h
    · split
      · exact joined _
      · rw [if_pos (show s.clc.queue.length < Config.queueCapacity from h)]
        exact joined _

theorem leaveToLocal_roomy {p : Pos} {reason : LocalReason} {s : State} (h : s.clc.queue.length < 24) :
    Roomy (leaveToLocal p reason true s) := by
  unfold leaveToLocal
  dsimp only
  rw [if_pos rfl]
  unfold offerTo
  split
  · exact .inl (lt_of_le_of_lt (List.length_filter_le _ _) h)
  · exact offerEntry_roomy rfl (by exact Nat.zero_lt_succ 3) (lt_of_le_of_lt (List.length_filter_le _ _) h)

theorem takeReason_queue (p : Pos) (reason : LocalReason) (s : State) : (takeReason p reason s).clc.queue = s.clc.queue := by
  unfold takeReason
  split <;> rfl

theorem fieldLocalClear_queue (p : Pos) (s : State) : (fieldLocalClear p s).clc.queue = s.clc.queue := by
  unfold fieldLocalClear
  dsimp only
  split
  · exact takeReason_queue p _ _
  · rfl

theorem followField_roomy {p : Pos} {flag : Bool} {s : State} (h : s.clc.queue.length < 24) : Roomy (followField p flag s) := by
  have room : Roomy s := .inl h
  cases flag with
  | false => exact room.same (fieldLocalClear_queue p s)
  | true =>
    change Roomy (fieldLocalSet p s)
    unfold fieldLocalSet
    dsimp only
    split
    · exact room
    · exact room.same (takeReason_queue p _ _)
    · exact room.same (takeReason_queue p _ _)
    · exact room.same (takeReason_queue p _ _)
    · exact room
    · exact leaveToLocal_roomy h

theorem rank_routeClear {e : QueueEntry} (h : e.command.isRouteClear = true) : e.rank = 4 := by
  unfold LineCommand.isRouteClear at h
  split at h
  · next is => exact congrArg (fun c : LineCommand => classRank c.commandClass) is
  · exact absurd h Bool.false_ne_true

theorem Roomy.withdrawClear {s : State} (h : Roomy s) (p : Pos) : Roomy (withdrawClear p s) := by
  rcases h with room | ⟨e, he, off, low⟩
  · exact .inl (lt_of_le_of_lt (List.length_filter_le _ _) room)
  · refine .inr ⟨e, List.mem_filter.2 ⟨he, ?_⟩, off, low⟩
    have other : e.command.isRouteClear = false := Bool.eq_false_iff.2 (fun clears => by
      have top := rank_routeClear clears
      omega)
    simp [other]

theorem evictYoungest_present {r : Nat} {q : List QueueEntry} (h : ∃ x ∈ q, x.onLine = false ∧ x.rank = r) :
    ∃ victim rest, evictYoungest r q = (some victim, rest) := by
  induction q with
  | nil =>
    obtain ⟨x, hx, -⟩ := h
    nomatch hx
  | cons e q ih =>
    unfold evictYoungest
    by_cases later : ∃ x ∈ q, x.onLine = false ∧ x.rank = r
    · obtain ⟨victim, rest, is⟩ := ih later
      rw [is]
      exact ⟨_, _, rfl⟩
    · obtain ⟨x, hx, off, rank⟩ := h
      rw [evictYoungest_absent (fun y hy hoff hrank => later ⟨y, hy, hoff, hrank⟩)]
      rcases List.mem_cons.1 hx with rfl | hx
      · dsimp only
        rw [if_pos (by simp [off, rank])]
        exact ⟨_, _, rfl⟩
      · exact absurd ⟨x, hx, off, rank⟩ later

theorem lowestRank_attained {q : List QueueEntry} (h : lowestRank q < 5) : ∃ x ∈ q, x.onLine = false ∧ x.rank = lowestRank q := by
  have above : ¬ lowestRank q + 1 ≤ lowestRank q := by omega
  rw [le_lowestRank (by omega)] at above
  simp only [not_forall, not_le] at above
  obtain ⟨x, hx, off, low⟩ := above
  have least := (le_lowestRank (n := lowestRank q) (by omega) q).1 le_rfl x hx off
  exact ⟨x, hx, off, by omega⟩

/-- An eviction spares the entries of other ranks. -/
theorem evictYoungest_spares {r : Nat} {q rest : List QueueEntry} {victim : QueueEntry} (h : evictYoungest r q = (some victim, rest))
    {x : QueueEntry} (hx : x ∈ q) (other : x.rank ≠ r) : x ∈ rest := by
  induction q generalizing victim rest with
  | nil => nomatch hx
  | cons e q ih =>
    unfold evictYoungest at h
    split at h
    · next later rest' is =>
      cases h
      rcases List.mem_cons.1 hx with rfl | hx
      · exact List.mem_cons_self
      · exact List.mem_cons_of_mem e (ih is hx)
    · split at h
      · next here =>
        cases h
        rcases List.mem_cons.1 hx with rfl | hx
        · exact absurd (beq_iff_eq.1 (Bool.and_eq_true _ _ ▸ here).2) other
        · exact hx
      · nomatch h

/-- A clearance command finds a place: in the free room, or in that of an entry that is no clearance. -/
theorem offerEntry_clearance {e : QueueEntry} (is : e.command.commandClass = .clearance) {s : State} (live : s.isLive = true)
    (room : Roomy s) :
    (offerEntry e s).2 = true ∧ e ∈ (offerEntry e s).1.clc.queue ∧
      (∀ x ∈ s.clc.queue, x.rank = 4 → x ∈ (offerEntry e s).1.clc.queue) ∧
      (s.clc.queue.length < 24 → (offerEntry e s).1.clc.queue = joinQueue e s.clc.queue) ∧
      (24 ≤ s.clc.queue.length → (offerEntry e s).1.clc.queue.length ≤ s.clc.queue.length) := by
  have rank : e.rank = 4 := congrArg classRank is
  have local' : e.command ≠ .runLocal := fun e => by rw [e] at is; nomatch is
  have plain (x : QueueEntry) : replaces e.command e.position x ≠ true := by
    unfold replaces
    split <;> next e => first | (rw [e] at is; nomatch is) | exact Bool.false_ne_true
  obtain ⟨free, -, evicts⟩ := offerEntry_room (e := e) (offerOpen_live live _) (fun both => local' both.1) (fun x _ => plain x)
  by_cases full : s.clc.queue.length < 24
  · rw [free full]
    exact ⟨rfl, mem_joinQueue.2 (.inl rfl), fun x hx _ => mem_joinQueue.2 (.inr hx), fun _ => rfl, fun long => absurd long (by omega)⟩
  · obtain ⟨x, hx, off, low⟩ := room.resolve_left full
    have lowest : lowestRank s.clc.queue < 4 := by
      by_contra high
      have above := (le_lowestRank (n := 4) (by decide) s.clc.queue).1 (not_lt.1 high) x hx off
      omega
    obtain ⟨victim, rest, evicted⟩ := evictYoungest_present (lowestRank_attained (by omega : lowestRank s.clc.queue < 5))
    have shorter := (evictYoungest_some evicted).2
    rw [evicts victim rest (not_lt.1 full) (by omega) evicted]
    dsimp only
    rw [Roads.Keeps.evicted_queue]
    refine ⟨rfl, mem_joinQueue.2 (.inl rfl), fun y hy top => ?_, fun short => absurd short full, fun _ => ?_⟩
    · exact mem_joinQueue.2 (.inr (evictYoungest_spares evicted hy (by omega)))
    · rw [State.withQueue_queue, joinQueue_length]
      exact shorter

theorem offerTo_routeEnd {p : Pos} {route : Option RouteRef} {s : State} (live : s.isLive = true) (configured : s.config.get p ≠ none)
    (room : Roomy s) :
    (offerTo .routeEnd p route s).2 = true ∧
      ∃ e ∈ (offerTo .routeEnd p route s).1.clc.queue, e.position = some p ∧ e.command = .routeEnd := by
  obtain ⟨cfg, at'⟩ := Option.ne_none_iff_exists'.1 configured
  unfold offerTo
  rw [at']
  dsimp only
  obtain ⟨taken, member, -⟩ := offerEntry_clearance (s := s)
    (e := { command := .routeEnd, address := cfg.address, position := some p, route := route, joined := s.now, attempts := 0,
            onLine := false }) rfl live room
  exact ⟨taken, _, member, rfl, rfl⟩

/-! ### A UNIT-FAULT (R94) -/

/-- The part when the budget has been raised to the recovery setting. -/
def raised (k : Pos) (s : State) : State :=
  if s.budget k < s.pm.policy.recovery then s.withBudget k s.pm.policy.recovery else s

theorem raised_pm (k : Pos) (s : State) :
    (raised k s).pm = { s.pm with budgets := s.pm.budgets.set k.val (max (s.budget k) s.pm.policy.recovery) } := by
  unfold raised
  split
  · next low =>
    exact congrArg (fun n => { s.pm with budgets := s.pm.budgets.set k.val n }) (max_eq_right (le_of_lt low)).symm
  · next high =>
    have same : s.pm.budgets.set k.val (s.budget k) = s.pm.budgets := Vector.set_getElem_self k.isLt
    rw [max_eq_left (not_lt.1 high), same]

theorem raised_rest (k : Pos) (s : State) : ∃ pm, raised k s = { s with pm := pm } := by
  unfold raised
  split
  · exact ⟨_, rfl⟩
  · exact ⟨s.pm, rfl⟩

theorem unitFault_stranger {k : Pos} {s : State} (live : s.isLive = true) (h : s.pm.isMember k = false) :
    unitFault k s = raised k s := by
  have none : (raised k s).pm.routes.find? (fun r => r.members.any (fun m => m.position == k)) = none := by
    rw [raised_pm]
    exact List.find?_eq_none.2 (fun r hr is => Bool.false_ne_true (h.symm.trans (List.any_eq_true.2 ⟨r, hr, is⟩)))
  unfold unitFault
  rw [if_pos live]
  exact (congrArg (fun found : Option Route => match found with
    | Option.none => raised k s
    | some r => (sendEnd k r.ref (leaveRoute k (raised k s))).1) none :)

theorem unitFault_member {k : Pos} {s : State} (live : s.isLive = true) (h : s.pm.isMember k = true) :
    ∃ ref, unitFault k s = (sendEnd k ref (leaveRoute k (raised k s))).1 := by
  obtain ⟨r, hr, is⟩ := List.any_eq_true.1 h
  obtain ⟨found, first⟩ := Option.isSome_iff_exists.1
    (List.find?_isSome (p := fun r : Route => r.members.any (fun m => m.position == k)).2 ⟨r, hr, is⟩)
  have here : (raised k s).pm.routes.find? (fun r => r.members.any (fun m => m.position == k)) = some found := by
    rw [raised_pm]
    exact first
  refine ⟨found.ref, ?_⟩
  unfold unitFault
  rw [if_pos live]
  exact (congrArg (fun found : Option Route => match found with
    | Option.none => raised k s
    | some r => (sendEnd k r.ref (leaveRoute k (raised k s))).1) here :)

end Sys2Proof.Proofs.FixedRecords
end

section
/-! PROOF. A UNIT-FAULT and a TRANSIT-CALL (O47). -/

open Sys2Proof Sys2Proof.Machine

namespace Sys2Proof.Proofs.FaultsAndCalls

open Roads Offers StatusReplies Records OneRecord FixedRecords

section
variable {p : Pos} {reply : StatusFields} {r : EventRecord} {s u v y w t : State} {d : EventDirection}

/-- Without the PREEMPTING flag and a local call the Priority Manager ends as the record left it. -/
theorem final_unjudged (h : Carried p reply r s u v y w t) (flag : bit reply.flags 1 = false) (free : ∀ d, y.owner p ≠ .localCall d) :
    (finish t).pm = y.pm ∧ t.clc.queue = y.clc.queue := by
  have is := unjudged h flag free
  refine ⟨h.final_pm.trans (by rw [is]; rfl), ?_⟩
  rw [h.last.only.clc, is]
  rfl

end

/-! ### A UNIT-FAULT (R94) -/

theorem sendEnd_owner (p : Pos) (ref : RouteRef) (s : State) :
    (sendEnd p ref s).1.owner p = s.owner p ∨ (sendEnd p ref s).1.owner p = .none := by
  have offered : (offerTo .routeEnd p (some ref) (withdrawClear p s)).1.owner p = s.owner p :=
    congrArg (fun pm : Priority => pm.owners.get p) (Offered.offerTo _ p _ _).pm
  unfold sendEnd
  dsimp only
  split
  · exact .inl offered
  · unfold handBack
    split
    · exact .inr (by rw [setOwner_owner, if_pos rfl])
    · exact .inl offered

theorem sendEnd_taken {p : Pos} (ref : RouteRef) {s : State} (live : s.isLive = true) (configured : s.config.get p ≠ none)
    (room : Roomy s) :
    (sendEnd p ref s).1.pm = s.pm ∧ ∃ e ∈ (sendEnd p ref s).1.clc.queue, e.position = some p ∧ e.command = .routeEnd := by
  obtain ⟨taken, member⟩ := offerTo_routeEnd (p := p) (route := some ref) (s := withdrawClear p s) live configured (room.withdrawClear p)
  unfold sendEnd
  dsimp only
  rw [if_pos taken]
  exact ⟨(Offered.offerTo _ p _ _).pm, member⟩

/-- The effects of a UNIT-FAULT. -/
theorem unitFault_effects {k : Pos} {s : State} (live : s.isLive = true) :
    let t := unitFault k s
    t.pm.budgets = s.pm.budgets.set k.val (max (s.budget k) s.pm.policy.recovery) ∧ (∀ q, q ≠ k → t.owner q = s.owner q) ∧
      (t.owner k = s.owner k ∨ t.owner k = .none) ∧
      (s.pm.isMember k = false → t.pm.routes = s.pm.routes ∧ t.owner k = s.owner k) ∧
      (s.pm.isMember k = true →
        t.pm.routes = s.pm.routes.map (fun r => { r with members := r.members.filter (fun m => m.position != k) }) ∧
        (Roomy s → s.config.get k ≠ none → t.owner k = s.owner k ∧
          ∃ e ∈ t.clc.queue, e.position = some k ∧ e.command = .routeEnd)) := by
  intro t
  have start := raised_pm k s
  have owner (q : Pos) : (leaveRoute k (raised k s)).owner q = s.owner q :=
    (congrArg (fun pm : Priority => pm.owners.get q) start :)
  cases member : s.pm.isMember k with
  | false =>
    have is : t.pm = _ := (congrArg State.pm (unitFault_stranger live member)).trans start
    have same (q : Pos) : t.owner q = s.owner q := (congrArg (fun pm : Priority => pm.owners.get q) is :)
    exact ⟨by rw [is], fun q _ => same q, .inl (same k), fun _ => ⟨by rw [is], same k⟩, nofun⟩
  | true =>
    obtain ⟨ref, is⟩ := unitFault_member live member
    obtain ⟨pm, rest⟩ := raised_rest k s
    have road : Road false (· = k) (fun _ => True) (leaveRoute k (raised k s)) t :=
      (show t = _ from is) ▸ Road.sendEnd (A := (· = k)) rfl trivial trivial ref _
    have routes : t.pm.routes = (leaveRoute k (raised k s)).pm.routes := (congrArg (fun x : State => x.pm.routes) is).trans
      (StatusReplies.sendEnd_routes k ref _)
    have owner' : t.owner k = s.owner k ∨ t.owner k = .none := by
      rw [← owner k, show t = _ from is]
      exact sendEnd_owner k ref _
    refine ⟨road.budgets.trans (congrArg Priority.budgets start), fun q hq => (road.owner q hq).trans (owner q), owner', nofun,
      fun _ => ⟨routes.trans ?_, fun room configured => ?_⟩⟩
    · exact congrArg (fun pm : Priority => pm.routes.map (fun r => r.without k)) start
    · have live' : (leaveRoute k (raised k s)).isLive = true := by
        rw [rest]
        exact live
      have configured' : (leaveRoute k (raised k s)).config.get k ≠ none := by
        rw [rest]
        exact configured
      have room' : Roomy (leaveRoute k (raised k s)) := room.same (by rw [rest]; rfl)
      obtain ⟨pm', queued⟩ := sendEnd_taken ref live' configured' room'
      rw [← is] at pm' queued
      exact ⟨(congrArg (fun pm : Priority => pm.owners.get k) pm').trans (owner k), queued⟩

/-- The first part of O47. -/
theorem fault_taken {p : Pos} {x : Exchange} {reply : StatusFields} {r : EventRecord} {d : EventDirection} {s : State}
    (reports : Reports s x p reply r) (fixed : fixedRecord r .unitFault d) (flag : bit reply.flags 1 = false)
    (free : ∀ d, s.owner p ≠ .localCall d) :
    ∃ t, exec (.status x.address reply) s = .next t ∧ LeavesStores s t ∧ t.pt = s.pt ∧ t.qw = s.qw ∧ t.ps = s.ps ∧
      t.budget p = max (s.budget p) s.pm.policy.recovery ∧ (∀ q, q ≠ p → t.budget q = s.budget q ∧ t.owner q = s.owner q) ∧
      (s.pm.isMember p = false → t.pm.routes = s.pm.routes ∧ t.owner p = s.owner p) ∧
      (s.pm.isMember p = true →
        t.pm.routes = s.pm.routes.map (fun r => { r with members := r.members.filter (fun m => m.position != p) }) ∧
        (s.clc.queue.length < 24 → s.config.get p ≠ none → t.owner p = s.owner p ∧
          ∃ e ∈ t.clc.queue, e.position = some p ∧ e.command = .routeEnd)) := by
  obtain ⟨u, v, y, w, t, carried, run, stores⟩ := exec_status_carried reports
  have routed := routed_fault carried fixed
  have managed : Managed (fixedCounted v) y := routed ▸ (Managed.unitFault p _).trans (.raiseNotice _ _)
  obtain ⟨pt, qw, ps⟩ := fixed_kept carried managed
  obtain ⟨budgets, others, own, stranger, member⟩ := unitFault_effects (k := p) (s := fixedCounted v) carried.isLive
  have here : y.pm = (unitFault p (fixedCounted v)).pm ∧ y.clc = (unitFault p (fixedCounted v)).clc := by
    rw [routed]
    exact ⟨rfl, rfl⟩
  have pm : (fixedCounted v).pm = s.pm := carried.pm
  have owner (q : Pos) : (fixedCounted v).owner q = s.owner q := carried.owner q
  have after (q : Pos) : y.owner q = (unitFault p (fixedCounted v)).owner q := congrArg (fun pm : Priority => pm.owners.get q) here.1
  have uncalled : ∀ d, y.owner p ≠ .localCall d := fun d is => by
    rw [after] at is
    rcases own with same | none
    · exact free d (((owner p).symm.trans same.symm).trans is)
    · exact nomatch none.symm.trans is
  obtain ⟨final, queue⟩ := final_unjudged carried flag uncalled
  have last : (finish t).pm = (unitFault p (fixedCounted v)).pm := final.trans here.1
  have finalOwner (q : Pos) : (finish t).owner q = (unitFault p (fixedCounted v)).owner q :=
    congrArg (fun pm : Priority => pm.owners.get q) last
  have finalBudget (q : Pos) : (finish t).budget q =
      (s.pm.budgets.set p.val (max (s.budget p) s.pm.policy.recovery)).get q := by
    unfold State.budget at budgets ⊢
    rw [last, budgets, pm]
  rw [pm] at stranger member
  refine ⟨_, run, stores, pt, qw, ps, ?_, fun q hq => ⟨?_, ?_⟩, fun apart => ?_, fun is => ?_⟩
  · rw [finalBudget, get_set, if_pos rfl]
  · rw [finalBudget, get_set, if_neg (fun e => hq e.symm)]
    rfl
  · rw [finalOwner, others q hq, owner]
  · obtain ⟨routes, own⟩ := stranger apart
    exact ⟨by rw [last, routes], by rw [finalOwner, own, owner]⟩
  · obtain ⟨routes, sent⟩ := member is
    refine ⟨by rw [last, routes], fun room configured => ?_⟩
    have roomy : Roomy (fixedCounted v) := by
      have road := followField_roomy (p := p) (flag := bit reply.flags 0) (lt_of_le_of_lt carried.good.queueLength room)
      rw [← carried.field] at road
      exact road
    obtain ⟨own, e, he, position, command⟩ := sent roomy (by
      rw [show (fixedCounted v).config = s.config from carried.config]
      exact configured)
    have stays : e ∈ t.clc.queue := by
      rw [queue, here.2]
      exact he
    obtain ⟨e', he', core⟩ := stays_finish stays (by rw [command]; nofun)
    exact ⟨by rw [finalOwner, own, owner], e', he', (core_position core).trans position, (core_command core).trans command⟩

/-! ### A TRANSIT-CALL (R96, R97) -/

/-- What R96 asks of a position before it grants. -/
def Eligible (s : State) (k : Pos) : Prop :=
  (s.ident k).mode = some .full ∧ (s.ident k).abilities.map Abilities.priority = some true ∧ steered (s.coord k).state = true ∧
    (s.health k).state = .sound ∧ extensionAt s k ≠ 0

/-- An overlay that denies stands. -/
def Overlaid (s : State) (k : Pos) : Prop := (s.qw.overlays k).flush = true ∨ (s.qw.overlays k).gate = true

theorem eligible_iff (s : State) (k : Pos) :
    ¬ Eligible s k ↔ ((s.ident k).mode ≠ some .full ∨ (match (s.ident k).abilities with
      | some a => a.priority
      | none => false) = false ∨ steered (s.coord k).state = false ∨ (s.health k).state ≠ .sound ∨ extensionAt s k = 0) := by
  unfold Eligible
  have able : (s.ident k).abilities.map Abilities.priority = some true ↔ (match (s.ident k).abilities with
      | some a => a.priority
      | none => false) = true := by
    cases (s.ident k).abilities with
    | none => simp
    | some a => simp
  rw [able]
  simp only [not_and_or, Bool.not_eq_true, not_not, ne_eq]

theorem denial_preempted {s : State} {k : Pos} (h : s.owner k ≠ .none ∨ (s.coord k).state = .preempted) :
    denial s k = some .preempted := if_pos h

theorem denial_ineligible {s : State} {k : Pos} (free : s.owner k = .none) (calm : (s.coord k).state ≠ .preempted)
    (h : ¬ Eligible s k) : denial s k = some .notEligible := by
  unfold denial
  dsimp only
  exact (if_neg (not_or.2 ⟨not_not.2 free, calm⟩)).trans (if_pos ((eligible_iff s k).1 h))

section
variable {s : State} {k : Pos}

theorem Eligible.calm (h : Eligible s k) : (s.coord k).state ≠ .preempted := fun is => by
  obtain ⟨-, -, steers, -⟩ := h
  rw [is] at steers
  exact Bool.false_ne_true steers

theorem denial_eligible (free : s.owner k = .none) (h : Eligible s k) :
    denial s k = if (s.qw.overlays k).flush ∨ (s.qw.overlays k).gate then some .overlay
      else if s.budget k > 0 then some .budget else none := by
  unfold denial
  dsimp only
  exact (if_neg (not_or.2 ⟨not_not.2 free, h.calm⟩)).trans (if_neg (fun not => (eligible_iff s k).2 not h))

theorem denial_overlay (free : s.owner k = .none) (h : Eligible s k) (over' : Overlaid s k) : denial s k = some .overlay := by
  rw [denial_eligible free h]
  exact if_pos over'

theorem denial_budget (free : s.owner k = .none) (h : Eligible s k) (clear : ¬ Overlaid s k) (spent : 0 < s.budget k) :
    denial s k = some .budget := by
  rw [denial_eligible free h]
  exact (if_neg clear).trans (if_pos spent)

theorem denial_none (free : s.owner k = .none) (h : Eligible s k) (clear : ¬ Overlaid s k) (ready : s.budget k = 0) :
    denial s k = none := by
  rw [denial_eligible free h]
  exact (if_neg clear).trans (if_neg (by omega))

/-- The entry of an answer to a TRANSIT-CALL. -/
def answerEntry (answer : TransitAnswer) (cfg : PositionConfig) (k : Pos) (s : State) : QueueEntry :=
  { command := .priorityAnswer answer, address := cfg.address, position := some k, route := none, joined := s.now, attempts := 0,
    onLine := false }

theorem offerTo_answer {answer : TransitAnswer} {cfg : PositionConfig} (configured : s.config.get k = some cfg) :
    offerTo (.priorityAnswer answer) k none s = offerEntry (answerEntry answer cfg k s) s := by
  unfold offerTo
  rw [configured]
  rfl

/-- An answer goes by the room in the queue (R138). -/
theorem offerTo_answer_room (answer : TransitAnswer) {cfg : PositionConfig} (live : s.isLive = true)
    (configured : s.config.get k = some cfg) :
    (s.clc.queue.length < 24 → offerTo (.priorityAnswer answer) k none s =
        (s.withQueue (joinQueue (answerEntry answer cfg k s) s.clc.queue), true)) ∧
      (24 ≤ s.clc.queue.length → (∀ e ∈ s.clc.queue, 2 ≤ e.rank) → offerTo (.priorityAnswer answer) k none s = (s, false)) := by
  obtain ⟨room, full, -⟩ := offerEntry_room (e := answerEntry answer cfg k s) (offerOpen_live live _) (fun both => nomatch both.1)
    (fun _ _ is => nomatch is)
  rw [offerTo_answer configured]
  exact ⟨room, fun long high => full long ((le_lowestRank (by exact Nat.le_of_ble_eq_true rfl) _).2 (fun e he _ => high e he))⟩

theorem transitCall_denied {reason : DenyReason} {d : EventDirection} {arrival extra : Nat} (live : s.isLive = true)
    (h : denial s k = some reason) :
    ∃ body, transitCall k d arrival extra s = raiseNotice body (offerTo (.priorityAnswer (.deny reason)) k none s).1 := by
  unfold transitCall
  rw [if_pos live]
  dsimp only
  rw [h]
  exact ⟨_, rfl⟩

theorem transitCall_granted {d : EventDirection} {arrival extra : Nat} (live : s.isLive = true) (h : denial s k = none) :
    ∃ body, transitCall k d arrival extra s = raiseNotice body
      (let r := offerTo (.priorityAnswer (.grant (extensionAt s k))) k none s
       if r.2 then
         (r.1.withCoord k (fun c => { c with grant := some (extensionAt s k) })).withBudget k r.1.pm.policy.recovery
       else r.1) := by
  unfold transitCall
  rw [if_pos live]
  dsimp only
  rw [h]
  exact ⟨_, rfl⟩

end

/-- What the judgement of a TRANSIT-CALL comes to (R96, R97). -/
theorem transitCall_effects {s : State} {k : Pos} {cfg : PositionConfig} {d : EventDirection} {arrival extra : Nat}
    (live : s.isLive = true) (configured : s.config.get k = some cfg) :
    let t := transitCall k d arrival extra s
    t.pm.owners = s.pm.owners ∧
      (∀ reason, denial s k = some reason → t.pm = s.pm ∧ (t.coord k).grant = (s.coord k).grant ∧
        (s.clc.queue.length < 24 → ∃ e ∈ t.clc.queue, e.position = some k ∧ e.command = .priorityAnswer (.deny reason))) ∧
      (denial s k = none →
        (s.clc.queue.length < 24 →
          (t.coord k).grant = some (extensionAt s k) ∧ t.pm = { s.pm with budgets := s.pm.budgets.set k.val s.pm.policy.recovery } ∧
            ∃ e ∈ t.clc.queue, e.position = some k ∧ e.command = .priorityAnswer (.grant (extensionAt s k))) ∧
        (24 ≤ s.clc.queue.length → (∀ e ∈ s.clc.queue, 2 ≤ e.rank) → t.pm = s.pm ∧ (t.coord k).grant = (s.coord k).grant)) := by
  intro t
  cases judged : denial s k with
  | some reason =>
    obtain ⟨body, is⟩ := transitCall_denied (d := d) (arrival := arrival) (extra := extra) live judged
    have offered := Offered.offerTo (.priorityAnswer (.deny reason)) k none s
    have pm : t.pm = s.pm := (congrArg State.pm is).trans offered.pm
    refine ⟨congrArg Priority.owners pm, fun reason' same => ⟨pm, ?_, fun room => ?_⟩, nofun⟩
    · exact (congrArg (fun x : State => (x.coord k).grant) is).trans
        (congrArg (fun oc : Coordinator => (oc.positions.get k).grant) offered.oc)
    · cases same
      have queue : t.clc.queue = _ := (congrArg (fun x : State => x.clc.queue) is).trans
        (congrArg (fun r : State × Bool => r.1.clc.queue) ((offerTo_answer_room _ live configured).1 room))
      exact ⟨answerEntry _ cfg k s, by rw [queue]; exact mem_joinQueue.2 (.inl rfl), rfl, rfl⟩
  | none =>
    obtain ⟨body, is⟩ := transitCall_granted (d := d) (arrival := arrival) (extra := extra) live judged
    have offered := Offered.offerTo (.priorityAnswer (.grant (extensionAt s k))) k none s
    obtain ⟨takes, refuses⟩ := offerTo_answer_room (.grant (extensionAt s k)) live configured
    refine ⟨?_, nofun, fun _ => ⟨fun room => ?_, fun full high => ?_⟩⟩
    · rw [← offered.pm, show t = _ from is]
      dsimp only
      split <;> rfl
    · have taken : t = _ := is.trans (congrArg (raiseNotice body) ((congrArg (fun r : State × Bool => if r.2 then
        (r.1.withCoord k (fun c => { c with grant := some (extensionAt s k) })).withBudget k r.1.pm.policy.recovery else r.1)
        (takes room)).trans (if_pos rfl)))
      refine ⟨?_, congrArg State.pm taken, answerEntry _ cfg k s, ?_, rfl, rfl⟩
      · refine (congrArg (fun x : State => (x.coord k).grant) taken).trans ?_
        change ((State.withCoord _ k _).coord k).grant = _
        rw [State.withCoord_coord, if_pos rfl]
      · rw [show t.clc.queue = _ from congrArg (fun x : State => x.clc.queue) taken]
        exact mem_joinQueue.2 (.inl rfl)
    · have refused : t = _ := is.trans (congrArg (raiseNotice body) ((congrArg (fun r : State × Bool => if r.2 then
        (r.1.withCoord k (fun c => { c with grant := some (extensionAt s k) })).withBudget k r.1.pm.policy.recovery else r.1)
        (refuses full high)).trans (if_neg Bool.false_ne_true)))
      exact ⟨(congrArg State.pm refused :), (congrArg (fun x : State => (x.coord k).grant) refused :)⟩

/-! ### The obligation on faults and transit calls -/

/-- What a TRANSIT-CALL finds where the field-local flag is clear and no entry is on the line. -/
structure Finds (p : Pos) (s z : State) : Prop where
  live : z.isLive = true
  pm : z.pm = s.pm
  qw : z.qw = s.qw
  config : z.config = s.config
  queue : z.clc.queue = s.clc.queue
  grant : (z.coord p).grant = (s.coord p).grant
  steered : steered (z.coord p).state = steered (s.coord p).state
  preempted : (z.coord p).state = .preempted ↔ (s.coord p).state = .preempted
  mode : (z.ident p).mode = (s.ident p).mode
  abilities : (z.ident p).abilities = (s.ident p).abilities
  extension : extensionAt z p = extensionAt s p

theorem finds_transit {p : Pos} {reply : StatusFields} {r : EventRecord} {s u v y w t : State} (h : Carried p reply r s u v y w t)
    (clear : bit reply.flags 0 = false) (off : ∀ e ∈ s.clc.queue, e.onLine = false) : Finds p s (fixedCounted v) := by
  have field : v = fieldLocalClear p u := by rw [h.field, clear]; rfl
  have coord : v.coord p = { s.coord p with
      state := if (s.coord p).state = .inLocal .fieldLocal then .inLocal .awaitingMark else (s.coord p).state,
      fieldLocal := false } := by rw [field, fieldLocalClear_coord, h.good.coord]
  have limits : v.oc.limits = s.oc.limits := h.road.limits.trans (congrArg Coordinator.limits h.good.oc)
  have queue : v.clc.queue = s.clc.queue := by
    rw [field, fieldLocalClear_queue, h.good.queue]
    exact List.filter_eq_self.2 (fun e he => by rw [off e he]; rfl)
  have main (e : PlanEntry) : ungrantedMain (fixedCounted v) p e = ungrantedMain s p e := by
    unfold ungrantedMain baseMain
    rw [show (fixedCounted v).qw = s.qw from h.qw, show (fixedCounted v).oc.limits = s.oc.limits from limits,
      show ((fixedCounted v).ident p).mode = (s.ident p).mode from h.identMode p]
  refine ⟨h.isLive, h.pm, h.qw, h.config, queue, (congrArg Coord.grant coord :), ?_, ?_, h.identMode p,
    (congrArg Ident.abilities (h.ident p) :), ?_⟩
  · refine (congrArg (fun c : Coord => Machine.steered c.state) coord).trans ?_
    dsimp only
    split
    · next is => rw [is]; rfl
    · rfl
  · change (v.coord p).state = _ ↔ _
    rw [coord]
    dsimp only
    split
    · next is => rw [is]; exact ⟨nofun, nofun⟩
    · exact Iff.rfl
  · unfold extensionAt
    rw [show (fixedCounted v).imageEntry p = s.imageEntry p from h.imageEntry p,
      show (fixedCounted v).pm = s.pm from h.pm]
    simp only [main]

theorem Finds.eligible {p : Pos} {s z : State} (h : Finds p s z) :
    Eligible z p ↔ (s.ident p).mode = some .full ∧ (s.ident p).abilities.map Abilities.priority = some true ∧
      Machine.steered (s.coord p).state = true ∧ (z.health p).state = .sound ∧ extensionAt s p ≠ 0 := by
  unfold Eligible
  rw [h.mode, h.abilities, h.steered, h.extension]

/-- Settles O47. -/
theorem faultsAndTransitCallsTaken : Obligations.FaultsAndTransitCallsTaken := by
  unfold Obligations.FaultsAndTransitCallsTaken
  refine ⟨fun p x reply r d s reports fixed flag free => fault_taken reports fixed flag free,
    fun p x reply r d cfg s reports fixed clear flag free configured off => ?_⟩
  obtain ⟨u, v, y, w, t, carried, run, stores⟩ := exec_status_carried reports
  have routed := routed_transit carried fixed
  have managed : Managed (fixedCounted v) y := routed ▸ Managed.transitCall p d _ _ _
  obtain ⟨pt, qw, ps⟩ := fixed_kept carried managed
  have finds := finds_transit carried clear off
  have configured' : (fixedCounted v).config.get p = some cfg := by rw [finds.config, configured]
  obtain ⟨owners, denies, grants⟩ := transitCall_effects (d := d) (arrival := r.value) (extra := r.extra) finds.live configured'
  rw [← routed, finds.pm] at owners
  rw [← routed, finds.pm, finds.grant, finds.queue] at denies grants
  have owner (q : Pos) : y.owner q = s.owner q := congrArg (fun v : Vector Owner 12 => v.get q) owners
  obtain ⟨pm, queue⟩ := final_unjudged carried flag (fun d is => free d ((owner p).symm.trans is))
  have grant : ((finish t).coord p).grant = (y.coord p).grant := by
    obtain ⟨state, measured, settle, figures⟩ := carried.figures
    rw [Answers.finish_coord, figures, unjudged carried flag (fun d is => free d ((owner p).symm.trans is))]
    rfl
  have health : (finish t).health p = (fixedCounted v).health p := by
    rw [carried.final_health]
    exact congrArg (fun v : Vector Health 12 => v.get p) managed.outcomes.health
  have stays {answer : TransitAnswer} (is : ∃ e ∈ y.clc.queue, e.position = some p ∧ e.command = .priorityAnswer answer) :
      ∃ e ∈ (finish t).clc.queue, e.position = some p ∧ e.command = .priorityAnswer answer := by
    obtain ⟨e, he, position, command⟩ := is
    obtain ⟨e', he', core⟩ := stays_finish (queue.symm ▸ he) (by rw [command]; nofun)
    exact ⟨e', he', (core_position core).trans position, (core_command core).trans command⟩
  have free' : (fixedCounted v).owner p = s.owner p := congrArg (fun pm : Priority => pm.owners.get p) finds.pm
  have budget : (fixedCounted v).budget p = s.budget p := congrArg (fun pm : Priority => pm.budgets.get p) finds.pm
  have over' : Overlaid (fixedCounted v) p ↔ Overlaid s p := by
    unfold Overlaid
    rw [finds.qw]
  refine ⟨_, run, stores, pt, qw, ps, ?_⟩
  intro extension eligible denied overlaid
  have eligible' : Eligible (fixedCounted v) p ↔ eligible := by
    rw [finds.eligible, ← health]
    exact Iff.rfl
  have denies' {reason : DenyReason} (is : denial (fixedCounted v) p = some reason) : denied reason := by
    obtain ⟨same, kept, queued⟩ := denies reason is
    exact ⟨pm.trans same, grant.trans kept, fun room => stays (queued room)⟩
  refine ⟨fun taken => ?_, fun open' calm not => ?_, fun open' is shut => ?_, fun open' is clear spent => ?_,
    fun open' is clear ready => ?_⟩
  · exact denies' (denial_preempted (by rw [free', finds.preempted]; exact taken))
  · exact denies' (denial_ineligible (free'.trans open') (fun is => calm (finds.preempted.1 is)) (fun is => not (eligible'.1 is)))
  · exact denies' (denial_overlay (free'.trans open') (eligible'.2 is) (over'.2 shut))
  · exact denies' (denial_budget (free'.trans open') (eligible'.2 is) (fun is => clear (over'.1 is)) (by rw [budget]; exact spent))
  · obtain ⟨takes, refuses⟩ := grants (denial_none (free'.trans open') (eligible'.2 is) (fun is => clear (over'.1 is))
      (budget.trans ready))
    rw [finds.extension] at takes
    refine ⟨fun room => ?_, fun full high => ?_⟩
    · obtain ⟨extended, spent, queued⟩ := takes room
      exact ⟨grant.trans extended, pm.trans spent, stays queued⟩
    · obtain ⟨same, kept⟩ := refuses full high
      exact ⟨pm.trans same, grant.trans kept⟩

end Sys2Proof.Proofs.FaultsAndCalls
end

section
/-! PROOF. A PREEMPT-CALL: the call itself and the forming of its route (used by O46 and O49). -/

open Sys2Proof Sys2Proof.Machine

namespace Sys2Proof.Proofs.Calls

open Roads Failures Offers StatusReplies Records

/-! ### The positions ahead (R86) -/

/-- A position lies ahead of `k`. -/
def Ahead (way : Direction) (k q : Pos) : Prop :=
  match way with
  | .inbound => q.val < k.val
  | .outbound => k.val < q.val

theorem Ahead.ne {way : Direction} {k q : Pos} (h : Ahead way k q) : q ≠ k := by
  rintro rfl
  cases way <;> exact Nat.lt_irrefl _ h

theorem Ahead.trans {way : Direction} {k q r : Pos} (h : Ahead way k q) (g : Ahead way q r) : Ahead way k r := by
  cases way with
  | inbound => exact lt_trans g h
  | outbound => exact lt_trans h g

theorem downstream_ahead {way : Direction} {k q : Pos} (h : downstream way k = some q) : Ahead way k q := by
  cases way with
  | inbound =>
    unfold downstream nearer at h
    dsimp only at h
    split at h
    · cases h
      exact Nat.sub_lt (by omega) Nat.one_pos
    · nomatch h
  | outbound =>
    unfold downstream farther at h
    dsimp only at h
    split at h
    · cases h
      exact Nat.lt_succ_self k.val
    · nomatch h

theorem mem_ahead {way : Direction} {n : Nat} {k q : Pos} (h : q ∈ ahead way n k) : Ahead way k q := by
  induction n generalizing k with
  | zero => nomatch h
  | succ n ih =>
    unfold ahead at h
    cases next : downstream way k with
    | none =>
      rw [next] at h
      nomatch h
    | some r =>
      rw [next] at h
      rcases List.mem_cons.1 h with rfl | h
      · exact downstream_ahead next
      · exact (downstream_ahead next).trans (ih h)

theorem mem_candidates {s : State} {k q : Pos} {way : Direction} (h : q ∈ candidates s k way) : q ≠ k :=
  (mem_ahead (List.takeWhile_subset _ h)).ne

/-! ### The forming of a route leaves its origin -/

theorem leaveRoute_stranger {p : Pos} {s : State} (h : s.pm.isMember p = false) (q : Pos) : (leaveRoute q s).pm.isMember p = false := by
  rw [RouteEnds.isMember_iff] at h ⊢
  intro r hr m hm
  obtain ⟨x, hx, rfl⟩ := List.mem_map.1 hr
  exact h x hx m (List.mem_of_mem_filter hm)

theorem isMember_routes {s t : State} (h : t.pm.routes = s.pm.routes) (p : Pos) : t.pm.isMember p = s.pm.isMember p := by
  unfold Priority.isMember
  rw [h]

/-- The members from the first refused on leave the route (R86, R87). -/
def unformed (members : List Pos) (s : State) : State := members.foldl (fun s q => setOwner q .none (leaveRoute q s)) s

theorem offerClears_cons (ref : RouteRef) (d : Direction) (hold : Nat) (q : Pos) (rest : List Pos) (s : State) :
    offerClears ref d hold (q :: rest) s =
      if (offerTo (.routeClear d hold) q (some ref) s).2 then offerClears ref d hold rest (offerTo (.routeClear d hold) q (some ref) s).1
      else unformed (q :: rest) (offerTo (.routeClear d hold) q (some ref) s).1 := rfl

section
variable {A : Pos → Prop}

theorem unformed_road {members : List Pos} (hA : ∀ q ∈ members, A q) (s : State) :
    Road false A (fun _ => True) s (unformed members s) := by
  induction members generalizing s with
  | nil => exact .rfl' s
  | cons q rest ih =>
    obtain ⟨here, later⟩ := List.forall_mem_cons.1 hA
    exact ((Road.leaveRoute q s).trans (.setOwner here (fun _ => trivial) _)).trans (ih later _)

theorem offerClears_road (ref : RouteRef) (d : Direction) (hold : Nat) {members : List Pos} (hA : ∀ q ∈ members, A q) (s : State) :
    Road false A (fun _ => True) s (offerClears ref d hold members s) := by
  induction members generalizing s with
  | nil => exact .rfl' s
  | cons q rest ih =>
    obtain ⟨here, later⟩ := List.forall_mem_cons.1 hA
    have offered : Road false A (fun _ => True) s (offerTo (.routeClear d hold) q (some ref) s).1 := .offerTo here trivial _ s
    rw [offerClears_cons]
    split
    · exact offered.trans (ih later _)
    · exact offered.trans (unformed_road hA _)

theorem owners_road (k : Pos) (l : List Pos) (hA : ∀ q ∈ l, A q) (s : State) :
    Road false A (fun _ => True) s (l.foldl (fun s q => setOwner q (.route k) s) s) := by
  induction l generalizing s with
  | nil => exact .rfl' s
  | cons q rest ih =>
    obtain ⟨here, later⟩ := List.forall_mem_cons.1 hA
    exact (Road.setOwner here (fun _ => trivial) s).trans (ih later _)

theorem owned_road (k : Pos) (way : Direction) {members : List Pos} (hA : ∀ q ∈ members, A q) (s : State) :
    Road false A (fun _ => True) s (owned k way members s) := by
  have start : Road false A (fun _ => True) s (enrolled k way members s) := .ofPriority _ rfl rfl (fun _ _ => rfl)
  exact start.trans (owners_road k members hA _)

theorem formRoute_road {k : Pos} {d : EventDirection} {s : State} (hA : ∀ way, d = toEvent way → ∀ q ∈ candidates s k way, A q) :
    Road false A (fun _ => True) s (formRoute k d s).1 := by
  by_cases toward : ∃ way, d = toEvent way
  · obtain ⟨way, rfl⟩ := toward
    rw [formRoute_toward]
    split
    · exact .rfl' s
    · split
      · exact .rfl' s
      · split
        · exact .rfl' s
        · exact (owned_road k way (hA way rfl) s).trans (offerClears_road _ _ _ (hA way rfl) _)
  · rw [formRoute_nowhere (fun way is => toward ⟨way, is⟩)]
    exact .rfl' s

end

/-! ### The calling position stays out of every route -/

section
variable {p : Pos}

theorem unformed_stranger {s : State} (h : s.pm.isMember p = false) (members : List Pos) :
    (unformed members s).pm.isMember p = false := by
  induction members generalizing s with
  | nil => exact h
  | cons q rest ih => exact ih ((isMember_routes (setOwner_routes q .none _) p).trans (leaveRoute_stranger h q))

theorem offerClears_stranger (ref : RouteRef) (d : Direction) (hold : Nat) (members : List Pos) {s : State}
    (h : s.pm.isMember p = false) : (offerClears ref d hold members s).pm.isMember p = false := by
  induction members generalizing s with
  | nil => exact h
  | cons q rest ih =>
    have offered : (offerTo (.routeClear d hold) q (some ref) s).1.pm.isMember p = false := by
      rw [(Offered.offerTo _ q _ s).pm]
      exact h
    rw [offerClears_cons]
    split
    · exact ih offered
    · exact unformed_stranger offered _

theorem owned_routes (k : Pos) (way : Direction) (members : List Pos) (s : State) :
    (owned k way members s).pm.routes = (enrolled k way members s).pm.routes := by
  have each (l : List Pos) (u : State) : (l.foldl (fun s q => setOwner q (.route k) s) u).pm.routes = u.pm.routes := by
    induction l generalizing u with
    | nil => rfl
    | cons q rest ih => exact (ih _).trans (setOwner_routes q _ u)
  exact each members _

theorem owned_stranger {k : Pos} {way : Direction} {members : List Pos} (out : p ∉ members) {s : State}
    (h : s.pm.isMember p = false) : (owned k way members s).pm.isMember p = false := by
  rw [isMember_routes (owned_routes k way members s) p]
  rw [RouteEnds.isMember_iff] at h ⊢
  intro r hr m hm
  rcases List.mem_append.1 hr with hr | hr
  · exact h r hr m hm
  · rw [List.mem_singleton.1 hr] at hm
    obtain ⟨q, hq, rfl⟩ := List.mem_map.1 hm
    exact fun e => out (e ▸ hq)

theorem formRoute_stranger {d : EventDirection} {s : State} (h : s.pm.isMember p = false) :
    (formRoute p d s).1.pm.isMember p = false := by
  by_cases toward : ∃ way, d = toEvent way
  · obtain ⟨way, rfl⟩ := toward
    rw [formRoute_toward]
    split
    · exact h
    · split
      · exact h
      · split
        · exact h
        · exact offerClears_stranger _ _ _ _ (owned_stranger (fun is => mem_candidates is rfl) h)
  · rw [formRoute_nowhere (fun way is => toward ⟨way, is⟩)]
    exact h

end

/-! ### The call (R85) -/

/-- The calling position has left every route, and what was queued for it there is withdrawn. -/
def withdrawn (p : Pos) (s : State) : State :=
  if (withdrawClear p (leaveRoute p s)).pm.releasePending p then withdrawEnd p (withdrawClear p (leaveRoute p s))
  else withdrawClear p (leaveRoute p s)

/-- The route of which the calling position was the origin has ended. -/
def ended (p : Pos) (s : State) : State := (endRouteFrom p (withdrawn p s)).1

/-- The calling position has its call. -/
def called (p : Pos) (d : EventDirection) (s : State) : State := setOwner p (.localCall d) (ended p s)

theorem preemptCall_eq {s : State} (live : s.isLive = true) (p : Pos) (d : EventDirection) :
    preemptCall p d s =
      raiseNotice (.preemptStart p d .call (formRoute p d (called p d s)).2) (formRoute p d (called p d s)).1 := by
  unfold preemptCall
  rw [if_pos live]
  rfl

/-- Leaving the routes changes the table and the queue alone. -/
theorem withdrawn_eq (p : Pos) (s : State) :
    ∃ keeps : QueueEntry → Bool, (∀ e, keeps e = false → e.rank = 4) ∧
      withdrawn p s = (leaveRoute p s).withQueue (s.clc.queue.filter keeps) := by
  have clears (e : QueueEntry) (h : (!(e.position == some p && e.command.isRouteClear)) = false) : e.rank = 4 := by
    simp only [Bool.not_eq_false', Bool.and_eq_true] at h
    exact FixedRecords.rank_routeClear h.2
  have ends (e : QueueEntry) (h : (!(e.position == some p && e.command == .routeEnd)) = false) : e.rank = 4 := by
    simp only [Bool.not_eq_false', Bool.and_eq_true, beq_iff_eq] at h
    exact congrArg (fun c : LineCommand => classRank c.commandClass) h.2
  unfold withdrawn
  split
  · exact ⟨fun e => (!(e.position == some p && e.command == .routeEnd)) && !(e.position == some p && e.command.isRouteClear),
      fun e he => (Bool.and_eq_false_iff.1 he).elim (ends e) (clears e),
      congrArg (leaveRoute p s).withQueue List.filter_filter⟩
  · exact ⟨fun e => !(e.position == some p && e.command.isRouteClear), clears, rfl⟩

theorem withdrawn_stranger (p : Pos) (s : State) : (withdrawn p s).pm.isMember p = false := by
  obtain ⟨keeps, -, is⟩ := withdrawn_eq p s
  rw [is]
  exact isMember_without p s

theorem withdrawn_road {A : Pos → Prop} (p : Pos) (s : State) : Road false A (fun _ => True) s (withdrawn p s) := by
  have left : Road false A (fun _ => True) s (withdrawClear p (leaveRoute p s)) := (Road.leaveRoute p s).trans (.withdraw _ _)
  unfold withdrawn
  split
  · exact left.trans (.withdraw _ _)
  · exact left

/-- The end of its route leaves the calling position, which is a member of none, as it was. -/
theorem ended_road (p : Pos) (s : State) : Road false (· ≠ p) (fun _ => True) s (ended p s) := by
  have out := withdrawn_stranger p s
  rw [RouteEnds.isMember_iff] at out
  exact (withdrawn_road p s).trans (.endRouteFrom
    (fun r found m hm => out r (List.mem_of_find?_eq_some found) m hm) trivial trivial)

theorem called_road (p : Pos) (d : EventDirection) (s : State) : Road false (fun _ => True) (fun _ => True) s (called p d s) :=
  ((ended_road p s).mono (fun _ _ => trivial) (fun _ _ => trivial)).trans (.setOwner trivial (fun _ => trivial) _)

theorem called_owner (p : Pos) (d : EventDirection) (s : State) : (called p d s).owner p = .localCall d :=
  (setOwner_owner p p _ _).trans (if_pos rfl)

theorem called_routes (p : Pos) (d : EventDirection) (s : State) :
    (called p d s).pm.routes = (withdrawn p s).pm.routes.filter (fun x => x.ref.origin != p) :=
  (setOwner_routes p _ _).trans (endRouteFrom_routes p (withdrawn p s))

theorem called_stranger (p : Pos) (d : EventDirection) (s : State) : (called p d s).pm.isMember p = false := by
  have out := withdrawn_stranger p s
  rw [RouteEnds.isMember_iff] at out ⊢
  rw [called_routes]
  exact fun r hr => out r (List.mem_of_mem_filter hr)

/-- A steered position without an owner is preempted (R20). -/
theorem called_coord {p : Pos} {s : State} (free : s.owner p = .none) (steers : steered (s.coord p).state = true) (d : EventDirection) :
    (called p d s).coord p =
      { s.coord p with state := .preempted, measured := none, settle := none, grant := none, commanded := false } := by
  have road := ended_road p s
  have coord : (ended p s).coord p = s.coord p := road.coord p (not_not.2 rfl)
  have unowned : (ended p s).owner p = .none := (road.owner p (not_not.2 rfl)).trans free
  have given : (withOwner p (.localCall d) (ended p s)).coord p = s.coord p := coord
  unfold called
  rw [setOwner_taken (o := .localCall d) unowned nofun, ownerTaken_coord (by rw [given]; exact steers), given]

/-! ### What a PREEMPT-CALL leaves -/

/-- The position itself is left alone by the forming of its route. -/
theorem formRoute_origin (p : Pos) (d : EventDirection) (s : State) : Road false (· ≠ p) (fun _ => True) s (formRoute p d s).1 :=
  formRoute_road (fun _ _ _ hq => mem_candidates hq)

theorem preemptCall_owner {p : Pos} {s : State} (live : s.isLive = true) (d : EventDirection) :
    (preemptCall p d s).owner p = .localCall d := by
  rw [preemptCall_eq live]
  exact ((formRoute_origin p d _).owner p (not_not.2 rfl)).trans (called_owner p d s)

theorem preemptCall_stranger {p : Pos} {s : State} (live : s.isLive = true) (d : EventDirection) :
    (preemptCall p d s).pm.isMember p = false := by
  rw [preemptCall_eq live]
  exact formRoute_stranger (called_stranger p d s)

theorem preemptCall_coord {p : Pos} {s : State} (live : s.isLive = true) (free : s.owner p = .none)
    (steers : steered (s.coord p).state = true) (d : EventDirection) :
    (preemptCall p d s).coord p =
      { s.coord p with state := .preempted, measured := none, settle := none, grant := none, commanded := false } := by
  rw [preemptCall_eq live]
  exact ((formRoute_origin p d _).coord p (not_not.2 rfl)).trans (called_coord free steers d)

end Sys2Proof.Proofs.Calls
end

section
/-! PROOF. Preemption calls and clears in a STATUS (O46). -/

open Sys2Proof Sys2Proof.Machine

namespace Sys2Proof.Proofs.CallRecords

open Roads StatusReplies Records OneRecord FixedRecords Calls

section
variable {p : Pos} {reply : StatusFields} {r : EventRecord} {s u v y w t : State}

/-- Where the field-local flag is clear. -/
theorem clearField_coord (h : Carried p reply r s u v y w t) (clear : bit reply.flags 0 = false) :
    v.coord p = { s.coord p with
      state := if (s.coord p).state = .inLocal .fieldLocal then .inLocal .awaitingMark else (s.coord p).state,
      fieldLocal := false } := by
  rw [h.field, clear]
  change (fieldLocalClear p u).coord p = _
  rw [fieldLocalClear_coord, h.good.coord]

theorem clearField_else (h : Carried p reply r s u v y w t) (clear : bit reply.flags 0 = false)
    (other : (s.coord p).state ≠ .inLocal .fieldLocal) : v.coord p = { s.coord p with fieldLocal := false } := by
  rw [clearField_coord h clear, if_neg other]

/-- With the PREEMPTING flag an owned position is not called again. -/
theorem judged_owned (h : Carried p reply r s u v y w t) (flag : bit reply.flags 1 = true) (owned : y.owner p ≠ .none) :
    w = accept p r y := by
  rw [h.judged, flag, judgePreempting_set]
  exact Answers.callLearned_owned (s := accept p r y) owned _

/-- Without the PREEMPTING flag the call ends. -/
theorem judged_ended (h : Carried p reply r s u v y w t) (flag : bit reply.flags 1 = false) {d : EventDirection}
    (called : y.owner p = .localCall d) : w = endCall p .flag (accept p r y) := by
  rw [h.judged, flag]
  exact judgePreempting_called (s := accept p r y) called

theorem final_coord (h : Carried p reply r s u v y w t) (rests : steered (y.coord p).state = false) :
    (finish t).coord p = w.coord p := by
  rw [Answers.finish_coord, h.rests (.inr (.inl rests))]

theorem final_owner (h : Carried p reply r s u v y w t) (q : Pos) : (finish t).owner q = w.owner q :=
  congrArg (fun pm : Priority => pm.owners.get q) h.final_pm

end

/-- The first part of O46. -/
theorem call_taken {p : Pos} {x : Exchange} {reply : StatusFields} {r : EventRecord} {d : EventDirection} {s : State}
    (reports : Reports s x p reply r) (fixed : fixedRecord r .preemptCall d) (clear : bit reply.flags 0 = false) :
    ∃ t, exec (.status x.address reply) s = .next t ∧ LeavesStores s t ∧ t.pm.isMember p = false ∧
      t.pt = s.pt ∧ t.qw = s.qw ∧ t.ps = s.ps ∧
      (bit reply.flags 1 = true → t.owner p = .localCall d) ∧
      (bit reply.flags 1 = false → t.owner p = .none ∧ t.pm.routes.all (fun r => r.ref.origin != p) = true) ∧
      (bit reply.flags 1 = true → s.owner p = .none → steered (s.coord p).state = true →
        t.coord p = { s.coord p with
          state := .preempted, measured := none, settle := none, grant := none, commanded := false, fieldLocal := false }) ∧
      (bit reply.flags 1 = false → s.owner p = .none → steered (s.coord p).state = true →
        (t.coord p).measured = none ∧
          (t.coord p).state = if s.imageEntry p = none then .inLocal .notInPlan else .seeking .lengthen) := by
  obtain ⟨u, v, y, w, t, carried, run, stores⟩ := exec_status_carried reports
  have routed := routed_call carried fixed
  have live : (fixedCounted v).isLive = true := carried.isLive
  have managed : Managed (fixedCounted v) y := routed ▸ Managed.preemptCall p d _
  obtain ⟨pt, qw, ps⟩ := fixed_kept carried managed
  have owner : y.owner p = .localCall d := by rw [routed, preemptCall_owner live]
  have stranger : y.pm.isMember p = false := by rw [routed, preemptCall_stranger live]
  have kept (flag : bit reply.flags 1 = true) : w = accept p r y := judged_owned carried flag (by rw [owner]; nofun)
  have ended (flag : bit reply.flags 1 = false) : w = endCall p .flag (accept p r y) := judged_ended carried flag owner
  have preempted (free : s.owner p = .none) (steers : steered (s.coord p).state = true) : y.coord p = { s.coord p with
      state := .preempted, measured := none, settle := none, grant := none, commanded := false, fieldLocal := false } := by
    have coord : v.coord p = { s.coord p with fieldLocal := false } := clearField_else carried clear (fun is => by
      rw [is] at steers
      exact Bool.false_ne_true steers)
    have coord' : (fixedCounted v).coord p = { s.coord p with fieldLocal := false } := coord
    rw [routed, preemptCall_coord live ((carried.owner p).trans free) (by rw [coord']; exact steers), coord']
  refine ⟨_, run, stores, ?_, pt, qw, ps, fun flag => ?_, fun flag => ⟨?_, ?_⟩, fun flag free steers => ?_,
    fun flag free steers => ?_⟩
  · rw [carried.final_pm]
    cases flag : bit reply.flags 1 with
    | true =>
      rw [kept flag]
      exact stranger
    | false =>
      rw [ended flag]
      rw [RouteEnds.isMember_iff] at stranger ⊢
      rw [endCall_routes]
      exact fun x hx => stranger x (List.mem_of_mem_filter hx)
  · rw [final_owner carried, kept flag]
    exact owner
  · rw [final_owner carried, ended flag, endCall_owner]
  · rw [carried.final_pm, ended flag, endCall_routes]
    exact List.all_eq_true.2 (fun x hx => (List.mem_filter.1 hx).2)
  · have coord := preempted free steers
    rw [final_coord carried (by rw [coord]; rfl), kept flag]
    exact coord
  · have coord : (accept p r y).coord p = _ := preempted free steers
    have state : ((accept p r y).coord p).state = .preempted := by rw [coord]
    have entry : (accept p r y).imageEntry p = s.imageEntry p := by
      unfold State.imageEntry
      rw [show (accept p r y).ps = s.ps from managed.ps.trans carried.ps]
    rw [final_coord carried (show steered ((accept p r y).coord p).state = false by rw [state]; rfl), ended flag,
      endCall_coord (show (accept p r y).owner p ≠ .none by rw [show (accept p r y).owner p = _ from owner]; nofun)]
    cases image : s.imageEntry p with
    | none =>
      rw [ownerReturned_noEntry state (entry.trans image), leaveToLocal_coord]
      exact ⟨rfl, rfl⟩
    | some e =>
      rw [ownerReturned_entry state (entry.trans image)]
      exact ⟨rfl, rfl⟩

theorem locallyCalled_iff (s : State) (p : Pos) : locallyCalled s p = true ↔ ∃ d, s.owner p = .localCall d := by
  unfold locallyCalled
  cases s.owner p <;> simp

theorem preemptClear_called {p : Pos} {s : State} {d : EventDirection} (live : s.isLive = true) (call : s.owner p = .localCall d) :
    preemptClear p s = endCall p .clear s := if_pos ⟨live, (locallyCalled_iff s p).2 ⟨d, call⟩⟩

theorem preemptClear_uncalled {p : Pos} {s : State} (free : ∀ d, s.owner p ≠ .localCall d) : preemptClear p s = s :=
  if_neg (fun both => by
    obtain ⟨d, call⟩ := (locallyCalled_iff s p).1 both.2
    exact free d call)

/-- The third part of O46. -/
theorem clear_taken {p : Pos} {x : Exchange} {reply : StatusFields} {r : EventRecord} {d : EventDirection} {s : State}
    (reports : Reports s x p reply r) (fixed : fixedRecord r .preemptClear d) (clear : bit reply.flags 0 = false)
    (flag : bit reply.flags 1 = false) :
    ∃ t, exec (.status x.address reply) s = .next t ∧ LeavesStores s t ∧ t.pt = s.pt ∧ t.qw = s.qw ∧ t.ps = s.ps ∧
      ((∀ d, s.owner p ≠ .localCall d) → t.pm = s.pm) ∧
      (∀ d, s.owner p = .localCall d → t.owner p = .none ∧
        t.pm.routes = s.pm.routes.filter (fun r => r.ref.origin != p) ∧
        ((s.coord p).state = .preempted → ∀ e, s.imageEntry p = some e →
          t.coord p = { s.coord p with
            state := .seeking .lengthen, measured := none, commanded := false, fieldLocal := false,
            target := some (targetOf e (s.coord p).trim s.ctb.cycleLength) })) := by
  obtain ⟨u, v, y, w, t, carried, run, stores⟩ := exec_status_carried reports
  have routed := routed_clear carried fixed
  have live : (fixedCounted v).isLive = true := carried.isLive
  have managed : Managed (fixedCounted v) y := routed ▸ Managed.preemptClear p _
  obtain ⟨pt, qw, ps⟩ := fixed_kept carried managed
  refine ⟨_, run, stores, pt, qw, ps, fun free => ?_, fun d' call => ?_⟩
  · have free' : ∀ d, (fixedCounted v).owner p ≠ .localCall d := fun d is => free d ((carried.owner p).symm.trans is)
    have same : y = fixedCounted v := routed.trans (preemptClear_uncalled free')
    have left : w = accept p r y := unjudged carried flag (by rw [same]; exact free')
    rw [carried.final_pm, left, same]
    exact carried.pm
  · have call' : (fixedCounted v).owner p = .localCall d' := (carried.owner p).trans call
    have over' : y = endCall p .clear (fixedCounted v) := routed.trans (preemptClear_called live call')
    have owner : y.owner p = .none := by rw [over', endCall_owner]
    have left : w = accept p r y := unjudged carried flag (by rw [owner]; exact fun _ => nofun)
    refine ⟨?_, ?_, fun preempted e image => ?_⟩
    · rw [final_owner carried, left]
      exact owner
    · rw [carried.final_pm, left, Carried.accepted_pm, over', endCall_routes]
      exact congrArg (fun pm : Priority => pm.routes.filter (fun r => r.ref.origin != p)) carried.pm
    · have coord : v.coord p = { s.coord p with fieldLocal := false } :=
        clearField_else carried clear (fun is => nomatch preempted.symm.trans is)
      have coord' : (fixedCounted v).coord p = { s.coord p with fieldLocal := false } := coord
      have rests : steered (v.coord p).state = false := by
        rw [coord]
        dsimp only
        rw [preempted]
        rfl
      have entry : (fixedCounted v).imageEntry p = some e := (carried.imageEntry p).trans image
      have ctb : (fixedCounted v).ctb = s.ctb := carried.ctb
      rw [Answers.finish_coord, carried.rests (.inl rests), left, show (accept p r y).coord p = y.coord p from rfl, over',
        endCall_coord (by rw [call']; nofun), ownerReturned_entry (by rw [coord']; exact preempted) entry, coord', ctb]

end Sys2Proof.Proofs.CallRecords
end

section
/-! PROOF. The route that a PREEMPT-CALL forms (O46). -/

open Sys2Proof Sys2Proof.Machine

namespace Sys2Proof.Proofs.FormedRoutes

open Roads StatusReplies Records OneRecord FixedRecords Calls CallRecords

/-! ### The room for the ROUTE-CLEARs (R138) -/

/-- Room for `n` clearance commands: free places, or one of them that an entry of another class gives up. -/
def Holds (n : Nat) (s : State) : Prop :=
  s.clc.queue.length + n ≤ 24 ∨ (s.clc.queue.length + n ≤ 25 ∧ ∃ e ∈ s.clc.queue, e.onLine = false ∧ e.rank < 4)

theorem Holds.roomy {n : Nat} {s : State} (h : Holds (n + 1) s) : Roomy s :=
  h.elim (fun room => .inl (by omega)) (fun ⟨_, low⟩ => .inr low)

/-- A withdrawal leaves the room. -/
theorem Holds.filter {n : Nat} {s t : State} (h : Holds n s) {keeps : QueueEntry → Bool}
    (queue : t.clc.queue = s.clc.queue.filter keeps) : Holds n t := by
  have shorter := List.length_filter_le keeps s.clc.queue
  unfold Holds
  rw [queue]
  rcases h with room | ⟨room, e, he, low⟩
  · exact .inl (by omega)
  · by_cases kept : keeps e = true
    · exact .inr ⟨by omega, e, List.mem_filter.2 ⟨he, kept⟩, low⟩
    · have lost : (s.clc.queue.filter keeps).length < s.clc.queue.length :=
        List.length_filter_lt_length_iff_exists.2 ⟨e, he, kept⟩
      exact .inl (by omega)

theorem Holds.same {n : Nat} {s t : State} (h : Holds n s) (queue : t.clc.queue = s.clc.queue) : Holds n t := by
  unfold Holds
  rw [queue]
  exact h

/-- An offer of a lower class takes no room. -/
theorem offerEntry_holds {e : QueueEntry} (off : e.onLine = false) (low : e.rank < 4) {n : Nat} {s : State}
    (h : s.clc.queue.length + (n + 1) ≤ 24) : Holds (n + 1) (offerEntry e s).1 := by
  have joined (q : List QueueEntry) (shorter : q.length ≤ s.clc.queue.length) : Holds (n + 1) (s.withQueue (joinQueue e q)) := by
    refine .inr ⟨?_, e, mem_joinQueue.2 (.inl rfl), off, low⟩
    rw [State.withQueue_queue, joinQueue_length]
    omega
  unfold offerEntry
  dsimp only
  split
  · exact .inl h
  · split
    · exact .inl h
    · split
      · exact joined _ (List.length_filter_le _ _)
      · rw [if_pos (show s.clc.queue.length < Config.queueCapacity from show _ < 24 by omega)]
        exact joined _ le_rfl

theorem leaveToLocal_holds {p : Pos} {reason : LocalReason} {n : Nat} {s : State} (h : s.clc.queue.length + (n + 1) ≤ 24) :
    Holds (n + 1) (leaveToLocal p reason true s) := by
  have shorter : (withdrawTiming p s).clc.queue.length + (n + 1) ≤ 24 := by
    have := List.length_filter_le (fun e : QueueEntry => !(e.position == some p && e.command.isTimingSet)) s.clc.queue
    exact le_trans (Nat.add_le_add_right this _) h
  unfold leaveToLocal
  dsimp only
  rw [if_pos rfl]
  unfold offerTo
  split
  · exact .inl shorter
  · exact offerEntry_holds rfl (by exact Nat.zero_lt_succ 3) shorter

/-- Following the field-local flag takes no room of clearance commands. -/
theorem followField_holds {p : Pos} {flag : Bool} {n : Nat} {s : State} (h : s.clc.queue.length + (n + 1) ≤ 24) :
    Holds (n + 1) (followField p flag s) := by
  have room : Holds (n + 1) s := .inl h
  cases flag with
  | false => exact room.same (fieldLocalClear_queue p s)
  | true =>
    change Holds (n + 1) (fieldLocalSet p s)
    unfold fieldLocalSet
    dsimp only
    split
    · exact room
    · exact room.same (takeReason_queue p _ _)
    · exact room.same (takeReason_queue p _ _)
    · exact room.same (takeReason_queue p _ _)
    · exact room
    · exact leaveToLocal_holds h

theorem setOwner_holds {n : Nat} {s : State} (h : Holds n s) (p : Pos) {o : Owner} (given : o ≠ .none) : Holds n (setOwner p o s) := by
  have taken (u : State) (hu : Holds n u) : Holds n (ownerTaken p u) := by
    unfold ownerTaken
    split
    · exact hu.filter (keeps := fun e => !(e.position == some p && e.command.isTimingSet)) rfl
    · exact hu
  unfold setOwner
  dsimp only
  split
  · exact taken _ (h.same rfl)
  · rw [if_neg (fun both => given both.2)]
    exact h.same rfl

/-- A ROUTE-CLEAR of a route with room is queued, and the ROUTE-CLEARs before it stay. -/
theorem offerTo_routeClear {way : Direction} {hold n : Nat} {q : Pos} {ref : RouteRef} {s : State} (live : s.isLive = true)
    (configured : s.config.get q ≠ none) (room : Holds (n + 1) s) :
    let r := offerTo (.routeClear way hold) q (some ref) s
    r.2 = true ∧ Holds n r.1 ∧ (∃ e ∈ r.1.clc.queue, e.position = some q ∧ e.command = .routeClear way hold) ∧
      ∀ x ∈ s.clc.queue, x.rank = 4 → x ∈ r.1.clc.queue := by
  obtain ⟨cfg, at'⟩ := Option.ne_none_iff_exists'.1 configured
  unfold offerTo
  rw [at']
  dsimp only
  generalize entry : ({ command := .routeClear way hold, address := cfg.address, position := some q, route := some ref, joined := s.now,
                        attempts := 0, onLine := false } : QueueEntry) = e
  have command : e.command = .routeClear way hold := entry ▸ rfl
  have position : e.position = some q := entry ▸ rfl
  obtain ⟨taken, member, stay, free, full⟩ := offerEntry_clearance (e := e) (s := s) (by rw [command]; rfl) live room.roomy
  refine ⟨taken, ?_, ⟨e, member, position, command⟩, stay⟩
  rcases lt_or_ge s.clc.queue.length 24 with short | long
  · unfold Holds
    rw [free short, joinQueue_length]
    rcases room with room | ⟨room, x, hx, low⟩
    · exact .inl (by omega)
    · exact .inr ⟨by omega, x, mem_joinQueue.2 (.inr hx), low⟩
  · have shorter := full long
    rcases room with room | ⟨room, -⟩
    · exact absurd room (by omega)
    · exact .inl (by omega)

/-! ### The members of a new route (R86) -/

theorem routeClear_rank {e : QueueEntry} {way : Direction} {hold : Nat} (is : e.command = .routeClear way hold) : e.rank = 4 :=
  congrArg (fun c : LineCommand => classRank c.commandClass) is

/-- Where there is room every ROUTE-CLEAR is queued, and nothing else is done. -/
theorem offerClears_room {ref : RouteRef} {way : Direction} {hold : Nat} (members : List Pos) {s : State} (live : s.isLive = true)
    (configured : ∀ q ∈ members, s.config.get q ≠ none) (room : Holds members.length s) :
    let t := offerClears ref way hold members s
    t.pm = s.pm ∧ t.oc = s.oc ∧
      (∀ q ∈ members, ∃ e ∈ t.clc.queue, e.position = some q ∧ e.command = .routeClear way hold) ∧
      ∀ x ∈ s.clc.queue, x.rank = 4 → x ∈ t.clc.queue := by
  induction members generalizing s with
  | nil => exact ⟨rfl, rfl, nofun, fun x hx _ => hx⟩
  | cons q rest ih =>
    obtain ⟨here, later⟩ := List.forall_mem_cons.1 configured
    obtain ⟨taken, left, ⟨e, he, position, command⟩, stay⟩ := offerTo_routeClear (way := way) (hold := hold) (ref := ref) live here room
    have offered := Offered.offerTo (.routeClear way hold) q (some ref) s
    have live' : (offerTo (.routeClear way hold) q (some ref) s).1.isLive = true := by
      unfold State.isLive
      rw [offered.sli]
      exact live
    obtain ⟨pm, oc, clears, stays⟩ := ih live' (fun q hq => by rw [offered.config]; exact later q hq) left
    rw [offerClears_cons, if_pos taken]
    refine ⟨pm.trans offered.pm, oc.trans offered.oc, List.forall_mem_cons.2 ⟨?_, clears⟩, fun x hx top => stays x (stay x hx top) top⟩
    exact ⟨e, stays e he (routeClear_rank command), position, command⟩

/-- The members of a route become owned by it, each once (R84, R86). -/
theorem owners_given (k : Pos) (l : List Pos) (s : State) (q : Pos) :
    let t := l.foldl (fun s q => setOwner q (.route k) s) s
    (q ∈ l → t.owner q = .route k) ∧ (s.owner q ≠ .none → t.coord q = s.coord q) ∧
      (q ∈ l → s.owner q = .none → steered (s.coord q).state = true → (t.coord q).state = .preempted) := by
  induction l generalizing s with
  | nil => exact ⟨nofun, fun _ => rfl, nofun⟩
  | cons x rest ih =>
    obtain ⟨owner, stays, taken⟩ := ih (setOwner x (.route k) s)
    have here : (setOwner x (.route k) s).owner x = .route k := (setOwner_owner x x _ s).trans (if_pos rfl)
    have road : Road false (· = x) (fun _ => True) s (setOwner x (.route k) s) :=
      .setOwner (A := (· = x)) rfl (fun _ => trivial) s
    have rest' : Road false (· ∈ rest) (fun _ => True) (setOwner x (.route k) s)
        (rest.foldl (fun s q => setOwner q (.route k) s) (setOwner x (.route k) s)) := owners_road k rest (fun _ is => is) _
    by_cases first : q = x
    · subst first
      have kept := stays (by rw [here]; nofun)
      refine ⟨fun _ => ?_, fun owned => ?_, fun _ free steers => ?_⟩
      · by_cases again : q ∈ rest
        · exact owner again
        · exact (rest'.owner q again).trans here
      · refine kept.trans ?_
        rw [setOwner_same (o := .route k) ⟨fun is => absurd is owned, nofun⟩]
        rfl
      · refine (congrArg Coord.state kept).trans ?_
        rw [setOwner_taken (o := .route k) free nofun, ownerTaken_coord (by exact steers)]
    · have coord : (setOwner x (.route k) s).coord q = s.coord q := road.coord q first
      have unchanged : (setOwner x (.route k) s).owner q = s.owner q := road.owner q first
      have later (is : q ∈ x :: rest) : q ∈ rest := (List.mem_cons.1 is).resolve_left first
      rw [unchanged] at stays taken
      rw [coord] at stays taken
      exact ⟨fun is => owner (later is), stays, fun is => taken (later is)⟩

theorem owners_hold {n : Nat} (k : Pos) (l : List Pos) {s : State} (h : Holds n s) :
    Holds n (l.foldl (fun s q => setOwner q (.route k) s) s) := by
  induction l generalizing s with
  | nil => exact h
  | cons x rest ih => exact ih (setOwner_holds h x nofun)

/-! ### A call that leaves no route behind -/

theorem leaveRoute_apart {p : Pos} {s : State} (h : s.pm.isMember p = false) : (leaveRoute p s).pm = s.pm := by
  rw [RouteEnds.isMember_iff] at h
  have same : s.pm.routes.map (fun r => r.without p) = s.pm.routes := by
    refine (List.map_congr_left (fun r hr => ?_)).trans (List.map_id _)
    unfold Route.without
    rw [List.filter_eq_self.2 (fun m hm => by simpa using h r hr m hm)]
    rfl
  exact congrArg (fun routes => { s.pm with routes := routes }) same

theorem withdrawn_apart {p : Pos} {s : State} (h : s.pm.isMember p = false) : (withdrawn p s).pm = s.pm := by
  obtain ⟨keeps, -, is⟩ := withdrawn_eq p s
  rw [is]
  exact leaveRoute_apart h

theorem called_apart {p : Pos} {s : State} (h : s.pm.isMember p = false) (none : s.pm.routeFrom p = none) (d : EventDirection) :
    called p d s = setOwner p (.localCall d) (withdrawn p s) := by
  unfold called ended
  rw [endRouteFrom_none (by rw [withdrawn_apart h]; exact none)]

theorem called_pm {p : Pos} {s : State} (h : s.pm.isMember p = false) (none : s.pm.routeFrom p = none) (d : EventDirection) :
    (called p d s).pm = { s.pm with owners := s.pm.owners.set p.val (.localCall d) } := by
  rw [called_apart h none, setOwner_pm, withdrawn_apart h]

theorem called_holds {p : Pos} {n : Nat} {s : State} (h : s.pm.isMember p = false) (none : s.pm.routeFrom p = none)
    (room : Holds n s) (d : EventDirection) : Holds n (called p d s) := by
  obtain ⟨keeps, -, is⟩ := withdrawn_eq p s
  rw [called_apart h none]
  exact setOwner_holds (room.filter (congrArg (fun x : State => x.clc.queue) is)) p nofun

/-! ### The candidates (R86) -/

/-- A position may join a route from `p`. -/
def Joinable (s : State) (p q : Pos) : Prop :=
  (s.owner q = .none ∨ (s.owner q = .route p ∧ s.pm.isMember q = false)) ∧
    (s.ident q).state = .identified ∧ (s.health q).state ≠ .cutOff ∧ (s.health q).quietTimer = none ∧
    (s.ident q).abilities.map Abilities.priority = some true ∧ (s.ident q).mode ≠ some .relay

theorem candidateOk_iff (s : State) (p q : Pos) : candidateOk s p q = true ↔ Joinable s p q := by
  have able (a : Option Abilities) : (match a with
      | some a => a.priority
      | none => false) = true ↔ a.map Abilities.priority = some true := by
    cases a <;> simp
  have pending (owned : s.owner q = .route p) : s.pm.releasePending q = true ↔ s.pm.isMember q = false := by
    unfold Priority.releasePending
    rw [show s.pm.owners.get q = .route p from owned]
    simp
  unfold candidateOk Joinable
  simp only [Bool.and_eq_true, Bool.or_eq_true, beq_iff_eq, bne_iff_ne, Option.isNone_iff_eq_none, and_assoc]
  refine and_congr (or_congr Iff.rfl (and_congr_right pending)) (and_congr Iff.rfl (and_congr Iff.rfl (and_congr Iff.rfl
    (and_congr (able _) Iff.rfl))))

/-- The candidates are those ahead, up to the first that does not pass. -/
theorem candidates_eq {s : State} {p : Pos} {way : Direction} {members rest : List Pos}
    (split : ahead way (lengthAt s p) p = members ++ rest) (fit : ∀ q ∈ members, Joinable s p q)
    (ends : ∀ q, rest.head? = some q → ¬ Joinable s p q) : candidates s p way = members := by
  unfold candidates
  rw [split, List.takeWhile_append_of_pos (fun q hq => (candidateOk_iff s p q).2 (fit q hq))]
  cases rest with
  | nil => exact List.append_nil _
  | cons q rest =>
    rw [List.takeWhile_cons_of_neg (fun is => ends q rfl ((candidateOk_iff s p q).1 is)), List.append_nil]

/-! ### The route formed (R86, R87) -/

/-- Where no route is formed nothing is done. -/
theorem formRoute_unformed {p : Pos} {way : Direction} {s : State} (h : candidates s p way = [] ∨ 6 ≤ s.pm.routes.length) :
    (formRoute p (toEvent way) s).1 = s := by
  rw [formRoute_toward]
  split
  · rfl
  · split
    · rfl
    · next some => exact congrArg Prod.fst (if_pos (h.resolve_left (fun is => some (by rw [is]; rfl))))

/-- A route with members that the table and the queue have room for (R86, R87). -/
theorem formRoute_formed {p : Pos} {way : Direction} {s : State} {members : List Pos} (are : candidates s p way = members)
    (present : members ≠ []) (place : s.pm.routes.length < 6) (live : s.isLive = true)
    (configured : ∀ q ∈ members, s.config.get q ≠ none) (room : Holds members.length s) :
    let t := (formRoute p (toEvent way) s).1
    t.pm.routes = (enrolled p way members s).pm.routes ∧
      (∀ q ∈ members, t.owner q = .route p ∧ (s.owner q = .none → steered (s.coord q).state = true → (t.coord q).state = .preempted) ∧
        (s.owner q ≠ .none → t.coord q = s.coord q) ∧
        ∃ e ∈ t.clc.queue, e.position = some q ∧ e.command = .routeClear way s.pm.policy.routeTimeout) := by
  intro t
  have length : lengthAt s p ≠ 0 := fun zero => present (by
    rw [← are]
    unfold candidates
    rw [zero]
    rfl)
  have is : t = offerClears { origin := p, serial := s.pm.nextSerial } way s.pm.policy.routeTimeout members (owned p way members s) := by
    have plenty : ¬ s.pm.routes.length ≥ Config.routeCapacity := not_le.2 place
    change (formRoute p (toEvent way) s).1 = _
    rw [formRoute_toward, are, if_neg length, if_neg (by simpa using present), if_neg plenty]
  have road := owned_road (A := fun _ => True) p way (members := members) (fun _ _ => trivial) s
  obtain ⟨pm, oc, clears, -⟩ := offerClears_room (ref := { origin := p, serial := s.pm.nextSerial }) (way := way)
    (hold := s.pm.policy.routeTimeout) members (s := owned p way members s) (road.isLive.trans live)
    (fun q hq => by rw [road.config]; exact configured q hq)
    (owners_hold p members (room.same (t := enrolled p way members s) rfl))
  rw [← is] at pm oc clears
  refine ⟨by rw [pm, owned_routes], fun q hq => ?_⟩
  obtain ⟨owner, stays, taken⟩ := owners_given p members (enrolled p way members s) q
  have coord : t.coord q = (owned p way members s).coord q := congrArg (fun oc : Coordinator => oc.positions.get q) oc
  refine ⟨(congrArg (fun pm : Priority => pm.owners.get q) pm).trans (owner hq), fun free steers => ?_, fun given => ?_, clears q hq⟩
  · rw [coord]
    exact taken hq free steers
  · rw [coord]
    exact stays given

/-- The second part of O46. -/
theorem route_taken {p : Pos} {x : Exchange} {reply : StatusFields} {r : EventRecord} {way : Direction} {cfg : PositionConfig}
    {members rest : List Pos} {s : State} (reports : Reports s x p reply r) (fixed : fixedRecord r .preemptCall (toEvent way))
    (flag : bit reply.flags 1 = true) (configured : s.config.get p = some cfg) (apart : s.pm.isMember p = false)
    (alone : s.pm.routeFrom p = none) (split : ahead way cfg.routeLength p = members ++ rest) (fit : ∀ q ∈ members, Joinable s p q)
    (ends : ∀ q, rest.head? = some q → ¬ Joinable s p q) :
    ∃ t, exec (.status x.address reply) s = .next t ∧ LeavesStores s t ∧
      (∀ q, q ≠ p → q ∉ members → t.owner q = s.owner q) ∧
      ((members = [] ∨ 6 ≤ s.pm.routes.length) → t.pm.routes = s.pm.routes ∧ ∀ q ∈ members, t.owner q = s.owner q) ∧
      (members ≠ [] → s.pm.routes.length < 6 → s.clc.queue.length + members.length ≤ 24 →
        (∀ q ∈ members, s.config.get q ≠ none) →
        t.pm.routes = s.pm.routes ++ [
          { ref := { origin := p, serial := s.pm.nextSerial }, direction := way,
            members := members.map (fun q => { position := q, held := false }), start := s.now,
            deadline := later s.now s.pm.policy.routeTimeout }] ∧
        ∀ q ∈ members, t.owner q = .route p ∧
          (s.owner q = .none → steered (s.coord q).state = true → (t.coord q).state = .preempted) ∧
          (s.owner q ≠ .none → t.coord q = s.coord q) ∧
          ∃ e ∈ t.clc.queue, e.position = some q ∧ e.command = .routeClear way s.pm.policy.routeTimeout) := by
  obtain ⟨u, v, y, w, t, carried, run, stores⟩ := exec_status_carried reports
  have routed := routed_call carried fixed
  have live : (fixedCounted v).isLive = true := carried.isLive
  have pm : (fixedCounted v).pm = s.pm := carried.pm
  have apart' : (fixedCounted v).pm.isMember p = false := by rw [pm, apart]
  have alone' : (fixedCounted v).pm.routeFrom p = none := by rw [pm, alone]
  have callPm := called_pm apart' alone' (toEvent way)
  rw [pm] at callPm
  have callRoad := called_road p (toEvent way) (fixedCounted v)
  have callCoord {q : Pos} (other : q ≠ p) : (called p (toEvent way) (fixedCounted v)).coord q = s.coord q := by
    rw [called_apart apart' alone', ← carried.coord other]
    have given : Road false (· = p) (fun _ => True) (withdrawn p (fixedCounted v))
        (setOwner p (.localCall (toEvent way)) (withdrawn p (fixedCounted v))) :=
      .setOwner (A := (· = p)) rfl (fun _ => trivial) _
    exact ((withdrawn_road p (fixedCounted v)).trans given).coord q other
  have callOwner {q : Pos} (other : q ≠ p) : (called p (toEvent way) (fixedCounted v)).owner q = s.owner q := by
    unfold State.owner
    rw [callPm, get_set, if_neg (fun e => other e.symm)]
  have callRoom (n : Nat) (room : s.clc.queue.length + (n + 1) ≤ 24) : Holds (n + 1) (called p (toEvent way) (fixedCounted v)) := by
    have shorter := carried.good.queueLength
    have field := followField_holds (p := p) (flag := bit reply.flags 0) (s := u) (n := n) (by omega)
    rw [← carried.field] at field
    exact called_holds apart' alone' (field.same (t := fixedCounted v) rfl) _
  have config : (called p (toEvent way) (fixedCounted v)).config = s.config := callRoad.config.trans carried.config
  have length : lengthAt (called p (toEvent way) (fixedCounted v)) p = cfg.routeLength := by
    unfold lengthAt
    rw [config, configured]
  have joinable {q : Pos} (other : q ≠ p) : Joinable (called p (toEvent way) (fixedCounted v)) p q ↔ Joinable s p q := by
    have ident : { (called p (toEvent way) (fixedCounted v)).ident q with retry := none } = { s.ident q with retry := none } :=
      (callRoad.ident q).trans (carried.ident q)
    have member : (called p (toEvent way) (fixedCounted v)).pm.isMember q = s.pm.isMember q :=
      isMember_routes (congrArg Priority.routes callPm :) q
    unfold Joinable
    rw [callOwner other, member, (congrArg Ident.state ident :), (congrArg Ident.abilities ident :), (congrArg Ident.mode ident :),
      callRoad.health q, show (fixedCounted v).health q = s.health q from carried.health other]
  have away {q : Pos} (hq : q ∈ members ++ rest) : q ≠ p := (mem_ahead (split ▸ hq)).ne
  have are : candidates (called p (toEvent way) (fixedCounted v)) p way = members := by
    refine candidates_eq (by rw [length]; exact split) (fun q hq => ?_) (fun q hq => ?_)
    · exact (joinable (away (List.mem_append_left _ hq))).2 (fit q hq)
    · exact fun is => ends q hq ((joinable (away (List.mem_append_right _ (List.mem_of_head? hq)))).1 is)
  have result : y = raiseNotice _ (formRoute p (toEvent way) (called p (toEvent way) (fixedCounted v))).1 :=
    routed.trans (preemptCall_eq live p (toEvent way))
  have owner : y.owner p = .localCall (toEvent way) := by rw [routed, preemptCall_owner live]
  have left : w = accept p r y := judged_owned carried flag (by rw [owner]; nofun)
  have finalPm : (finish t).pm = (formRoute p (toEvent way) (called p (toEvent way) (fixedCounted v))).1.pm := by
    rw [carried.final_pm, left, Carried.accepted_pm, result]
    rfl
  have finalOwner (q : Pos) : (finish t).owner q = (formRoute p (toEvent way) (called p (toEvent way) (fixedCounted v))).1.owner q :=
    congrArg (fun pm : Priority => pm.owners.get q) finalPm
  have finalCoord {q : Pos} (other : q ≠ p) :
      (finish t).coord q = (formRoute p (toEvent way) (called p (toEvent way) (fixedCounted v))).1.coord q := by
    rw [Answers.finish_coord, carried.last.others q other, left, show (accept p r y).coord q = y.coord q from rfl, result]
    rfl
  have finalQueue : t.clc.queue = (formRoute p (toEvent way) (called p (toEvent way) (fixedCounted v))).1.clc.queue := by
    rw [carried.last.only.clc, left, show (accept p r y).clc.queue = y.clc.queue from rfl, result]
    rfl
  have road : Road false (· ∈ members) (fun _ => True) (called p (toEvent way) (fixedCounted v))
      (formRoute p (toEvent way) (called p (toEvent way) (fixedCounted v))).1 :=
    formRoute_road (fun way' same q hq => by
      cases show way = way' by cases way <;> cases way' <;> first | rfl | nomatch same
      exact are ▸ hq)
  refine ⟨_, run, stores, fun q other out => ?_, fun unformed => ?_, fun present place room places => ?_⟩
  · rw [finalOwner, road.owner q out, callOwner other]
  · have same := formRoute_unformed (p := p) (way := way) (s := called p (toEvent way) (fixedCounted v)) (by
      rw [are, callPm]
      exact unformed)
    rw [finalPm, same]
    refine ⟨by rw [callPm], fun q hq => ?_⟩
    rw [finalOwner, same, callOwner (away (List.mem_append_left _ hq))]
  · obtain ⟨n, size⟩ := Nat.exists_eq_succ_of_ne_zero (fun zero => present (List.length_eq_zero_iff.1 zero))
    obtain ⟨routes, each⟩ := formRoute_formed are present (by rw [callPm]; exact place) (callRoad.isLive.trans live)
      (fun q hq => by rw [config]; exact places q hq) (by rw [size]; exact callRoom n (by rw [size] at room; exact room))
    have now : (called p (toEvent way) (fixedCounted v)).now = s.now := callRoad.now.trans carried.now
    refine ⟨?_, fun q hq => ?_⟩
    · rw [finalPm, routes]
      unfold enrolled
      rw [callPm, now]
    · have other := away (List.mem_append_left rest hq)
      obtain ⟨given, taken, stays, e, he, position, command⟩ := each q hq
      rw [callOwner other, callCoord other] at taken stays
      obtain ⟨e', he', core⟩ := stays_finish (finalQueue.symm ▸ he) (by rw [command]; nofun)
      rw [finalOwner, finalCoord other]
      refine ⟨given, taken, stays, e', he', (core_position core).trans position, (core_command core).trans (command.trans ?_)⟩
      rw [callPm]

/-! ### The obligation on calls -/

/-- Settles O46. -/
theorem callsTakenAndCleared : Obligations.CallsTakenAndCleared := by
  unfold Obligations.CallsTakenAndCleared
  exact ⟨fun p x reply r d s reports fixed clear => call_taken reports fixed clear,
    fun p x reply r way cfg members rest s reports fixed flag configured apart alone split fit ends =>
      route_taken reports fixed flag configured apart alone split fit ends,
    fun p x reply r d s reports fixed clear flag => clear_taken reports fixed clear flag⟩

end Sys2Proof.Proofs.FormedRoutes
end

section
/-! PROOF. Which notices a handling raises (used by O49). -/

open Sys2Proof Sys2Proof.Machine

namespace Sys2Proof.Proofs.Notices

open Links Roads Reports Records

/-! ### The notices of a handling (R172) -/

/-- Notices offered in turn. -/
def offeredAll (stamp : Nat) (l : List NoticeBody) (sli : Supervisory) : Supervisory :=
  l.foldl (fun sli body => sli.offered stamp body) sli

theorem offeredAll_append (stamp : Nat) (l m : List NoticeBody) (sli : Supervisory) :
    offeredAll stamp (l ++ m) sli = offeredAll stamp m (offeredAll stamp l sli) := List.foldl_append ..

/-- From `s` to `t` the notices of `l` are offered in turn, at one time of day, and nothing else happens on the SLI. -/
structure Notes (l : List NoticeBody) (s t : State) : Prop where
  clock : t.ctb.timeOfDay = s.ctb.timeOfDay
  sli : t.sli = offeredAll s.ctb.timeOfDay l s.sli

namespace Notes

variable {l m : List NoticeBody} {s t u : State}

/-- Nothing is told. -/
theorem silent (clock : t.ctb.timeOfDay = s.ctb.timeOfDay) (sli : t.sli = s.sli) : Notes [] s t := ⟨clock, sli⟩

theorem rfl' (s : State) : Notes [] s s := silent rfl rfl

theorem raiseNotice (body : NoticeBody) (s : State) : Notes [body] s (raiseNotice body s) := ⟨rfl, rfl⟩

theorem trans (h : Notes l s t) (g : Notes m t u) : Notes (l ++ m) s u := by
  refine ⟨g.clock.trans h.clock, ?_⟩
  rw [offeredAll_append, g.sli, h.clock, h.sli]

theorem raised (h : Notes l s t) (body : NoticeBody) : Notes (l ++ [body]) s (Machine.raiseNotice body t) :=
  h.trans (raiseNotice body t)

/-- A silent step after, or before. -/
theorem quietly (h : Notes l s t) (g : Notes [] t u) : Notes l s u := by
  have both := h.trans g
  rwa [List.append_nil] at both

theorem after (g : Notes [] s t) (h : Notes l t u) : Notes l s u := g.trans h

theorem same (h : Notes l s t) (clock : u.ctb.timeOfDay = t.ctb.timeOfDay) (sli : u.sli = t.sli) : Notes l s u :=
  h.quietly (silent clock sli)

theorem withHealth (h : Notes l s t) (p : Pos) (f : Health → Health) : Notes l s (t.withHealth p f) := h.same rfl rfl

theorem ofOffered (h : Offered s t) : Notes [] s t := silent (by rw [h.ctb]) h.sli

theorem congr (h : Notes l s t) (eq : l = m) : Notes m s t := eq ▸ h

end Notes

/-! ### The end of a handling -/

theorem arbiterRun_sli (s : State) : (arbiterRun s).sli = s.sli := by
  unfold arbiterRun
  split
  · split
    · rfl
    · unfold beginPoll
      dsimp only
      split <;> rfl
    · rfl
  · rfl

theorem settleLine_sli (s : State) : (settleLine s).sli = s.sli := by
  refine (arbiterRun_sli _).trans ?_
  have beacon : (dropBeacon s).sli = s.sli := by
    unfold dropBeacon
    split <;> rfl
  exact beacon

theorem settleLine_notes (s : State) : Notes [] s (settleLine s) :=
  .silent (by rw [(settles_settleLine s).ctb]) (settleLine_sli s)

theorem Notes.finish {l : List NoticeBody} {s t : State} (h : Notes l s t) : Raises s (finish t) l := by
  have settled := h.quietly (settleLine_notes t)
  unfold Raises
  change (settleLine t).sli.transmit (settleLine t).ctb.timeOfDay = _
  rw [settled.sli, settled.clock]
  rfl

/-! ### What a run of changes tells -/

/-- The SLI is as it was, but for its notices. -/
structure Hushed (s t : State) : Prop where
  sli : { t.sli with notices := [], overrun := 0 } = { s.sli with notices := [], overrun := 0 }

theorem Hushed.trans {a b c : State} (h : Hushed a b) (g : Hushed b c) : Hushed a c := ⟨Eq.trans g.sli h.sli⟩

theorem Hushed.ofSli {s t : State} (h : t.sli = s.sli) : Hushed s t := ⟨by rw [h]⟩

theorem Hushed.raiseNotice (body : NoticeBody) (s : State) : Hushed s (raiseNotice body s) := ⟨raiseNotice_sli body s⟩

theorem Notes.hushed {l : List NoticeBody} {s t : State} (h : Notes l s t) : Hushed s t := by
  refine ⟨?_⟩
  rw [h.sli]
  clear h
  generalize s.sli = sli
  induction l generalizing sli with
  | nil => rfl
  | cons body l ih =>
    refine (ih (sli.offered s.ctb.timeOfDay body)).trans ?_
    unfold Supervisory.offered
    split
    · rfl
    · split <;> rfl

/-- The SLI without its draining flag. -/
def undrained (sli : Supervisory) : Supervisory := { sli with draining := false }

theorem offeredAll_draining (stamp : Nat) (l : List NoticeBody) (b : Bool) (sli : Supervisory) :
    offeredAll stamp l { sli with draining := b } = { offeredAll stamp l sli with draining := b } := by
  induction l generalizing sli with
  | nil => rfl
  | cons body l ih =>
    have one : ({ sli with draining := b } : Supervisory).offered stamp body = { sli.offered stamp body with draining := b } := by
      unfold Supervisory.offered
      split
      · rfl
      · split <;> rfl
    change offeredAll stamp l (({ sli with draining := b } : Supervisory).offered stamp body) = _
    rw [one]
    exact ih _

/-- What a run of changes does on the SLI: a frame begun is not taken back, and where none is begun, notices are told. -/
structure Tells (s t : State) : Prop where
  ctb : t.ctb = s.ctb
  busy : ∀ x, s.sli.sending = some x → t.sli.sending = some x
  told : t.sli.sending = s.sli.sending → ∃ l, undrained t.sli = offeredAll s.ctb.timeOfDay l (undrained s.sli)

theorem Tells.silent {s t : State} (ctb : t.ctb = s.ctb) (sli : undrained t.sli = undrained s.sli) : Tells s t := by
  have sending : t.sli.sending = s.sli.sending := (congrArg Supervisory.sending sli :)
  exact ⟨ctb, fun x is => sending.trans is, fun _ => ⟨[], sli⟩⟩

theorem Tells.trans {a b c : State} (h : Tells a b) (g : Tells b c) : Tells a c := by
  refine ⟨g.ctb.trans h.ctb, fun x is => g.busy x (h.busy x is), fun same => ?_⟩
  have middle : b.sli.sending = a.sli.sending := by
    cases at' : a.sli.sending with
    | some x => exact h.busy x at'
    | none =>
      cases bt : b.sli.sending with
      | none => rfl
      | some x => exact absurd ((g.busy x bt).symm.trans (same.trans at')) nofun
  obtain ⟨l, first⟩ := h.told middle
  obtain ⟨m, second⟩ := g.told (same.trans middle.symm)
  exact ⟨l ++ m, by rw [offeredAll_append, second, h.ctb, first]⟩

theorem Tells.raiseNotice (body : NoticeBody) (s : State) : Tells s (raiseNotice body s) := by
  refine ⟨rfl, fun x is => (congrArg Supervisory.sending (raiseNotice_sli body s) :).trans is, fun _ => ⟨[body], ?_⟩⟩
  exact (offeredAll_draining s.ctb.timeOfDay [body] false s.sli).symm

theorem Tells.transmitterRun (s : State) : Tells s (transmitterRun s) := by
  have stays {x : Sending} (is : s.sli.sending = some x) : s.sli.transmit s.ctb.timeOfDay = s.sli := by
    unfold Supervisory.transmit
    rw [is]
  have idle (free : s.sli.sending = none) (same : (s.sli.transmit s.ctb.timeOfDay).sending = none) :
      s.sli.transmit s.ctb.timeOfDay = s.sli := by
    revert same
    unfold Supervisory.transmit
    rw [free]
    dsimp only
    split
    · nofun
    · split
      · exact fun _ => rfl
      · split
        · nofun
        · split
          · exact fun _ => rfl
          · split <;> nofun
  refine ⟨rfl, fun x is => (congrArg Supervisory.sending (stays is)).trans is, fun same => ⟨[], ?_⟩⟩
  refine congrArg undrained ?_
  cases at' : s.sli.sending with
  | some x => exact stays at'
  | none => exact idle at' (Eq.trans same at')

theorem tells_of_moves {rt st : Bool} {s t : State} (h : Moves rt st s t) : Tells s t := by
  induction h with
  | refl s => exact .silent rfl rfl
  | trans _ _ first second => exact first.trans second
  | link s l f _ => exact .silent (State.withLink_ctb s l f) (congrArg undrained (State.withLink_sli s l f))
  | release s l f n _ => exact .silent (State.withLink_ctb s l f) (congrArg undrained (State.withLink_sli s l f))
  | hold s l x _ => exact .silent (State.withLink_ctb s l _) (congrArg undrained (State.withLink_sli s l _))
  | flush s =>
    obtain ⟨pt, is⟩ := flushPool_eq s
    rw [is]
    exact .silent rfl rfl
  | notice s body => exact .raiseNotice body s
  | transmit s => exact .transmitterRun s
  | _ => exact .silent rfl rfl

/-- A run of changes that begins no frame and keeps the draining flag raises notices alone. -/
theorem notes_of_moves {rt st : Bool} {s t : State} (h : Moves rt st s t) (hushed : Hushed s t) : ∃ l, Notes l s t := by
  have tells := tells_of_moves h
  obtain ⟨l, told⟩ := tells.told (congrArg Supervisory.sending hushed.sli :)
  refine ⟨l, by rw [tells.ctb], ?_⟩
  have draining : t.sli.draining = s.sli.draining := (congrArg Supervisory.draining hushed.sli :)
  calc t.sli = { undrained t.sli with draining := s.sli.draining } := by rw [← draining]; rfl
    _ = offeredAll s.ctb.timeOfDay l { undrained s.sli with draining := s.sli.draining } := by
      rw [told]
      exact (offeredAll_draining _ _ _ _).symm
    _ = offeredAll s.ctb.timeOfDay l s.sli := rfl

end Sys2Proof.Proofs.Notices
end

section
/-! PROOF. The notices of writes, windows, silences, timeouts and line resets (O49). -/

open Sys2Proof Sys2Proof.Machine

namespace Sys2Proof.Proofs.DeadlineNotices

open Links Roads Reports Records Notices

/-! ### Completions of library writes (R112, R113) -/

theorem Notes.transmits {l : List NoticeBody} {s t : State} (h : Notes l s t) : Raises s (transmitterRun t) l := by
  unfold Raises
  change t.sli.transmit t.ctb.timeOfDay = _
  rw [h.sli, h.clock]
  rfl

theorem commit_raises {slot : SlotIx} {plan : Plan} {s : State} (h : s.pl.write = .committing slot plan) :
    ∃ t, exec .commitComplete s = .next t ∧
      Raises s t [.commitDone slot plan.header (positions.filter (fun p => (plan.entries.get p).isSome))] := by
  have done : commitDone s = { raiseNotice (.commitDone slot plan.header (entryPositions plan.entries))
      (finishWrite slot (.valid plan) s) with ps := s.ps.commitDone slot } := by
    unfold commitDone
    rw [h]
    rfl
  refine ⟨_, rfl, Notes.transmits ?_⟩
  rw [done]
  exact ⟨rfl, rfl⟩

theorem erase_raises {slot : SlotIx} {s : State} (h : s.pl.write = .erasing slot) :
    ∃ t, exec .eraseComplete s = .next t ∧ Raises s t [.eraseDone slot] := by
  have done : eraseDone s = raiseNotice (.eraseDone slot) (finishWrite slot .empty s) := by
    unfold eraseDone
    rw [h]
  refine ⟨_, rfl, Notes.transmits ?_⟩
  rw [done]
  exact ⟨rfl, rfl⟩

/-! ### The close of a window (R57, R58) -/

theorem window_raises {n : Nat} {l : Link} {s : State} (h : closingLink s n = some l) :
    ∃ t, exec (.windowCloseExpiry n) s = .next t ∧
      Raises s t (if (s.link l).tracked = true ∧ 2 ≤ (s.link l).lost then [.linkTracking l false (s.link l).estimate 3] else []) := by
  have run : exec (.windowCloseExpiry n) s = .next (finish (losePlatoon l n s)) :=
    congrArg Host.Outcome.next (windowEvent_closing h)
  refine ⟨_, run, Notes.finish ?_⟩
  have link := losePlatoon_link l l n s
  rw [if_pos rfl] at link
  have freed (f : LinkRecord → LinkRecord) : Notes [] s (freeRecords 1 (s.withLink l f)) :=
    .silent (congrArg TimeBase.timeOfDay (State.withLink_ctb s l f)) (State.withLink_sli s l f)
  have third : (saturate 3 ((s.link l).lost + 1) == 3) = decide (2 ≤ (s.link l).lost) := by
    rw [Failures.saturate_eq_min, Bool.eq_iff_iff, beq_iff_eq, decide_eq_true_eq]
    omega
  unfold losePlatoon
  dsimp only
  rw [third]
  by_cases falls : (s.link l).tracked = true ∧ 2 ≤ (s.link l).lost
  · rw [if_pos falls, if_pos (by simp [falls])]
    refine ((freed _).raised _).congr ?_
    rw [freeRecords_link, State.withLink_link, if_pos rfl]
    have lost : saturate 3 ((s.link l).lost + 1) = 3 := by
      rw [Failures.saturate_eq_min]
      omega
    simp [falls, lost]
  · rw [if_neg falls, if_neg (by simpa using falls)]
    exact freed _

/-! ### The timeout of a route (R91, R95) -/

theorem endMember_sends (ref : RouteRef) (acc : State × List Pos) (m : Member) :
    ∀ q ∈ (endMember ref acc m).2, q ∈ acc.2 ∨ q = m.position := by
  unfold endMember
  dsimp only
  split
  · exact fun q hq => .inl hq
  · split
    · exact fun q hq => (List.mem_append.1 hq).imp_right List.mem_singleton.1
    · exact fun q hq => .inl hq

theorem endMembers_sends (ref : RouteRef) (members : List Member) (acc : State × List Pos) :
    ∀ q ∈ (members.foldl (endMember ref) acc).2, q ∈ acc.2 ∨ ∃ m ∈ members, m.position = q := by
  induction members generalizing acc with
  | nil => exact fun q hq => .inl hq
  | cons m members ih =>
    intro q hq
    rcases ih _ q hq with earlier | ⟨x, hx, is⟩
    · rcases endMember_sends ref acc m q earlier with before | rfl
      · exact .inl before
      · exact .inr ⟨m, List.mem_cons_self, rfl⟩
    · exact .inr ⟨x, List.mem_cons_of_mem m hx, is⟩

theorem timeout_raises {p : Pos} {r : Route} {s : State} (h : s.pm.routeFrom p = some r) (due : r.deadline = s.now) :
    ∃ t before ended, exec (.routeTimeout p) s = .next t ∧ Raises s t (before ++ [.preemptEnd p .timeout ended]) ∧
      (∀ q ∈ ended, ∃ m ∈ r.members, m.position = q) ∧ (r.members = [] → before = []) := by
  have run : exec (.routeTimeout p) s = .next (finish (dropRoute r .timeout s)) := by
    refine congrArg Host.Outcome.next ?_
    unfold routeEvent
    rw [h]
    exact if_pos due
  have origin : r.ref.origin = p := StatusReplies.routeFrom_origin h
  have ended : Hushed s (endRoute r s).1 :=
    ⟨(Road.endRoute (wide := false) (A := fun _ => True) (C := fun _ => True) (r := r) (fun _ _ => trivial) trivial trivial s).sli⟩
  have members : ∀ q ∈ (endRoute r s).2, ∃ m ∈ r.members, m.position = q := fun q hq =>
    (endMembers_sends r.ref r.members _ q hq).resolve_left nofun
  have dropped : dropRoute r .timeout s = raiseNotice (.preemptEnd p .timeout (endRoute r s).2) (endRoute r s).1 := by
    rw [← origin]
    rfl
  rw [dropped] at run
  by_cases none : r.members = []
  · have alone : (endRoute r s).1 = s.withRoutes (fun rs => rs.filter (fun x => x.ref.origin != r.ref.origin)) := by
      unfold endRoute
      rw [none]
      rfl
    have told : Notes [] s (endRoute r s).1 := by
      rw [alone]
      exact .silent rfl rfl
    exact ⟨_, [], _, run, (told.raised _).finish, members, fun _ => rfl⟩
  · obtain ⟨l, told⟩ := notes_of_moves (rt := false) (st := false) (Moves.endRoute r (.refl s)) ended
    exact ⟨_, l, _, run, (told.raised _).finish, members, fun is => absurd is none⟩

end Sys2Proof.Proofs.DeadlineNotices
end

section
/-! PROOF. The notices of approaches and of a line reset (O49). -/

open Sys2Proof Sys2Proof.Machine

namespace Sys2Proof.Proofs.ApproachNotices

open Links Roads Reports Records Notices Samples

/-! ### Gridlock risks (R79) -/

/-- The notice of a position whose condition has started or ended, if it has. -/
def risk (condition : GridlockCondition) (active : Gridlock → Bool) (old : Vector Gridlock 12) (qw : Watch) (p : Pos) :
    Option NoticeBody :=
  if active (qw.gridlock.get p) = active (old.get p) then none
  else some (.gridlockRisk p condition (active (qw.gridlock.get p)) (qw.overlays p))

theorem noteGridlock_notes (condition : GridlockCondition) (active : Gridlock → Bool) (old : Vector Gridlock 12) (s : State) :
    Notes (positions.filterMap (risk condition active old s.qw)) s (noteGridlock condition active old s) := by
  have pass (ps : List Pos) (u : State) (qw : u.qw = s.qw) :
      Notes (ps.filterMap (risk condition active old s.qw)) u
        (ps.foldl (fun s p => if active (s.qw.gridlock.get p) = active (old.get p) then s
          else raiseNotice (.gridlockRisk p condition (active (s.qw.gridlock.get p)) (s.qw.overlays p)) s) u) := by
    induction ps generalizing u with
    | nil => exact .rfl' u
    | cons p ps ih =>
      rw [List.foldl_cons, qw]
      by_cases same : active (s.qw.gridlock.get p) = active (old.get p)
      · have untold : risk condition active old s.qw p = none := if_pos same
        rw [if_pos same, List.filterMap_cons_none untold]
        exact ih u qw
      · have told : risk condition active old s.qw p =
            some (.gridlockRisk p condition (active (s.qw.gridlock.get p)) (s.qw.overlays p)) := if_neg same
        rw [if_neg same, List.filterMap_cons_some told]
        exact (Notes.raiseNotice _ u).trans (ih _ qw)
  exact pass positions s rfl

/-- The risks that a settling of the conditions tells, in the order of the table of R79. -/
def risks (old : Vector Gridlock 12) (qw : Watch) : List NoticeBody :=
  positions.filterMap (risk .cross Gridlock.cross old qw) ++ positions.filterMap (risk .chainInbound Gridlock.chainInbound old qw) ++
    positions.filterMap (risk .chainOutbound Gridlock.chainOutbound old qw)

theorem settleGridlock_notes (s : State) : Notes (risks s.qw.gridlock s.qw.settleGridlock) s (settleGridlock s) := by
  have start : Notes [] s { s with qw := s.qw.settleGridlock } := .silent rfl rfl
  have first := noteGridlock_notes .cross Gridlock.cross s.qw.gridlock { s with qw := s.qw.settleGridlock }
  have second := noteGridlock_notes .chainInbound Gridlock.chainInbound s.qw.gridlock
    (noteGridlock .cross Gridlock.cross s.qw.gridlock { s with qw := s.qw.settleGridlock })
  have third := noteGridlock_notes .chainOutbound Gridlock.chainOutbound s.qw.gridlock
    (noteGridlock .chainInbound Gridlock.chainInbound s.qw.gridlock
      (noteGridlock .cross Gridlock.cross s.qw.gridlock { s with qw := s.qw.settleGridlock }))
  rw [(Clearing.gridlock_qw _ _ _ _).1] at second
  rw [(Clearing.gridlock_qw _ _ _ _).1, (Clearing.gridlock_qw _ _ _ _).1] at third
  exact start.after ((first.trans second).trans third)

/-- The condition of a notice, at a position. -/
def stands (condition : GridlockCondition) (g : Gridlock) : Bool :=
  match condition with
  | .cross => g.cross
  | .chainInbound => g.chainInbound
  | .chainOutbound => g.chainOutbound

theorem mem_risks_one (kind condition : GridlockCondition) (active : Gridlock → Bool) (old : Vector Gridlock 12) (qw : Watch) (q : Pos)
    (start : Bool) (overlays : Overlays) :
    .gridlockRisk q condition start overlays ∈ positions.filterMap (risk kind active old qw) ↔
      condition = kind ∧ overlays = qw.overlays q ∧ active (qw.gridlock.get q) = start ∧ active (old.get q) = !start := by
  rw [List.mem_filterMap]
  refine ⟨fun ⟨p, _, is⟩ => ?_, fun ⟨kinds, same, now, before⟩ => ⟨q, mem_positions q, ?_⟩⟩
  · unfold risk at is
    split at is
    · nomatch is
    · next changed =>
      cases is
      refine ⟨rfl, rfl, rfl, ?_⟩
      revert changed
      cases active (qw.gridlock.get q) <;> cases active (old.get q) <;> simp
  · unfold risk
    rw [now, before, same, kinds]
    cases start <;> rfl

theorem mem_risks (old : Vector Gridlock 12) (qw : Watch) (q : Pos) (condition : GridlockCondition) (start : Bool)
    (overlays : Overlays) :
    .gridlockRisk q condition start overlays ∈ risks old qw ↔
      overlays = qw.overlays q ∧ stands condition (qw.gridlock.get q) = start ∧ stands condition (old.get q) = !start := by
  unfold risks
  rw [List.mem_append, List.mem_append, mem_risks_one, mem_risks_one, mem_risks_one]
  cases condition <;> simp [stands]

/-! ### A change of an approach (R74) -/

/-- What the notice of a change says. -/
def changeReport (p : Pos) (a : Approach) (r : ApproachRecord) (s : State) : NoticeBody :=
  .queueState
    { position := p, approach := a, previous := (s.approach p a).state, new := r.state, smoothed := r.heard.map Heard.smoothed,
      overlays := (changeApproach p a r s).qw.overlays p,
      gated := (if (s.approach p a).state = .blocked ∨ r.state = .blocked then gatedBy p a else none).map
        (fun q => (q, (changeApproach p a r s).qw.overlays q)) }

theorem overlays_approaches {qw qw' : Watch} (h : qw'.approaches = qw.approaches) : qw'.overlays = qw.overlays := by
  have at' : qw'.blockedAt = qw.blockedAt := by
    funext a q
    unfold Watch.blockedAt
    rw [h]
  funext p
  unfold Watch.overlays
  rw [at']

theorem changeApproach_same {p : Pos} {a : Approach} {r : ApproachRecord} {s : State} (h : r.state = (s.approach p a).state) :
    Notes [] s (changeApproach p a r s) := by
  have is : changeApproach p a r s = s.withApproach p a r := if_pos h
  rw [is]
  exact .silent rfl rfl

theorem changeApproach_notes {p : Pos} {a : Approach} {r : ApproachRecord} {s : State} (h : r.state ≠ (s.approach p a).state) :
    Notes (changeReport p a r s :: risks s.qw.gridlock (changeApproach p a r s).qw) s (changeApproach p a r s) := by
  have is : changeApproach p a r s = settleGridlock (noteQueueState p a (s.approach p a).state (s.withApproach p a r)) := if_neg h
  have record : (s.withApproach p a r).approach p a = r := by rw [withApproach_approach, if_pos ⟨rfl, rfl⟩]
  have qw : (changeApproach p a r s).qw = (s.withApproach p a r).qw.settleGridlock := by
    rw [changeApproach_qw, if_neg h]
  have overlays : (changeApproach p a r s).qw.overlays = (s.withApproach p a r).qw.overlays :=
    overlays_approaches (by rw [qw]; rfl)
  have report : noteQueueState p a (s.approach p a).state (s.withApproach p a r) =
      raiseNotice (changeReport p a r s) (s.withApproach p a r) := by
    unfold noteQueueState changeReport
    rw [record, overlays]
  have settled := settleGridlock_notes (noteQueueState p a (s.approach p a).state (s.withApproach p a r))
  rw [← is] at settled
  have told : Notes [changeReport p a r s] s (noteQueueState p a (s.approach p a).state (s.withApproach p a r)) := by
    rw [report]
    exact (Notes.silent rfl rfl : Notes [] s (s.withApproach p a r)).raised _
  rw [qw]
  exact told.trans settled

theorem silence_raises {p : Pos} {a : Approach} {h : Heard} {s : State} (heard : (s.approach p a).heard = some h)
    (due : h.silence = s.now) :
    let previous := (s.approach p a).state
    ∃ t risks, exec (.approachSilenceExpiry p a) s = .next t ∧
      Raises s t (if previous = .unknown then [] else .queueState
        { position := p, approach := a, previous := previous, new := .unknown, smoothed := none, overlays := t.qw.overlays p,
          gated := if previous = .blocked then (gatedBy p a).map (fun q => (q, t.qw.overlays q)) else none } :: risks) ∧
      ∀ q condition start overlays, previous ≠ .unknown →
        (.gridlockRisk q condition start overlays ∈ risks ↔ overlays = t.qw.overlays q ∧
          stands condition (t.qw.gridlock.get q) = start ∧ stands condition (s.qw.gridlock.get q) = !start) := by
  intro previous
  have silent : approachSilent s p a = true := by
    unfold approachSilent
    rw [heard]
    exact beq_iff_eq.2 due
  have run : exec (.approachSilenceExpiry p a) s = .next (finish (expireSilence p a s)) :=
    congrArg Host.Outcome.next (Identifications.whenDue_due silent)
  have qw : (finish (expireSilence p a s)).qw = (expireSilence p a s).qw := (settles_finish _).qw
  refine ⟨_, risks s.qw.gridlock (expireSilence p a s).qw, run, ?_, fun q condition start overlays _ => ?_⟩
  · rw [qw]
    by_cases unknown : previous = .unknown
    · rw [if_pos unknown]
      exact (changeApproach_same unknown.symm).finish
    · rw [if_neg unknown]
      have told := changeApproach_notes (p := p) (a := a) (r := (s.approach p a).become .unknown none) (s := s) (fun same => unknown same.symm)
      refine (told.congr (congrArg (· :: _) ?_)).finish
      unfold changeReport
      by_cases blocked : previous = .blocked
      · rw [if_pos (.inl blocked), if_pos blocked]
        rfl
      · rw [if_neg (not_or.2 ⟨blocked, nofun⟩), if_neg blocked]
        rfl
  · rw [qw]
    exact mem_risks _ _ q condition start overlays

end Sys2Proof.Proofs.ApproachNotices
end

section
/-! PROOF. The operations that begin no frame (used by O49), and the notice of a line reset (O49). -/

open Sys2Proof Sys2Proof.Machine

namespace Sys2Proof.Proofs.HushedSteps

open Links Roads Reports Records Notices Samples

/-! ### Operations that leave the SLI alone but for its notices -/

namespace Hushed

theorem rfl' (s : State) : Hushed s s := ⟨rfl⟩

theorem ofRoad {s t : State} (h : Road true (fun _ => True) (fun _ => True) s t) : Hushed s t := ⟨h.sli⟩

theorem ofOffered {s t : State} (h : Offered s t) : Hushed s t := .ofSli h.sli

theorem withIdent (s : State) (p : Pos) (f : Ident → Ident) : Hushed s (s.withIdent p f) := .ofSli rfl

theorem withHealth (s : State) (p : Pos) (f : Health → Health) : Hushed s (s.withHealth p f) := .ofSli rfl

theorem identification (s : State) (ih : Machine.Identification) : Hushed s { s with ih := ih } := .ofSli rfl

theorem line (s : State) (clc : LineController) : Hushed s { s with clc := clc } := .ofSli rfl

theorem forPositions {f : Pos → State → State} (hf : ∀ p u, Hushed u (f p u)) (s : State) : Hushed s (forPositions f s) :=
  Clearing.forPositions_keeps (K := Hushed s) (fun p u h => h.trans (hf p u)) (rfl' s)

theorem flushPool (s : State) : Hushed s (flushPool s) := by
  obtain ⟨pt, is⟩ := flushPool_eq s
  rw [is]
  exact .ofSli rfl

/-! #### Identification and health -/

theorem leftIdentified (p : Pos) (s : State) : Hushed s (leftIdentified p s) :=
  ⟨(Identifications.road_leftIdentified (A := fun _ => True) trivial (fun _ _ _ _ => trivial)).sli⟩

theorem setHealth (p : Pos) (x : HealthState) (c : HealthCause) (s : State) : Hushed s (setHealth p x c s) :=
  (withHealth s p _).trans (.raiseNotice _ _)

theorem liftCutOff (p : Pos) (s : State) : Hushed s (liftCutOff p s) := by
  unfold Machine.liftCutOff
  dsimp only
  split
  · exact setHealth p _ _ s
  · exact rfl' s

theorem cutOffReport (p : Pos) (s : State) : Hushed s (cutOffReport p s) :=
  ⟨(Identifications.road_cutOffReport (A := fun _ => True) trivial (fun _ _ _ _ => trivial)).sli⟩

theorem cutOff (p : Pos) (cause : HealthCause) (s : State) : Hushed s (cutOff p cause s) := by
  have reported := (setHealth p .cutOff cause s).trans (cutOffReport p _)
  unfold Machine.cutOff
  dsimp only
  split
  · exact reported.trans (withHealth _ p _)
  · exact reported

theorem beginIdentification (p : Pos) (s : State) : Hushed s (beginIdentification p s) := by
  unfold Machine.beginIdentification
  split
  · exact rfl' s
  · have begun (ih : Machine.Identification) :=
      ((((identification s ih).trans (withIdent _ p Ident.probing)).trans
        (withHealth _ p (fun h => { h with failures := 0 }))).trans (liftCutOff p _)).trans
        (withHealth _ p (fun h => { h with probeDeadline := none, probes := 0 }))
    dsimp only
    refine Hushed.trans ?_ (ofOffered (.offerIdentify p _))
    split
    · exact (begun _).trans (leftIdentified p _)
    · exact begun _

theorem forgetIdent (p : Pos) (s : State) : Hushed s (forgetIdent p s) := by
  have reset := withIdent s p (fun _ => Ident.reset)
  unfold Machine.forgetIdent
  dsimp only
  split
  · exact reset.trans (leftIdentified p _)
  · exact reset

theorem forgetAll (s : State) : Hushed s (forgetAll s) := (forPositions forgetIdent s).trans (identification _ _)

theorem priorityLineReset (s : State) : Hushed s (priorityLineReset s) :=
  (Hushed.ofSli rfl : Hushed s (s.withRoutes (fun _ => []))).trans
    (forPositions (fun _ u => ofRoad (.setOwner trivial (fun _ => trivial) u)) _)

theorem lineResetLine (s : State) : Hushed s (lineResetLine s) :=
  (((Hushed.ofSli rfl : Hushed s (s.withQueue [])).trans (line _ _)).trans (priorityLineReset _)).trans (flushPool _)

/-- What a line reset does after its notice. -/
theorem lineReset (s : State) : Hushed (lineResetNotice s) (lineReset s) := by
  have reset := (lineResetLine (lineResetNotice s)).trans (forgetAll _)
  unfold Machine.lineReset
  dsimp only
  split
  · exact reset.trans (forPositions beginIdentification _)
  · exact reset

end Hushed

/-! ### The notice of a line reset (R157) -/

theorem lineReset_raises {s : State} (due : s.ih.silence = some s.now) :
    ∃ t rest, exec .lineSilenceExpiry s = .next t ∧
      Raises s t (.lineReset s.ih.lastGood
        (positions.filter (fun p => (s.ident p).state == .identified && (s.health p).state != .cutOff))
        (min 255 (s.ih.lineResets + 1)) :: rest) := by
  have run : exec .lineSilenceExpiry s = .next (finish (lineReset s)) :=
    congrArg Host.Outcome.next (Identifications.whenDue_due (by
      rw [due]
      exact beq_self_eq_true _))
  have moves : Moves true true (lineResetNotice s) (lineReset s) := by
    have reset : Moves true true (lineResetNotice s) (forgetAll (lineResetLine (lineResetNotice s))) :=
      Moves.forgetAll (Moves.lineResetLine (.refl _))
    unfold lineReset
    dsimp only
    split
    · exact Moves.rollCall reset
    · exact reset
  obtain ⟨rest, told⟩ := notes_of_moves moves (Hushed.lineReset s)
  have first : Notes [.lineReset s.ih.lastGood
      (positions.filter (fun p => (s.ident p).state == .identified && (s.health p).state != .cutOff))
      (min 255 (s.ih.lineResets + 1))] s (lineResetNotice s) := by
    rw [← Failures.saturate_eq_min]
    exact ⟨rfl, rfl⟩
  exact ⟨_, rest, run, (first.trans told).finish⟩

end Sys2Proof.Proofs.HushedSteps
end

section
/-! PROOF. The notices of a cycle mark (O49). -/

open Sys2Proof Sys2Proof.Machine

namespace Sys2Proof.Proofs.MarkNotices

open Roads Notices MarkStages SelectorMarks

/-! ### The pending plan taken up (R126) -/

/-- What the handling of a pending plan tells. -/
def uptake (s : State) : List NoticeBody :=
  match s.ps.pendingPlan with
  | none => []
  | some x =>
    match s.pl.load x.slot with
    | .copy plan =>
      [.planChange
        { previousSlot := s.ps.activeSlot, newSlot := x.slot, previousLength := s.ctb.cycleLength,
          newLength := plan.header.cycleLength, wave := plan.header.wave, cause := x.cause, deferrals := s.ps.deferrals,
          totalFlow := s.ps.totalFlow, inboundShare := s.ps.inboundShare }]
    | .busy => []
    | .notValid found => [.planChangeFailed x.slot x.cause found s.ps.deferrals]

theorem takeUpPending_notes (s : State) : Notes (uptake s) s (takeUpPending s).1 := by
  unfold uptake takeUpPending
  rcases Option.eq_none_or_eq_some s.ps.pendingPlan with pending | ⟨x, pending⟩
  · simp only [pending]
    exact .rfl' s
  · simp only [pending]
    cases s.pl.load x.slot with
    | copy plan => exact ⟨rfl, rfl⟩
    | busy => exact .silent rfl rfl
    | notValid found => exact ⟨rfl, rfl⟩

/-- The part with the demand of the ended cycle closed. -/
def closed (s : State) : State := { s with ps := s.ps.closeDemand s.ctb.cycleLength }

theorem selectAtMark_notes (s : State) : ∃ rest, Notes (uptake (closed s) ++ rest) s (selectAtMark s).1 := by
  unfold selectAtMark
  extract_lets wasFree s₁ first s₂ s₃ s₄
  have h₁ : Notes [] s s₁ := .silent rfl rfl
  have h₂ : Notes (uptake (closed s)) s s₂ := h₁.after (takeUpPending_notes s₁)
  have h₃ : Notes (uptake (closed s)) s s₃ := h₂.same rfl rfl
  have h₄ : Notes (uptake (closed s)) s s₄ := by
    simp only [s₄]
    split
    · exact h₃.same rfl rfl
    · exact h₃
  split
  · exact ⟨_, h₄.trans (takeUpPending_notes s₄)⟩
  · exact ⟨[], h₄.trans (.rfl' s₄)⟩

/-! ### The mark (R3, R123) -/

theorem opened_notes (s : State) : Notes [] (selectAtMark s).1 (opened s) := .silent rfl rfl

theorem hushed_pointed (s : State) : Hushed (opened s) (forPositions commandPointAtMark (beforePoints s)) := by
  obtain ⟨v, pt, pm, steers, before, -⟩ := beforePoints_coord s
  have first : Hushed (opened s) (beforePoints s) := by
    rw [before]
    exact ⟨steers.sli⟩
  exact first.trans ⟨(pointPass_coord (beforePoints s)).1.sli⟩

theorem beaconRound_notes (s : State) : Notes [] s (beaconRound s) := by
  have on : Notes [] s (deadlineOn s) := .silent rfl rfl
  rw [show beaconRound s = if beaconCondition (deadlineOn s) then claimBeacon (deadlineOn s) else deadlineOn s from rfl]
  split
  · have offered : Offered (deadlineOn s) (claimBeacon (deadlineOn s)) := .offerEntry _ _
    exact on.quietly (.ofOffered offered)
  · exact on

theorem cycleMark_notes (s : State) : ∃ rest, Notes (uptake (closed s) ++ rest) s (cycleMark s) := by
  obtain ⟨first, selected⟩ := selectAtMark_notes s
  have moves : Moves false true (opened s) (forPositions commandPointAtMark (beforePoints s)) :=
    Moves.forPositions (fun p _ h => Moves.commandPointAtMark p h)
      (Moves.countDown (Moves.trackAtMark _ (Moves.coordAtMark _ _ (.refl _))))
  obtain ⟨second, told⟩ := notes_of_moves moves (hushed_pointed s)
  refine ⟨first ++ second, ?_⟩
  rw [cycleMark_eq]
  exact (((selected.quietly (opened_notes s)).trans told).quietly (beaconRound_notes _)).congr (List.append_assoc ..)

theorem mark_runs {s : State} (due : elapsed s.now s.ctb.anchor = s.ctb.cycleLength) :
    exec .cycleMark s = .next (finish (cycleMark s)) := congrArg Host.Outcome.next (markEvent_due due)

/-- The flows of a mark are those of the demand it closes. -/
theorem mark_flows {s : State} (due : elapsed s.now s.ctb.anchor = s.ctb.cycleLength) :
    (finish (cycleMark s)).ps.inboundFlow = (closed s).ps.inboundFlow ∧
      (finish (cycleMark s)).ps.outboundFlow = (closed s).ps.outboundFlow := by
  obtain ⟨worked, -⟩ := markEvent_marks due
  obtain ⟨-, -, -, -, -, -, -, -, -, -, -, selected⟩ := opened_leaves s
  have ps : (finish (cycleMark s)).ps = (marked s.pl s.ctb.cycleLength s.ps).1 := by
    rw [← markEvent_due due]
    exact worked.ps.trans (selected.trans (selectAtMark_marked s).1)
  obtain ⟨inbound, outbound, -, -⟩ := marked_flows s.pl s.ctb.cycleLength s.ps
  rw [ps]
  exact ⟨inbound, outbound⟩

theorem uptake_valid {s : State} {x : PendingPlan} {plan : Plan} (h : s.ps.pendingPlan = some x) (idle : s.pl.write = .idle)
    (valid : s.pl.slots.get x.slot = .valid plan) :
    uptake (closed s) = [.planChange
      { previousSlot := s.ps.image.map ActiveImage.slot, newSlot := x.slot, previousLength := s.ctb.cycleLength,
        newLength := plan.header.cycleLength, wave := plan.header.wave, cause := x.cause, deferrals := s.ps.deferrals,
        totalFlow := (closed s).ps.totalFlow, inboundShare := (closed s).ps.inboundShare }] := by
  have pending : (closed s).ps.pendingPlan = some x := h
  have load : (closed s).pl.load x.slot = .copy plan := load_valid idle valid
  unfold uptake
  simp only [pending, load]
  rfl

theorem uptake_invalid {s : State} {x : PendingPlan} {found : SlotState} (h : s.ps.pendingPlan = some x)
    (invalid : s.pl.load x.slot = .notValid found) :
    uptake (closed s) = [.planChangeFailed x.slot x.cause found s.ps.deferrals] := by
  have pending : (closed s).ps.pendingPlan = some x := h
  have load : (closed s).pl.load x.slot = .notValid found := invalid
  unfold uptake
  simp only [pending, load]
  rfl

theorem mark_raises {s : State} {x : PendingPlan} (due : elapsed s.now s.ctb.anchor = s.ctb.cycleLength)
    (pending : s.ps.pendingPlan = some x) (idle : s.pl.write = .idle) :
    (∀ plan, s.pl.slots.get x.slot = .valid plan → ∃ t rest, exec .cycleMark s = .next t ∧
      Raises s t (.planChange
        { previousSlot := s.ps.image.map ActiveImage.slot, newSlot := x.slot, previousLength := s.ctb.cycleLength,
          newLength := plan.header.cycleLength, wave := plan.header.wave, cause := x.cause, deferrals := s.ps.deferrals,
          totalFlow := t.ps.inboundFlow + t.ps.outboundFlow,
          inboundShare := (if t.ps.inboundFlow + t.ps.outboundFlow = 0 then 0
            else t.ps.inboundFlow * 100 / (t.ps.inboundFlow + t.ps.outboundFlow)) } :: rest)) ∧
    ∀ found, (s.pl.slots.get x.slot = .empty ∧ found = .empty) ∨ (s.pl.slots.get x.slot = .damaged ∧ found = .damaged) →
      ∃ t rest, exec .cycleMark s = .next t ∧ Raises s t (.planChangeFailed x.slot x.cause found s.ps.deferrals :: rest) := by
  obtain ⟨rest, told⟩ := cycleMark_notes s
  refine ⟨fun plan valid => ⟨_, rest, mark_runs due, ?_⟩, fun found state => ⟨_, rest, mark_runs due, ?_⟩⟩
  · obtain ⟨inbound, outbound⟩ := mark_flows due
    rw [inbound, outbound]
    rw [uptake_valid pending idle valid] at told
    exact told.finish
  · have load : s.pl.load x.slot = .notValid found := by
      have open' : ¬ s.pl.writing = true := by rw [Library.writing, idle]; nofun
      refine (if_neg open').trans ?_
      rcases state with ⟨is, found⟩ | ⟨is, found⟩ <;> rw [is, found]
    rw [uptake_invalid pending load] at told
    exact told.finish

end Sys2Proof.Proofs.MarkNotices
end

section
/-! PROOF. The notices of outcomes and of answers (O49). -/

open Sys2Proof Sys2Proof.Machine

namespace Sys2Proof.Proofs.OutcomeNotices

open Roads Reports Notices HushedSteps Failures Exchanges Answers Coordination Identifications

/-! ### Health (R152, R153) -/

theorem setHealth_notes (p : Pos) (state : HealthState) (cause : HealthCause) (s : State) :
    Notes [.healthChange p (s.health p).state state (s.health p).score (s.health p).failures cause] s
      (setHealth p state cause s) := by
  have own : (s.withHealth p (fun h => { h with state := state })).health p = { s.health p with state := state } := by
    rw [health_withHealth, if_pos rfl]
  unfold setHealth
  dsimp only
  rw [own]
  exact ⟨rfl, rfl⟩

theorem cutOff_notes (p : Pos) (cause : HealthCause) (s : State) :
    ∃ rest, Notes (.healthChange p (s.health p).state .cutOff (s.health p).score (s.health p).failures cause :: rest) s
      (cutOff p cause s) := by
  have told := setHealth_notes p .cutOff cause s
  obtain ⟨rest, reported⟩ := notes_of_moves (rt := true) (st := true) (Moves.cutOffReport p (.refl (setHealth p .cutOff cause s)))
    (Hushed.cutOffReport p _)
  refine ⟨rest, ?_⟩
  unfold cutOff
  dsimp only
  split
  · exact (told.trans reported).withHealth p _
  · exact told.trans reported

/-- A sound position whose score stays low tells nothing. -/
theorem followScore_low {p : Pos} {s : State} (passes : cutOffCause s p = none) (sound : (s.health p).state = .sound)
    (low : (s.health p).score < 64) : followScore p s = s := by
  have below : ¬ ((s.health p).state = .sound ∧ (s.health p).score ≥ Config.degradedScore) := fun both =>
    absurd both.2 (Nat.not_le.2 low)
  have stays : ¬ ((s.health p).state = .degraded ∧ (s.health p).score < Config.soundScore) := fun both =>
    absurd (sound.symm.trans both.1) nofun
  unfold followScore
  rw [passes]
  exact (if_neg below).trans (if_neg stays)

theorem followScore_degrades {p : Pos} {s : State} (passes : cutOffCause s p = none) (sound : (s.health p).state = .sound)
    (high : 64 ≤ (s.health p).score) : followScore p s = setHealth p .degraded .score s := by
  unfold followScore
  rw [passes]
  exact if_pos ⟨sound, high⟩

theorem followScore_cuts {p : Pos} {cause : HealthCause} {s : State} (is : cutOffCause s p = some cause) :
    followScore p s = cutOff p cause s := by
  unfold followScore
  rw [is]

/-- The state in which the score of a failed exchange is followed. -/
def failing (p : Pos) (s : State) : State := afterScore p { s with clc := s.clc.released }

theorem failing_health (p : Pos) (s : State) : (failing p s).health p = failedFigures (s.health p) := afterScore_health p _

theorem failing_notes (p : Pos) (s : State) : Notes [] s (failing p s) := .silent rfl rfl

/-- No entry is on the line. -/
def Unlined (s : State) : Prop := ∀ e ∈ s.clc.queue, e.onLine = false

theorem cutOff_unlined {p : Pos} {cause : HealthCause} {s : State} (h : Unlined s) : Unlined (cutOff p cause s) := by
  have road := road_cutOffReport (A := fun _ => True) (p := p) (s := setHealth p .cutOff cause s) trivial (fun _ _ _ _ => trivial)
  have reported : Unlined (cutOffReport p (setHealth p .cutOff cause s)) := fun e he => by
    rcases road.queue e he with old | ⟨-, -, -, off, -⟩
    · exact h e old
    · exact off
  unfold cutOff
  dsimp only
  generalize cutOffReport p (setHealth p .cutOff cause s) = u at reported ⊢
  split
  · exact reported
  · exact reported

theorem followScore_unlined {p : Pos} {s : State} (h : Unlined s) : Unlined (followScore p s) := by
  unfold followScore
  split
  · exact cutOff_unlined h
  · dsimp only
    split
    · exact h
    · split
      · exact h
      · exact h

/-- Where no entry is on the line, a window that expires does no more than score its exchange. -/
theorem failed_idle {p : Pos} {x : Exchange} {s : State} (h : awaiting s x p) (off : Unlined s) :
    exec .responseWindowExpiry s = .next (finish (followScore p (failing p s))) := by
  obtain ⟨hl, hp, hx⟩ := h
  have plain : standingProbe x s = false := by
    unfold standingProbe
    rw [onLineEntry_none off]
    exact Bool.and_false _
  have ended : endBad x s = afterFailure p (followScore p (failing p s)) := by
    unfold endBad
    rw [hx, plain]
    rfl
  refine (exec_fails hl (.inl ⟨hp, rfl⟩)).trans ?_
  rw [ended, afterFailure_none (onLineEntry_none (followScore_unlined (s := failing p s) off))]

theorem health_raises {p : Pos} {x : Exchange} {s : State} (h : awaiting s x p) (sound : (s.health p).state = .sound)
    (off : Unlined s) (known : (s.ident p).state = .identified) :
    let failed (state : HealthState) (cause : HealthCause) : NoticeBody :=
      .healthChange p .sound state (min 255 ((s.health p).score + 8)) (min 3 ((s.health p).failures + 1)) cause
    ∃ t rest, exec .responseWindowExpiry s = .next t ∧
      (2 ≤ (s.health p).failures → Raises s t (failed .cutOff .failures :: rest)) ∧
      ((s.health p).failures < 2 → 152 ≤ (s.health p).score → Raises s t (failed .cutOff .score :: rest)) ∧
      ((s.health p).failures < 2 → 56 ≤ (s.health p).score → (s.health p).score < 152 →
        Raises s t [failed .degraded .score]) ∧
      ((s.health p).failures < 2 → (s.health p).score < 56 → Raises s t []) := by
  intro failed
  have health := failing_health p s
  have known' : ((failing p s).ident p).state = .identified := known
  have sound' : ((failing p s).health p).state = .sound := by rw [health]; exact sound
  have score : ((failing p s).health p).score = min 255 ((s.health p).score + 8) := by rw [health]; rfl
  have failures : ((failing p s).health p).failures = min 3 ((s.health p).failures + 1) := by rw [health]; rfl
  have start := failing_notes p s
  have run := failed_idle h off
  have cuts {cause : HealthCause} (is : cutOffCause (failing p s) p = some cause) :
      ∃ rest, Raises s (finish (followScore p (failing p s))) (failed .cutOff cause :: rest) := by
    obtain ⟨rest, told⟩ := cutOff_notes p cause (failing p s)
    rw [sound', score, failures] at told
    rw [followScore_cuts is]
    exact ⟨rest, (start.after told).finish⟩
  have cause : cutOffCause (failing p s) p =
      if min 3 ((s.health p).failures + 1) = 3 then some .failures
      else if min 255 ((s.health p).score + 8) ≥ 160 then some .score else none := by
    have open' : ¬ (((failing p s).health p).state = .cutOff ∨ ((failing p s).ident p).state ≠ .identified) := by
      rw [sound', known']
      simp
    unfold cutOffCause
    dsimp only
    rw [if_neg open', score, failures]
    rfl
  generalize failing p s = u at *
  by_cases third : 2 ≤ (s.health p).failures
  · rw [if_pos (by omega)] at cause
    obtain ⟨rest, told⟩ := cuts cause
    exact ⟨_, rest, run, fun _ => told, by omega, by omega, by omega⟩
  · rw [if_neg (by omega)] at cause
    by_cases full : 152 ≤ (s.health p).score
    · rw [if_pos (by omega)] at cause
      obtain ⟨rest, told⟩ := cuts cause
      exact ⟨_, rest, run, by omega, fun _ _ => told, by omega, by omega⟩
    · rw [if_neg (by omega)] at cause
      refine ⟨_, [], run, by omega, by omega, fun _ high _ => ?_, fun _ low => ?_⟩
      · have told := setHealth_notes p .degraded .score u
        rw [sound', score, failures] at told
        rw [followScore_degrades cause sound' (by omega)]
        exact (start.after told).finish
      · rw [followScore_low cause sound' (by omega)]
        exact start.finish

/-! ### After a GOOD exchange -/

/-- A GOOD exchange of a sound position whose score is low tells nothing. -/
theorem afterGood_notes {p : Pos} {s : State} (sound : (s.health p).state = .sound) (low : (s.health p).score ≤ 64) :
    Notes [] s (afterGood p s) := by
  have start (u : State) (figures : u.health p = s.health p) (silent : Notes [] s u) :
      Notes [] s (followScore p (u.withHealth p (fun h => h.scored true))) := by
    have health : (u.withHealth p (fun h => h.scored true)).health p =
        { s.health p with score := (s.health p).score - 1, failures := 0 } := by
      rw [health_withHealth, if_pos rfl, figures]
      rfl
    rw [followScore_low (cutOffCause_none.2 (.inr (.inr ?_))) ?_ ?_]
    · exact silent.withHealth p _
    · rw [health]
      exact ⟨nofun, by dsimp only; omega⟩
    · rw [health]
      exact sound
    · rw [health]
      dsimp only
      omega
  exact start (noteGood (takeOffLine { s with clc := s.clc.released })) rfl (.silent rfl rfl)

/-! ### A refused TIMING-SET (R36) -/

theorem leaveToLocal_notes (p : Pos) (reason : LocalReason) (b : Bool) (s : State) :
    Notes [.positionState p (.inLocal reason) ((s.coord p).target.map Target.offset) none] s (leaveToLocal p reason b s) := by
  have own : ((withdrawTiming p s).withCoord p (fun c => { c.unsteered (.inLocal reason) with commanded := false })).coord p =
      { (s.coord p).unsteered (.inLocal reason) with commanded := false } := by
    rw [State.withCoord_coord, if_pos rfl]
    rfl
  have left : Notes [.positionState p (.inLocal reason) ((s.coord p).target.map Target.offset) none] s
      (notePosition p ((withdrawTiming p s).withCoord p
        (fun c => { c.unsteered (.inLocal reason) with commanded := false }))) := by
    unfold notePosition
    rw [own]
    exact ⟨rfl, rfl⟩
  unfold leaveToLocal
  dsimp only
  split
  · exact left.quietly (.ofOffered (.offerTo _ _ _ _))
  · exact left

theorem timingRefused_notes (p : Pos) (reason : NakReason) (figures : TimingSet) (s : State) :
    Notes (.timingRefused p reason (min 4 ((s.coord p).refusals + 1)) figures.planNumber ::
      if 3 ≤ (s.coord p).refusals ∧ coordinated (s.coord p).state = true then
        [.positionState p (.inLocal .refusing) ((s.coord p).target.map Target.offset) none] else []) s
      (timingRefused p reason figures s) := by
  have own := refused_coord p reason figures s
  have told : Notes [.timingRefused p reason (min 4 ((s.coord p).refusals + 1)) figures.planNumber] s
      (refused p reason figures s) := by
    unfold refused
    dsimp only
    rw [State.withCoord_coord, if_pos rfl]
    exact ⟨rfl, rfl⟩
  rw [timingRefused_eq]
  split
  · have left := leaveToLocal_notes p .refusing true (refused p reason figures s)
    rw [own] at left
    exact told.trans left
  · exact told

theorem refusal_raises {p : Pos} {x : Exchange} {figures : TimingSet} {route : Option RouteRef} {code : Nat}
    {reason : NakReason} {s : State} (h : awaiting s x p) (sound : (s.health p).state = .sound) (low : (s.health p).score ≤ 64)
    (work : x.work = .command (.timingSet figures) route) (is : nakReasonOf code = some reason)
    (other : reason ≠ .preempting) (distant : reason ≠ .localControl) :
    ∃ t, exec (.nak x.address code) s = .next t ∧
      Raises s t (.timingRefused p reason (min 4 ((s.coord p).refusals + 1)) figures.planNumber ::
        if 3 ≤ (s.coord p).refusals ∧ coordinated (s.coord p).state = true then
          [.positionState p (.inLocal .refusing) ((s.coord p).target.map Target.offset) none] else []) := by
  have run := exec_nak h work nofun nofun nofun is
  have counted : naked p (.timingSet figures) route reason (afterGood p s) = timingRefused p reason figures (afterGood p s) :=
    timingNak_counted other distant p figures _
  rw [counted] at run
  have told := timingRefused_notes p reason figures (afterGood p s)
  rw [(afterGood_good (p := p) (s := s) (.inr (by omega))).coord] at told
  exact ⟨_, run, ((afterGood_notes sound low).after told).finish⟩

/-! ### The end of an identification (R150, R151) -/

theorem exec_identity_stood {p : Pos} {x : Exchange} {route : Option RouteRef} {s : State} (h : awaiting s x p)
    (work : x.work = .command .identify route) (stood : (onLineEntry s).isSome = true) (reply : IdentityFields) :
    exec (.identity x.address reply) s = .next (finish (identityReply p reply (afterGood p s))) := by
  refine congrArg Host.Outcome.next ((onReply_good h rfl (by rw [work]; rfl)).trans (congrArg finish ?_))
  rw [endGood_plain (by rw [work]; exact fun r e => by cases e), stood]
  rfl

theorem completeMismatch_notes (p : Pos) (configured : Nat) (reported : Option Nat) (reason : MismatchReason) (s : State) :
    Notes [.siteMismatch p configured reported reason] s (completeMismatch p configured reported reason s) := ⟨rfl, rfl⟩

theorem coordIdentified_notes (p : Pos) (mode : ResolvedMode) (s : State) : ∃ l, Notes l s (coordIdentified p mode s) := by
  unfold coordIdentified
  dsimp only
  split
  · exact ⟨_, (Notes.silent rfl rfl : Notes [] s (s.withCoord p _)).raised _⟩
  · exact ⟨_, .rfl' s⟩

/-- What the notice of a completed identification says, from the record it leaves. -/
def identifiedReport (i : Ident) : IdentReport :=
  { result := .identified, site := i.site, abilities := i.abilities, detectors := i.detectors, mode := i.mode, basic := i.basic }

theorem completeIdentified_notes {p : Pos} {s : State} (h : Sound p s) (mode : ResolvedMode) (f : Ident → Ident) :
    ∃ before, Notes (before ++ [.identified p (identifiedReport
        { f (s.ident p) with state := .identified, mode := some mode, retry := none, byRequest := false })]) s
      (completeIdentified p mode f s) := by
  have kept := identified_figures p mode f s
  have sound : Sound p (identified p mode f s) := ⟨kept.failures.trans h.1, kept.score ▸ h.2⟩
  have ident := (identified_ident p p mode f s).trans (if_pos rfl)
  obtain ⟨before, told⟩ : ∃ l, Notes l s (identified p mode f s) := by
    obtain ⟨l, told⟩ := coordIdentified_notes p mode { s.withIdent p (fun i =>
      { f i with state := .identified, mode := some mode, retry := none, byRequest := false }) with
        clc := { s.clc with accepted := s.clc.accepted.set p.val none } }
    exact ⟨l, told.clock, told.sli⟩
  have eq : completeIdentified p mode f s =
      raiseNotice (.identified p (identifiedReport ((identified p mode f s).ident p))) (identified p mode f s) := by
    rw [completeIdentified_eq, testCutOff_sound sound]
    rfl
  rw [eq, ident]
  exact ⟨before, told.raised _⟩

theorem identity_raises {p : Pos} {x : Exchange} {route : Option RouteRef} {cfg : PositionConfig} {s : State}
    (h : awaiting s x p) (sound : (s.health p).state = .sound) (low : (s.health p).score ≤ 64)
    (work : x.work = .command .identify route) (stood : ∃ e ∈ s.clc.queue, e.onLine = true) (hc : s.config.get p = some cfg)
    (site abilities detectors : Nat) :
    ∃ t before, exec (.identity x.address { site := site, abilities := abilities, detectors := detectors }) s = .next t ∧
      (site ≠ cfg.site → Raises s t [.siteMismatch p cfg.site (some site) .site]) ∧
      (site = cfg.site → Raises s t (before ++ [.identified p
        { result := .identified, site := some site, abilities := (t.ident p).abilities, detectors := some detectors,
          mode := (t.ident p).mode, basic := some false }])) := by
  have run := exec_identity_stood h work (List.find?_isSome.2 stood)
    { site := site, abilities := abilities, detectors := detectors }
  have good := afterGood_good (p := p) (s := s) (.inr (by omega))
  have silent := afterGood_notes sound low
  have scored := Good.sound good (by omega)
  generalize afterGood p s = u at *
  have hc' : u.config.get p = some cfg := by rw [good.config]; exact hc
  by_cases same : site = cfg.site
  · subst same
    rw [identityReply_same hc'] at run
    have completed := finish_completed scored (resolveMode cfg.permittedModes (abilitiesOf abilities))
      (fun i => { i with site := some cfg.site, abilities := some (abilitiesOf abilities), detectors := some detectors,
                         basic := some false })
    obtain ⟨before, told⟩ := completeIdentified_notes scored (resolveMode cfg.permittedModes (abilitiesOf abilities))
      (fun i => { i with site := some cfg.site, abilities := some (abilitiesOf abilities), detectors := some detectors,
                         basic := some false })
    refine ⟨_, before, run, fun other => absurd rfl other, fun _ => ?_⟩
    rw [completed.ident]
    exact (silent.after told).finish
  · rw [identityReply_other hc' same] at run
    exact ⟨_, [], run, fun _ => (silent.after (completeMismatch_notes p cfg.site (some site) .site u)).finish,
      fun is => absurd is same⟩

theorem identifyDropped_notes (p : Pos) (s : State) :
    Notes (if s.ih.wasAbsent.get p = true ∧ (s.ident p).byRequest = false then [] else [.identified p
      { result := .absent, site := none, abilities := none, detectors := none, mode := none, basic := none }]) s
      (identifyDropped p s) := by
  have tell : (!s.ih.wasAbsent.get p || (s.ident p).byRequest) = true ↔
      ¬ (s.ih.wasAbsent.get p = true ∧ (s.ident p).byRequest = false) := by
    cases s.ih.wasAbsent.get p <;> cases (s.ident p).byRequest <;> simp
  unfold identifyDropped
  dsimp only
  by_cases silent : s.ih.wasAbsent.get p = true ∧ (s.ident p).byRequest = false
  · rw [if_pos silent, if_neg (fun told => tell.1 told silent)]
    exact .silent rfl rfl
  · rw [if_neg silent, if_pos (tell.2 silent)]
    exact ⟨rfl, rfl⟩

theorem failed_notes {p : Pos} {s u : State} (sound : (s.health p).state = .sound) (low : (s.health p).score < 56)
    (probing : (s.ident p).state = .probing)
    (is : u = failedOutcome p s ∨ u = (failedOutcome p s).withHealth p (fun h => { h with probes := 0 })) :
    Notes [] s u ∧ u.ih.wasAbsent = s.ih.wasAbsent ∧ u.ident p = s.ident p ∧ u.clc.queue = s.clc.queue := by
  have health := failing_health p s
  have plain : failedOutcome p s = failing p s := followScore_low (s := failing p s)
    (cutOffCause_none.2 (.inr (.inl (by rw [show (failing p s).ident p = s.ident p from rfl, probing]; nofun))))
    (by rw [health]; exact sound) (by rw [health]; change min 255 ((s.health p).score + 8) < 64; omega)
  have start := failing_notes p s
  rw [plain] at is
  rcases is with rfl | rfl
  · exact ⟨start, rfl, rfl, rfl⟩
  · exact ⟨start.withHealth p _, rfl, rfl, rfl⟩

theorem absent_raises {p : Pos} {x : Exchange} {before after : List QueueEntry} {e : QueueEntry} {s : State}
    (h : awaiting s x p) (sound : (s.health p).state = .sound) (queue : s.clc.queue = before ++ e :: after)
    (off : ∀ y ∈ before, y.onLine = false) (on : e.onLine = true) (command : e.command = .identify) (spent : 3 ≤ e.attempts)
    (low : (s.health p).score < 56) (probing : (s.ident p).state = .probing) :
    ∃ t, exec .responseWindowExpiry s = .next t ∧
      Raises s t (if s.ih.wasAbsent.get p = true ∧ (s.ident p).byRequest = false then [] else [.identified p
        { result := .absent, site := none, abilities := none, detectors := none, mode := none, basic := none }]) := by
  obtain ⟨hl, hp, hx⟩ := h
  obtain ⟨u, eq, is⟩ := endBad_eq hx s
  obtain ⟨silent, wasAbsent, ident, same⟩ := failed_notes sound low probing is
  have first : onLineEntry u = some e := by
    unfold onLineEntry
    rw [same, queue, List.find?_append, List.find?_eq_none.2 (fun y hy => by simp [off y hy]), List.find?_cons_of_pos on]
    rfl
  have drop : endBad x s = identifyDropped p (takeOffLine u) := by
    rw [eq, afterFailure_drop first (by rw [command]; exact spent), command]
    rfl
  have told := identifyDropped_notes p (takeOffLine u)
  rw [show (takeOffLine u).ih = u.ih from rfl, show (takeOffLine u).ident p = u.ident p from rfl, wasAbsent, ident] at told
  refine ⟨_, exec_fails hl (.inl ⟨hp, rfl⟩), ?_⟩
  rw [drop]
  have removed : Notes [] s (takeOffLine u) := silent.same rfl rfl
  exact (removed.after told).finish

end Sys2Proof.Proofs.OutcomeNotices
end

section
/-! PROOF. What the Platoon Tracker and Queue Watch tell of a record (O49). -/

open Sys2Proof Sys2Proof.Machine

namespace Sys2Proof.Proofs.DeliveryNotices

open Links Records Platoons PlatoonRecords Samples Notices ApproachNotices

/-! ### The Platoon Tracker (R53, R58) -/

/-- From `s` to `t` nothing is told, no report of an empty pool is made, and the links are tracked as they were. -/
structure Unheralded (s t : State) : Prop where
  notes : Notes [] s t
  raised : t.pt.poolEmptyRaised = true → s.pt.poolEmptyRaised = true
  tracked : ∀ m, (t.link m).tracked = (s.link m).tracked

namespace Unheralded

theorem rfl' (s : State) : Unheralded s s := ⟨.rfl' s, id, fun _ => rfl⟩

theorem trans {a b c : State} (h : Unheralded a b) (g : Unheralded b c) : Unheralded a c :=
  ⟨h.notes.trans g.notes, fun is => h.raised (g.raised is), fun m => (g.tracked m).trans (h.tracked m)⟩

theorem withLink (s : State) (l : Link) (f : LinkRecord → LinkRecord) (tracked : (f (s.link l)).tracked = (s.link l).tracked) :
    Unheralded s (s.withLink l f) := by
  refine ⟨.silent (congrArg TimeBase.timeOfDay (State.withLink_ctb s l f)) (State.withLink_sli s l f), ?_, fun m => ?_⟩
  · unfold State.withLink
    cases l.direction <;> exact id
  · rw [State.withLink_link]
    split
    · next is => rw [← is, tracked]
    · rfl

theorem freeRecords (n : Nat) (s : State) : Unheralded s (freeRecords n s) := by
  refine ⟨.silent rfl rfl, fun is => ?_, fun m => by rw [freeRecords_link]⟩
  change (s.pt.freed n).poolEmptyRaised = true at is
  unfold Tracker.freed at is
  split at is
  · exact is
  · dsimp only at is
    split at is
    · exact absurd is Bool.false_ne_true
    · exact is

theorem holdPlatoon (l : Link) (x : Platoon) (s : State) : Unheralded s (holdPlatoon l x s) :=
  (withLink s l (fun r => { r with
    queue := insertPlatoon { x with number := freeNumber s Config.poolSize s.pt.nextNumber } r.queue }) rfl).trans
    ⟨.silent rfl rfl, id, fun _ => rfl⟩

theorem displaceOldest (l : Link) (s : State) : Unheralded s (displaceOldest l s) := by
  unfold Machine.displaceOldest
  split
  · exact rfl' s
  · next rest _ => exact (withLink s l (fun r => { r with queue := rest }) rfl).trans (freeRecords 1 _)

theorem offerError (l : Link) (t : Time) (s : State) : Unheralded s (offerError l t s) := by
  obtain ⟨accumulators, is⟩ := offerError_rest l t s
  rw [is]
  exact ⟨.silent rfl rfl, id, fun _ => rfl⟩

theorem reestimated (l : Link) (x : Platoon) (t : Time) (s : State) : Unheralded s (reestimated l x t s) := by
  unfold Records.reestimated
  split
  · exact withLink s l _ rfl
  · exact rfl' s

end Unheralded

/-- What the tracker tells of a record: that the pool is empty, or that a link is tracked again. -/
structure Heralds (p : Pos) (d : EventDirection) (extra : Nat) (told : List NoticeBody) (s t : State) : Prop where
  notes : Notes told s t
  pool : s.pt.poolEmptyRaised = false → t.pt.poolEmptyRaised = true →
    ∃ l, linkLeaving p d = some l ∧ told = [.poolEmpty l (min 255 extra)]
  tracking : ∀ l, (s.link l).tracked = false → (t.link l).tracked = true →
    told = [.linkTracking l true (s.link l).estimate 0]

theorem Unheralded.heralds {s t : State} (h : Unheralded s t) (p : Pos) (d : EventDirection) (extra : Nat) :
    Heralds p d extra [] s t where
  notes := h.notes
  pool calm raised := absurd (calm.symm.trans (h.raised raised)) Bool.false_ne_true
  tracking l untracked tracked := absurd (untracked.symm.trans ((h.tracked l).symm.trans tracked)) Bool.false_ne_true

theorem placePlatoon_heralds {p : Pos} {d : EventDirection} {l : Link} (leaving : linkLeaving p d = some l) {extra : Nat}
    {x : Platoon} (size : x.size = min 255 extra) (s : State) : ∃ told, Heralds p d extra told s (placePlatoon l x s) := by
  unfold placePlatoon
  dsimp only
  split
  · split
    · exact ⟨_, (Unheralded.rfl' s).heralds p d extra⟩
    · exact ⟨_, ((Unheralded.displaceOldest l s).trans (.holdPlatoon l x _)).heralds p d extra⟩
  · split
    · split
      · exact ⟨_, (Unheralded.rfl' s).heralds p d extra⟩
      · refine ⟨[.poolEmpty l x.size], ⟨⟨rfl, rfl⟩, fun _ _ => ⟨l, leaving, by rw [size]⟩, fun m untracked tracked => ?_⟩⟩
        exact absurd (untracked.symm.trans tracked) Bool.false_ne_true
    · exact ⟨_, (Unheralded.holdPlatoon l x s).heralds p d extra⟩

theorem takeDeparture_heralds (p : Pos) (d : EventDirection) (duration extra : Nat) (t : Time) (s : State) :
    ∃ told, Heralds p d extra told s (takeDeparture p d duration extra t s) := by
  unfold takeDeparture
  split
  · exact ⟨_, (Unheralded.rfl' s).heralds p d extra⟩
  · next l leaving =>
    dsimp only
    split
    · split
      · exact placePlatoon_heralds leaving (Failures.saturate_eq_min _ _) s
      · exact ⟨_, (Unheralded.rfl' s).heralds p d extra⟩
    · exact ⟨_, (Unheralded.rfl' s).heralds p d extra⟩

/-- A match tells that its link is tracked again, where it was not. -/
theorem retracked_heralds (p : Pos) (d : EventDirection) (extra : Nat) (l : Link) (x : Platoon) (s : State) :
    ∃ told, Heralds p d extra told s (retracked l x s) := by
  have own : (matched l x s).link l =
      { s.link l with queue := removePlatoon x.number (s.link l).queue, lost := 0, tracked := true } := by
    unfold matched
    rw [freeRecords_link, State.withLink_link, if_pos rfl]
  have others (m : Link) (other : m ≠ l) : (matched l x s).link m = s.link m := by
    unfold matched
    rw [freeRecords_link, State.withLink_link, if_neg (Ne.symm other)]
  have silent : Notes [] s (matched l x s) :=
    .silent (congrArg TimeBase.timeOfDay (matched_only l x s).ctb) (State.withLink_sli s l _)
  have raised : (matched l x s).pt.poolEmptyRaised = true → s.pt.poolEmptyRaised = true := fun is => by
    have kept := (Unheralded.freeRecords 1 _).raised is
    unfold State.withLink at kept
    revert kept
    cases l.direction <;> exact id
  unfold retracked
  by_cases tracked : (s.link l).tracked = true
  · rw [if_pos tracked]
    have same : Unheralded s (matched l x s) := by
      refine ⟨silent, raised, fun m => ?_⟩
      by_cases here : m = l
      · rw [here, own, tracked]
      · rw [others m here]
    exact ⟨_, same.heralds p d extra⟩
  · rw [if_neg tracked]
    have told : Notes [.linkTracking l true (s.link l).estimate 0] s (noteTracking l (matched l x s)) := by
      unfold noteTracking
      dsimp only
      rw [own]
      exact silent.raised _
    refine ⟨_, told, fun calm is => ?_, fun m untracked is => ?_⟩
    · exact absurd (calm.symm.trans (raised is)) Bool.false_ne_true
    · by_cases here : m = l
      · rw [here]
      · have still : ((matched l x s).link m).tracked = true := is
        rw [others m here] at still
        exact absurd (untracked.symm.trans still) Bool.false_ne_true

theorem Heralds.quietly {p : Pos} {d : EventDirection} {extra : Nat} {told : List NoticeBody} {s t u : State}
    (h : Heralds p d extra told s t) (g : Unheralded t u) : Heralds p d extra told s u where
  notes := h.notes.quietly g.notes
  pool calm raised := h.pool calm (g.raised raised)
  tracking l untracked tracked := h.tracking l untracked ((g.tracked l).symm.trans tracked)

theorem takeArrival_heralds (p : Pos) (d : EventDirection) (extra : Nat) (t : Time) (s : State) :
    ∃ told, Heralds p d extra told s (takeArrival p d t s) := by
  unfold takeArrival
  split
  · exact ⟨_, (Unheralded.rfl' s).heralds p d extra⟩
  · next l _ =>
    split
    · exact ⟨_, (Unheralded.rfl' s).heralds p d extra⟩
    · next x _ =>
      obtain ⟨told, heralds⟩ := retracked_heralds p d extra l x s
      rw [matchPlatoon_eq]
      exact ⟨told, heralds.quietly ((Unheralded.reestimated l x t _).trans (.offerError l t _))⟩

theorem platooned_heralds (p : Pos) (rule : Rule) (w : WellFormedRecord) (t : Time) (s : State) :
    ∃ told, Heralds p w.direction w.record.extra told s (platooned p rule w t s) ∧
      (rule.destinations.platoon = false → told = []) := by
  cases on : rule.destinations.platoon with
  | false =>
    have is : platooned p rule w t s = s := if_neg (by rw [on]; exact Bool.false_ne_true)
    rw [is]
    exact ⟨_, (Unheralded.rfl' s).heralds p _ _, fun _ => rfl⟩
  | true =>
    have is : platooned p rule w t s = takePlatoonRecord p rule.tag w.direction w.record.value w.record.extra t s := if_pos on
    obtain ⟨told, heralds⟩ : ∃ told, Heralds p w.direction w.record.extra told s
        (takePlatoonRecord p rule.tag w.direction w.record.value w.record.extra t s) := by
      unfold takePlatoonRecord
      split
      · exact takeDeparture_heralds p _ _ _ t s
      · exact takeArrival_heralds p _ _ t s
      · exact ⟨_, (Unheralded.rfl' s).heralds p _ _⟩
    rw [is]
    exact ⟨told, heralds, nofun⟩

/-! ### Queue Watch (R74) -/

/-- The first notice of a record that changes the state of an approach is of that change. -/
def TellsChange (p : Pos) (told : List NoticeBody) (s t : State) : Prop :=
  ∀ a, (t.approach p a).state ≠ (s.approach p a).state → ∃ x rest, told = .queueState x :: rest ∧ x.position = p ∧
    x.approach = a ∧ x.previous = (s.approach p a).state ∧ x.new = (t.approach p a).state

theorem TellsChange.same {p : Pos} {told : List NoticeBody} {s t : State} (h : t.qw = s.qw) : TellsChange p told s t :=
  fun a changed => absurd (by rw [approach_congr (congrArg Watch.approaches h)]) changed

theorem changeApproach_tells (p : Pos) (a : Approach) (r : ApproachRecord) (s : State) :
    ∃ told, Notes told s (changeApproach p a r s) ∧ TellsChange p told s (changeApproach p a r s) := by
  have approach (b : Approach) := changeApproach_approach p p a b r s
  by_cases same : r.state = (s.approach p a).state
  · refine ⟨[], changeApproach_same same, fun b changed => absurd ?_ changed⟩
    rw [approach]
    split
    · next is => rw [is.2, same]
    · rfl
  · refine ⟨_, changeApproach_notes same, fun b changed => ?_⟩
    by_cases is : b = a
    · subst is
      have own : (changeApproach p b r s).approach p b = r := (approach b).trans (if_pos ⟨rfl, rfl⟩)
      exact ⟨_, _, rfl, rfl, rfl, rfl, by rw [own]⟩
    · rw [approach, if_neg (fun both => is both.2)] at changed
      exact absurd rfl changed

theorem watched_notes (p : Pos) (rule : Rule) (w : WellFormedRecord) (t : Time) (s : State) :
    ∃ told, Notes told s (watched p rule w t s) ∧ TellsChange p told s (watched p rule w t s) ∧
      (rule.destinations.queue = false → told = []) := by
  cases on : rule.destinations.queue with
  | false =>
    have is : watched p rule w t s = s := if_neg (by rw [on]; exact Bool.false_ne_true)
    rw [is]
    exact ⟨[], .rfl' s, .same rfl, fun _ => rfl⟩
  | true =>
    have is : watched p rule w t s = takeSample p rule.tag w.direction w.record.value t s := if_pos on
    obtain ⟨told, notes, tells⟩ : ∃ told, Notes told s (takeSample p rule.tag w.direction w.record.value t s) ∧
        TellsChange p told s (takeSample p rule.tag w.direction w.record.value t s) := by
      unfold takeSample
      split
      · exact ⟨[], .rfl' s, .same rfl⟩
      · split
        · exact changeApproach_tells p _ _ s
        · exact ⟨[], .rfl' s, .same rfl⟩
    rw [is]
    exact ⟨told, notes, tells, nofun⟩

/-! ### The delivery (R163, R164) -/

theorem counted_notes (rule : Rule) (w : WellFormedRecord) (s : State) : Notes [] s (counted rule w s) := by
  unfold counted takeCount
  split
  · split
    · split
      · exact .silent rfl rfl
      · exact .silent rfl rfl
      · exact .rfl' s
    · exact .rfl' s
  · exact .rfl' s

theorem told_notes (p : Pos) (i : RuleIx) (rule : Rule) (w : WellFormedRecord) (t : Time) (s : State) :
    Notes (if rule.destinations.notice = true then [.detectorEvent p (some (i, rule.tag)) (reportOf w t)] else []) s
      (told p i rule w t s) := by
  unfold told
  split
  · exact ⟨rfl, rfl⟩
  · exact .rfl' s

/-- What the delivery of a record tells, in the order of the destinations. -/
theorem deliver_notes (p : Pos) (i : RuleIx) (rule : Rule) (w : WellFormedRecord) (t : Time) (s : State) :
    ∃ tracked watched', Notes (tracked ++ watched' ++
        if rule.destinations.notice = true then [.detectorEvent p (some (i, rule.tag)) (reportOf w t)] else []) s
        (deliver p i rule w t s) ∧
      Heralds p w.direction w.record.extra tracked s (platooned p rule w t s) ∧
      TellsChange p watched' s (deliver p i rule w t s) ∧
      (rule.destinations.platoon = false → tracked = []) ∧ (rule.destinations.queue = false → watched' = []) := by
  obtain ⟨tracked, heralds, untracked⟩ := platooned_heralds p rule w t s
  obtain ⟨seen, notes, tells, unseen⟩ := watched_notes p rule w t (platooned p rule w t s)
  have before (a : Approach) : (platooned p rule w t s).approach p a = s.approach p a :=
    approach_congr (congrArg Watch.approaches (platooned_only p rule w t s).qw) p a
  have after (a : Approach) : (deliver p i rule w t s).approach p a =
      (watched p rule w t (platooned p rule w t s)).approach p a :=
    approach_congr (congrArg Watch.approaches (told_qw p i rule w t s)) p a
  refine ⟨tracked, seen, ?_, heralds, fun a changed => ?_, untracked, unseen⟩
  · rw [deliver_eq]
    exact (heralds.notes.trans ((notes.quietly (counted_notes rule w _)).trans (told_notes p i rule w t _))).congr (List.append_assoc ..).symm
  · have change := tells a
    rw [before, ← after] at change
    exact change changed

end Sys2Proof.Proofs.DeliveryNotices
end

section
/-! PROOF. The obligation on the notices of events (O49). -/

open Sys2Proof Sys2Proof.Machine

namespace Sys2Proof.Proofs.EventNotices

open Answers Roads Coordination StatusReplies Records OneRecord FixedRecords CallRecords Calls Notices HushedSteps OutcomeNotices
  DeliveryNotices

/-! ### A STATUS up to its records (R132, R133) -/

/-- A STATUS that answers a poll of a sound position finds it without having told anything. -/
theorem exec_status_silent {p : Pos} {x : Exchange} {reply : StatusFields} {s : State} (polled : Polled s x p)
    (stage : (stageOf reply.stage).isSome = true) (few : reply.records.length ≤ 8) (sound : (s.health p).state = .sound)
    (low : (s.health p).score ≤ 64) :
    ∃ u, Good p s u ∧ Notes [] s u ∧ exec (.status x.address reply) s = .next (finish (takeStatus p reply u)) := by
  obtain ⟨known, hk⟩ := Option.isSome_iff_exists.1 stage
  have before : Notes [] s (beforeStatus p reply known s) := (afterGood_notes sound low).same rfl rfl
  exact ⟨_, beforeStatus_good reply known polled.score, before, exec_status_polled polled hk few⟩

theorem followField_notes {p : Pos} {flag : Bool} {s : State} (clear : flag = false)
    (other : (s.coord p).state ≠ .inLocal .fieldLocal) : Notes [] s (followField p flag s) := by
  have is : followField p flag s = s.withCoord p (fun c => { c with fieldLocal := false }) := by
    rw [clear]
    exact fieldLocalClear_other other
  rw [is]
  exact .silent rfl rfl

/-! ### The PREEMPTING flag (R92) -/

theorem ownerTaken_notes (p : Pos) (s : State) :
    Notes (if steered (s.coord p).state = true then
      [.positionState p .preempted ((s.coord p).target.map Target.offset) none] else []) s (ownerTaken p s) := by
  unfold ownerTaken
  split
  · have own : ((withdrawTiming p s).withCoord p (fun c => { c.unsteered .preempted with commanded := false })).coord p =
        { (s.coord p).unsteered .preempted with commanded := false } := by
      rw [State.withCoord_coord, if_pos rfl]
      rfl
    unfold notePosition
    rw [own]
    exact ⟨rfl, rfl⟩
  · exact .rfl' s

theorem flag_raises {p : Pos} {x : Exchange} {reply : StatusFields} {s : State} (polled : Polled s x p)
    (stage : (stageOf reply.stage).isSome = true) (sound : (s.health p).state = .sound) (low : (s.health p).score ≤ 64)
    (bare : reply.records = []) (clear : bit reply.flags 0 = false) (flag : bit reply.flags 1 = true) (free : s.owner p = .none)
    (other : (s.coord p).state ≠ .inLocal .fieldLocal) :
    ∃ t, exec (.status x.address reply) s = .next t ∧
      Raises s t ((if steered (s.coord p).state then
        [.positionState p .preempted ((s.coord p).target.map Target.offset) none] else []) ++
          [.preemptStart p .none .flag .noneRequested]) := by
  obtain ⟨u, good, silent, run⟩ := exec_status_silent polled stage (by rw [bare]; exact Nat.zero_le 8) sound low
  have field : followField p false u = u.withCoord p (fun c => { c with fieldLocal := false }) :=
    fieldLocalClear_other (by rw [good.coord]; exact other)
  have coord : (followField p false u).coord p = { s.coord p with fieldLocal := false } := by
    rw [field, State.withCoord_coord, if_pos rfl, good.coord]
  have start : Notes [] s (followField p false u) :=
    silent.quietly (followField_notes rfl (by rw [good.coord]; exact other))
  have owner : (followField p false u).owner p = .none := by
    unfold State.owner
    rw [followField_pm]
    exact (good.owner p).trans free
  have judged : judgePreempting p true (followField p false u) =
      raiseNotice (.preemptStart p .none .flag .noneRequested)
        (ownerTaken p (withOwner p (.localCall .none) (followField p false u))) := callLearned_free owner .flag
  have taken := ownerTaken_notes p (withOwner p (.localCall .none) (followField p false u))
  have rests : steered ((judgePreempting p true (followField p false u)).coord p).state = false := by
    rw [judged, raiseNotice_coord]
    cases steers : steered ((followField p false u).coord p).state with
    | true => rw [ownerTaken_coord (s := withOwner p (.localCall .none) (followField p false u)) steers]; rfl
    | false => rw [ownerTaken_unsteered (s := withOwner p (.localCall .none) (followField p false u)) steers]; exact steers
  have ends : takeStatus p reply u = judgePreempting p true (followField p false u) := by
    rw [takeStatus_noRecords bare, clear, flag]
    dsimp only
    split
    · exact measure_unsteered rests _ _
    · rfl
  refine ⟨_, run, ?_⟩
  rw [ends, judged]
  rw [show (withOwner p (.localCall .none) (followField p false u)).coord p = (followField p false u).coord p from rfl,
    coord] at taken
  have begun : Notes [] s (withOwner p (.localCall .none) (followField p false u)) := start.same rfl rfl
  exact ((begun.after taken).raised _).finish

/-! ### A STATUS with one record (R133, R134) -/

/-- What a STATUS tells after its record. -/
theorem takeStatus_rest (p : Pos) (reply : StatusFields) (r : EventRecord) (v y : State) :
    let w := judgePreempting p (bit reply.flags 1) (accept p r y)
    ∃ rest, Notes rest y (if steered (v.coord p).state && steered (y.coord p).state then
      Machine.measure p reply.localPosition reply.localLength w else w) := by
  intro w
  have moves : Moves true true y w := Moves.judgePreempting p _ ((Moves.refl y).trans (.accepted _ _))
  have hushed : Hushed y w := Hushed.trans (.ofSli rfl : Hushed y (accept p r y)) ⟨(Managed.judgePreempting p _ _).sli⟩
  obtain ⟨rest, told⟩ := notes_of_moves moves hushed
  split
  · obtain ⟨last, measured⟩ := notes_of_moves (rt := true) (st := true) (Moves.measure p reply.localPosition reply.localLength (.refl w))
      ⟨(CoordAt.measure p _ _ w).only.sli⟩
    exact ⟨_, told.trans measured⟩
  · exact ⟨rest, told⟩

/-- A STATUS with one record tells what the record tells, then what follows it. -/
theorem exec_status_tells {p : Pos} {x : Exchange} {reply : StatusFields} {r : EventRecord} {s : State} (h : Reports s x p reply r)
    (sound : (s.health p).state = .sound) (low : (s.health p).score ≤ 64) (clear : bit reply.flags 0 = false)
    (other : (s.coord p).state ≠ .inLocal .fieldLocal) :
    ∃ u v y w t, Carried p reply r s u v y w t ∧ exec (.status x.address reply) s = .next (finish t) ∧
      ∀ l, Notes l v y → ∃ rest, Raises s (finish t) (l ++ rest) := by
  obtain ⟨u, good, silent, run⟩ := exec_status_silent h.polled h.stage (by rw [h.one]; exact Nat.le_add_left 1 7) sound low
  obtain ⟨v, y, w, carried⟩ := takeStatus_carried h good
  have start : Notes [] s v := by
    rw [carried.field]
    exact silent.quietly (followField_notes clear (by rw [good.coord]; exact other))
  have steps := takeStatus_one h.one (followField_newer h good)
  dsimp only at steps
  rw [← carried.field, ← carried.routed] at steps
  obtain ⟨rest, ends⟩ := takeStatus_rest p reply r v y
  rw [← steps] at ends
  exact ⟨u, v, y, w, _, carried, run, fun l told => ⟨rest, ((start.after told).trans ends).finish⟩⟩

/-! ### The fixed route (R85, R88, R94, R96) -/

theorem fixedCounted_notes (s : State) : Notes [] s (fixedCounted s) := .silent rfl rfl

theorem preemptCall_notes {s : State} (live : s.isLive = true) (p : Pos) (d : EventDirection) :
    ∃ before outcome, Notes (before ++ [.preemptStart p d .call outcome]) s (preemptCall p d s) := by
  have moves : Moves true true s (formRoute p d (called p d s)).1 := by
    refine Moves.formRoute _ _ (Moves.setOwner _ _ (Moves.endRouteFrom _ ?_))
    unfold withdrawn
    split
    · exact Moves.withdrawEnd _ (Moves.withdrawClear _ (Moves.leaveRoute _ (.refl s)))
    · exact Moves.withdrawClear _ (Moves.leaveRoute _ (.refl s))
  have hushed : Hushed s (formRoute p d (called p d s)).1 :=
    (⟨(called_road p d s).sli⟩ : Hushed s (called p d s)).trans ⟨(Managed.formRoute p d _).sli⟩
  obtain ⟨before, told⟩ := notes_of_moves moves hushed
  rw [preemptCall_eq live]
  exact ⟨before, _, told.raised _⟩

theorem endCall_notes (p : Pos) (cause : EndCause) (s : State) :
    ∃ before ended, Notes (before ++ [.preemptEnd p cause ended]) s (endCall p cause s) := by
  have moves : Moves true true s (setOwner p .none (endRouteFrom p s).1) :=
    Moves.setOwner _ _ (Moves.endRouteFrom _ (.refl s))
  obtain ⟨before, told⟩ := notes_of_moves moves
    ⟨((Managed.endRouteFrom p s).trans (.setOwner p .none _)).sli⟩
  exact ⟨before, _, told.raised _⟩

theorem transitCall_notes {s : State} (live : s.isLive = true) (k : Pos) (d : EventDirection) (arrival extra : Nat) :
    ∃ x, Notes [.transitGrant x] s (transitCall k d arrival extra s) ∧ x.position = k ∧ x.direction = d ∧
      x.arrival = arrival ∧ x.extra = extra := by
  unfold transitCall
  rw [if_pos live]
  cases denial s k with
  | some reason =>
    dsimp only
    have offered : Notes [] s (offerTo (.priorityAnswer (.deny reason)) k none s).1 := .ofOffered (.offerTo _ _ _ _)
    exact ⟨_, offered.raised _, rfl, rfl, rfl, rfl⟩
  | none =>
    dsimp only
    have offered : Notes [] s (offerTo (.priorityAnswer (.grant (extensionAt s k))) k none s).1 := .ofOffered (.offerTo _ _ _ _)
    refine ⟨_, Notes.raised (l := []) ?_ _, rfl, rfl, rfl, rfl⟩
    split
    · exact offered.same rfl rfl
    · exact offered

theorem unitFault_notes {s : State} {k : Pos} (live : s.isLive = true) (apart : s.pm.isMember k = false) :
    Notes [] s (unitFault k s) := by
  obtain ⟨pm, is⟩ := raised_rest k s
  rw [unitFault_stranger live apart, is]
  exact .silent rfl rfl

/-! ### The record of a STATUS (R53, R58, R74, R95, R96, R164) -/

theorem record_raises {p : Pos} {x : Exchange} {reply : StatusFields} {r : EventRecord} {d : EventDirection} {s : State}
    (reports : Reports s x p reply r) (sound : (s.health p).state = .sound) (low : (s.health p).score ≤ 64)
    (clear : bit reply.flags 0 = false) (other : (s.coord p).state ≠ .inLocal .fieldLocal) :
    let report (kind : RecordKind) : RecordReport :=
      { sequence := r.sequence, kind := kind, direction := d, detector := r.detector, value := r.value, extra := r.extra,
        eventTime := earlier s.now r.age }
    ∃ t, exec (.status x.address reply) s = .next t ∧
      (fixedRecord r .preemptCall d → ∃ before outcome rest, Raises s t (before ++ .preemptStart p d .call outcome :: rest)) ∧
      (fixedRecord r .preemptClear d → (∃ d, s.owner p = .localCall d) →
        ∃ before ended rest, Raises s t (before ++ .preemptEnd p .clear ended :: rest)) ∧
      (fixedRecord r .transitCall d → ∃ x rest, Raises s t (.transitGrant x :: rest) ∧ x.position = p ∧ x.direction = d ∧
        x.arrival = r.value ∧ x.extra = r.extra) ∧
      (fixedRecord r .unitFault d → s.pm.isMember p = false →
        ∃ rest, Raises s t (.detectorEvent p none (report .unitFault) :: rest)) ∧
      ∀ rule, deliveredBy s p r d rule →
        (rule.destinations.platoon = false → rule.destinations.queue = false → rule.destinations.notice = true →
          ∃ i kind rest, s.er.rules.get i = some rule ∧ recordKindOf r.kind = some kind ∧
            Raises s t (.detectorEvent p (some (i, rule.tag)) (report kind) :: rest)) ∧
        (rule.destinations.platoon = false → ∀ a, (t.approach p a).state ≠ (s.approach p a).state →
          ∃ x rest, Raises s t (.queueState x :: rest) ∧ x.position = p ∧ x.approach = a ∧
            x.previous = (s.approach p a).state ∧ x.new = (t.approach p a).state) ∧
        (s.pt.poolEmptyRaised = false → t.pt.poolEmptyRaised = true →
          ∃ l rest, linkLeaving p d = some l ∧ Raises s t (.poolEmpty l (min 255 r.extra) :: rest)) ∧
        ∀ l, (s.link l).tracked = false → (t.link l).tracked = true →
          ∃ rest, Raises s t (.linkTracking l true (s.link l).estimate 0 :: rest) := by
  intro report
  obtain ⟨u, v, y, w, t, carried, run, ends⟩ := exec_status_tells reports sound low clear other
  have live : (fixedCounted v).isLive = true := carried.isLive
  refine ⟨_, run, fun fixed => ?_, fun fixed ⟨way, call⟩ => ?_, fun fixed => ?_, fun fixed apart => ?_, fun rule rules => ?_⟩
  · obtain ⟨before, outcome, told⟩ := preemptCall_notes live p d
    rw [← routed_call carried fixed] at told
    obtain ⟨rest, raises⟩ := ends _ ((fixedCounted_notes v).after told)
    rw [List.append_assoc] at raises
    exact ⟨before, outcome, rest, raises⟩
  · obtain ⟨before, ended, told⟩ := endCall_notes p .clear (fixedCounted v)
    rw [← preemptClear_called live ((carried.owner p).trans call), ← routed_clear carried fixed] at told
    obtain ⟨rest, raises⟩ := ends _ ((fixedCounted_notes v).after told)
    rw [List.append_assoc] at raises
    exact ⟨before, ended, rest, raises⟩
  · obtain ⟨grant, told, figures⟩ := transitCall_notes live p d r.value r.extra
    rw [← routed_transit carried fixed] at told
    obtain ⟨rest, raises⟩ := ends _ ((fixedCounted_notes v).after told)
    exact ⟨grant, rest, raises, figures⟩
  · have silent := unitFault_notes (k := p) live (by rw [show (fixedCounted v).pm = s.pm from carried.pm]; exact apart)
    have told := ((fixedCounted_notes v).after silent).raised
      (.detectorEvent p none (reportOf { kind := .unitFault, direction := d, record := r } (eventTime v.now r)))
    rw [← routed_fault carried fixed, show eventTime v.now r = earlier s.now r.age from
      congrArg (fun now => earlier now r.age) carried.now] at told
    exact ends _ told
  · obtain ⟨kind, i, known, place, receives, delivers⟩ := carried.delivered rules
    obtain ⟨tracked, seen, told, heralds, changes, untracked, unseen⟩ := deliver_notes p i rule
      { kind := kind, direction := d, record := r } (earlier s.now r.age) (countHit i v)
    have pt : (finish t).pt = _ := carried.final_pt.trans ((congrArg State.pt delivers).trans (PlatoonRecords.deliver_pt _ _ _ _ _ _))
    have qw : (finish t).qw = _ := carried.final_qw.trans (congrArg State.qw delivers)
    rw [← delivers] at told
    have begun : Notes [] v (countHit i v) := .silent rfl rfl
    obtain ⟨rest, raises⟩ := ends _ (begun.after told)
    have approach (a : Approach) : (countHit i v).approach p a = s.approach p a :=
      Samples.approach_congr (congrArg Watch.approaches receives.qw) p a
    have approach' (a : Approach) := Samples.approach_congr (congrArg Watch.approaches qw) p a
    have link' (l : Link) : (finish t).link l = _ := link_congr (congrArg Tracker.inboundLinks pt) (congrArg Tracker.outboundLinks pt) l
    refine ⟨fun noPlatoon noQueue notice => ?_, fun noPlatoon a changed => ?_, fun calm raised => ?_, fun l calm raised => ?_⟩
    · rw [untracked noPlatoon, unseen noQueue, if_pos notice] at raises
      exact ⟨i, kind, rest, place, known, raises⟩
    · rw [approach'] at changed ⊢
      rw [← approach] at changed ⊢
      obtain ⟨x, others, is, figures⟩ := changes a changed
      rw [untracked noPlatoon, is] at raises
      exact ⟨x, _, raises, figures⟩
    · rw [pt] at raised
      rw [← receives.pt] at calm
      obtain ⟨l, leaving, is⟩ := heralds.pool calm raised
      rw [is] at raises
      exact ⟨l, _, leaving, raises⟩
    · rw [link'] at raised
      rw [← receives.link] at calm ⊢
      rw [heralds.tracking l calm raised] at raises
      exact ⟨_, raises⟩

/-- Settles O49, event by event. -/
theorem eventsRaiseTheirNotices : Obligations.EventsRaiseTheirNotices := by
  unfold Obligations.EventsRaiseTheirNotices
  refine ⟨fun slot s => ⟨fun plan => DeadlineNotices.commit_raises, DeadlineNotices.erase_raises⟩,
    fun n l s => DeadlineNotices.window_raises, fun p a h s heard due => ?_, fun p r s => DeadlineNotices.timeout_raises,
    fun s => HushedSteps.lineReset_raises, fun s x => MarkNotices.mark_raises, fun p x s waits sound => ⟨?_, fun low => ?_⟩,
    fun p x reply s polled stage sound low bare clear flag free other =>
      flag_raises polled stage sound low bare clear flag free other,
    fun p x reply r d s reports sound low clear other => record_raises reports sound low clear other⟩
  · obtain ⟨t, risks, run, raises, told⟩ := ApproachNotices.silence_raises heard due
    refine ⟨t, risks, run, raises, fun q condition start overlays known => ?_⟩
    have same := told q condition start overlays known
    cases condition <;> exact same
  · exact fun off known => health_raises waits sound off known
  · exact ⟨fun figures route code reason work is preempts local' => refusal_raises waits sound low work is preempts local',
      fun route cfg site abilities detectors work stood hc _ => identity_raises waits sound low work stood hc site abilities detectors,
      fun before e after queue off on command spent few probing =>
        absent_raises waits sound queue off on command spent few probing⟩

end Sys2Proof.Proofs.EventNotices
end
